-- ==== Sys2Proof/Word.lean ====
section
/-! DEFINITION. The word types of the Syevo (R3, R33, Tables 2.1 to 2.13) and their plainest arithmetic. -/

namespace Sys2Proof

/-- A general register's 64-bit pattern (R85). -/
abbrev Word := BitVec 64

/-- The smallest addressable unit of every memory (R3). -/
abbrev Byte := BitVec 8

/-- A 32-bit word: an instruction word (R33), an accumulator word, an F32 pattern. -/
abbrev Half := BitVec 32

/-- A g register number (Table 2.13). -/
abbrev Reg := BitVec 5

/-- A pointer or mask register number (Table 2.13). -/
abbrev Ptr := BitVec 3

/-- A token or guard slot number (Table 2.13). -/
abbrev Slot := BitVec 3

end Sys2Proof
end

