-- ==== Sys2Proof/Config.lean ====
section
/-! DEFINITION. What an implementation fixes and the spec leaves open: free values, constants without a body, so that nothing can be
proved of their values. -/

namespace Sys2Proof.Config

/-- Free bytes, applied to the counter `State.free`: the content of the engine state in a saved core image (R177). -/
opaque freeByte : Nat → Byte

/-- SHA-384 of a byte string as the root of trust computes it (R377); the hash is named by the spec, not defined in it. -/
opaque sha384 : List Byte → BitVec 384

/-- The ECDSA P-384 signature of the measurement registers (R377): the module's key and the signing nonce are not in the spec. -/
opaque signature : List (BitVec 384) → BitVec 768

/-- The cause with which a fenced core's negative acknowledgement faults the sender's token (R323 names none). -/
opaque fencedCause : BitVec 8

/-- What 16 bytes of GDDR7 that were written under one key read as under another (R357), by block address: AES-XTS-256 with keys that are no part
of the spec (Table 0.1). -/
opaque recrypt (old new addr : Nat) (data : BitVec 128) : BitVec 128

/-- The set of the 8-way translation cache in which an entry stands (R310), by its id, its page number and its page size; the index is not in
the spec. -/
opaque tlbSet (id vpn lg : Nat) : Nat

end Sys2Proof.Config
end

