-- ==== Sys2Proof/Syntax.lean ====
section
/-! DEFINITION. The instructions and steps of the Syevo: one constructor for each row of the opcode table (R43, Table 2.14, and
the steps of 95_what_each_step_holds.md). A word row carries the word's operand fields under the table's field names; a step row
carries the core, cluster, message or reading that the step concerns. -/

namespace Sys2Proof

/-- A section of a supervisor image as the boot firmware places it (R328, Table 4.3, steps 1 to 4 of Table 4.7). -/
inductive ImageSection where
  /-- Bank bytes at a local address (kinds 3 to 5). -/
  | bank (addr : Nat) (bytes : List Byte)
  /-- Instruction-store bytes (kind 1). -/
  | istore (addr : Nat) (bytes : List Byte)
  /-- A tensor descriptor (kind 8): its number, whether a barrier is bound, its 256 bits. -/
  | tdesc (td : Nat) (bound : Bool) (d : BitVec 256)
  /-- A mailbox descriptor (kind 9) at its local address. -/
  | mailbox (addr : Nat) (d : BitVec 512)
  deriving DecidableEq, Repr

/-- A die supervisor's image (R328): its header entry and its sections. -/
structure SupervisorImage where
  entry : Nat
  sections : List ImageSection
  deriving DecidableEq, Repr

/-- A context of a core: whose command an engine takes up (R151, R192). -/
structure CtxAt where
  core : Nat
  ctx : Nat
  deriving DecidableEq, Repr

/-- A group member as an offset from the mooring cluster (R279, Table 4.3). -/
structure Member where
  dcx : Int
  dcy : Int
  lx : Nat
  ly : Nat
  deriving DecidableEq, Repr

/-- What the launch record and the image's once-sections give a territory besides its window (R80 to R82, R279). -/
structure LaunchTables where
  /-- Group id and its members (R279). -/
  groups : List (Nat × List Member)
  /-- The 64-byte task templates, by template index (R67, R215). -/
  templates : List (List Byte)
  /-- Upcall cause and its entry address (R82). -/
  upcalls : List (Nat × Nat)
  /-- The region section, in index order: base, size and synchronisation object (R144). -/
  regions : List (Nat × Nat × Nat)
  deriving DecidableEq, Repr

/-- The steps of the module's bring-up (R359, Table 20.13). -/
inductive BringUp where
  /-- Step 1: one measured boot stage with its digest, into measurement register `k` (R377). -/
  | measured (k : Nat) (digest : BitVec 384)
  /-- Step 2: GDDR7 trained and the keys loaded. -/
  | keys
  /-- Step 5: every cluster in territory 0 and PCFG at its reset value. -/
  | pool
  deriving DecidableEq, Repr

/-- Where a soft error strikes and what it leaves (R317, Table 17.9). -/
inductive SoftError where
  /-- An uncorrectable 64-bit word of a local bank, at a local address (R150). -/
  | bank (core addr : Nat)
  /-- An uncorrectable instruction-store word (R149). -/
  | istore (core addr : Nat)
  /-- An uncorrectable stream-store word (R225). -/
  | sstore (cluster idx : Nat)
  /-- A parity error of a g register (R149). -/
  | reg (core cx : Nat) (r : Reg)
  /-- A QW entry struck (R170, R176, R317). -/
  | qw (core cx pos : Nat)
  /-- A QS entry's parity error: REG_PARITY when a word takes it (R149, R317). -/
  | qs (core cx pos : Nat)
  /-- A correctable 64-bit word of a local bank, at a local address: corrected and counted at the next access or scrub (R149). -/
  | coreWord (core addr : Nat)
  /-- A struck mask (R170). -/
  | mask (core cx : Nat) (m : Ptr)
  /-- A flipped accumulator word (R256): accumulator, row, column, new bits. -/
  | acc (core : Nat) (a1 : Bool) (row col : Nat) (bits : Half)
  /-- A flipped accumulator checksum (R256). -/
  | checksum (core : Nat) (a1 : Bool) (row : Nat) (bits : Half)
  /-- An operand latch's parity error (R263). -/
  | latch (core : Nat)
  /-- An uncorrectable stash tag (R149). -/
  | stashTag (core set way : Nat)
  /-- A translation cache entry (R310). -/
  | tlb (cluster pos : Nat)
  /-- An array whose loss kills the rectangle (R317, R322). -/
  | control (core : Nat)
  /-- A header flit in a core's router (R317): the rectangle of the router is killed. -/
  | header (core : Nat)
  /-- A payload flit in a router buffer (R317): the words of message `k` under way arrive poisoned. -/
  | flit (k : Nat)
  /-- An uncorrectable 64-bit word at a slice or in GDDR7 (R317). -/
  | data (pa : Nat)
  /-- An uncorrectable cache-way tag (R318). -/
  | sliceTag (slice set way : Nat)
  /-- A correctable 64-bit word at a slice or in GDDR7: corrected and counted when it is next read or scrubbed (R317, R325). -/
  | corrected (pa : Nat)
  deriving DecidableEq, Repr

/-- The operations (instruction words first) and steps of the opcode table. -/
inductive Instr where
  /-- ADD (R107): Writes the 64-bit wrapped sum of ga and gb to gd. -/
  | add (d : BitVec 5) (a : BitVec 5) (b : BitVec 5) (w : Bool)
  /-- SUB (R107): Writes the 64-bit wrapped difference ga minus gb to gd. -/
  | sub (d : BitVec 5) (a : BitVec 5) (b : BitVec 5) (w : Bool)
  /-- AND (R107): Writes the bitwise AND of ga and gb to gd. -/
  | andR (d : BitVec 5) (a : BitVec 5) (b : BitVec 5) (w : Bool)
  /-- OR (R107): Writes the bitwise OR of ga and gb to gd. -/
  | orR (d : BitVec 5) (a : BitVec 5) (b : BitVec 5) (w : Bool)
  /-- XOR (R107): Writes the bitwise XOR of ga and gb to gd. -/
  | xorR (d : BitVec 5) (a : BitVec 5) (b : BitVec 5) (w : Bool)
  /-- SHL (R107): Shifts ga left by gb[5:0] and writes the result to gd. -/
  | shl (d : BitVec 5) (a : BitVec 5) (b : BitVec 5) (w : Bool)
  /-- SHR (R107): Shifts ga right, logically, by gb[5:0] and writes the result to gd. -/
  | shr (d : BitVec 5) (a : BitVec 5) (b : BitVec 5) (w : Bool)
  /-- SRA (R107): Shifts ga right, arithmetically, by gb[5:0] and writes the result to gd. -/
  | sra (d : BitVec 5) (a : BitVec 5) (b : BitVec 5) (w : Bool)
  /-- ROTL (R107): Rotates ga left by gb[5:0] and writes the result to gd. -/
  | rotl (d : BitVec 5) (a : BitVec 5) (b : BitVec 5) (w : Bool)
  /-- MUL (R107): Writes the low 64 bits of the product of ga and gb to gd. -/
  | mul (d : BitVec 5) (a : BitVec 5) (b : BitVec 5) (w : Bool)
  /-- MULHS (R107): Writes the high 64 bits of the signed 128-bit product to gd. -/
  | mulhs (d : BitVec 5) (a : BitVec 5) (b : BitVec 5) (w : Bool)
  /-- MULHN (R107): Writes the high 64 bits of the unsigned 128-bit product to gd. -/
  | mulhn (d : BitVec 5) (a : BitVec 5) (b : BitVec 5) (w : Bool)
  /-- DIVS (R107): Writes the signed quotient of ga by gb to gd; division by zero gives all ones and never traps. -/
  | divs (d : BitVec 5) (a : BitVec 5) (b : BitVec 5) (w : Bool)
  /-- DIVN (R107): Writes the unsigned quotient of ga by gb to gd; division by zero gives all ones. -/
  | divn (d : BitVec 5) (a : BitVec 5) (b : BitVec 5) (w : Bool)
  /-- REMS (R107): Writes the signed remainder of ga by gb to gd. -/
  | rems (d : BitVec 5) (a : BitVec 5) (b : BitVec 5) (w : Bool)
  /-- REMN (R107): Writes the unsigned remainder of ga by gb to gd. -/
  | remn (d : BitVec 5) (a : BitVec 5) (b : BitVec 5) (w : Bool)
  /-- MINS (R107): Writes the signed minimum of ga and gb to gd. -/
  | mins (d : BitVec 5) (a : BitVec 5) (b : BitVec 5) (w : Bool)
  /-- MINN (R107): Writes the unsigned minimum of ga and gb to gd. -/
  | minn (d : BitVec 5) (a : BitVec 5) (b : BitVec 5) (w : Bool)
  /-- MAXS (R107): Writes the signed maximum of ga and gb to gd. -/
  | maxs (d : BitVec 5) (a : BitVec 5) (b : BitVec 5) (w : Bool)
  /-- MAXN (R107): Writes the unsigned maximum of ga and gb to gd. -/
  | maxn (d : BitVec 5) (a : BitVec 5) (b : BitVec 5) (w : Bool)
  /-- SLTS (R107): Writes 1 to gd if ga is less than gb, signed, and 0 otherwise. -/
  | slts (d : BitVec 5) (a : BitVec 5) (b : BitVec 5) (w : Bool)
  /-- SLTN (R107): Writes 1 to gd if ga is less than gb, unsigned, and 0 otherwise. -/
  | sltn (d : BitVec 5) (a : BitVec 5) (b : BitVec 5) (w : Bool)
  /-- SEQ (R107): Writes 1 to gd if ga equals gb, and 0 otherwise. -/
  | seq (d : BitVec 5) (a : BitVec 5) (b : BitVec 5) (w : Bool)
  /-- CLZ (R107): Writes the number of leading zero bits of ga to gd. -/
  | clz (d : BitVec 5) (a : BitVec 5) (w : Bool)
  /-- CTZ (R107): Writes the number of trailing zero bits of ga to gd. -/
  | ctz (d : BitVec 5) (a : BitVec 5) (w : Bool)
  /-- POPC (R107): Writes the number of one bits of ga to gd. -/
  | popc (d : BitVec 5) (a : BitVec 5) (w : Bool)
  /-- SEL (R107): Writes ga to gd when gc is nonzero, and gb otherwise. -/
  | sel (d : BitVec 5) (a : BitVec 5) (b : BitVec 5) (w : Bool) (c : BitVec 5)
  /-- ANDN (R107): Writes ga AND NOT gb to gd. -/
  | andn (d : BitVec 5) (a : BitVec 5) (b : BitVec 5) (w : Bool)
  /-- MADD (R107): Writes the wrapped value ga times gb plus gc to gd. -/
  | madd (d : BitVec 5) (a : BitVec 5) (b : BitVec 5) (w : Bool) (c : BitVec 5)
  /-- ADDI (R109): Writes the wrapped sum of ga and the immediate to gd. -/
  | addi (d : BitVec 5) (a : BitVec 5) (i : BitVec 12)
  /-- ANDI (R109): Writes ga AND the immediate to gd. -/
  | andi (d : BitVec 5) (a : BitVec 5) (i : BitVec 12)
  /-- ORI (R109): Writes ga OR the immediate to gd. -/
  | ori (d : BitVec 5) (a : BitVec 5) (i : BitVec 12)
  /-- XORI (R109): Writes ga XOR the immediate to gd. -/
  | xori (d : BitVec 5) (a : BitVec 5) (i : BitVec 12)
  /-- SHLI (R109): Shifts ga left by an immediate of 0 to 63 and writes the result to gd. -/
  | shli (d : BitVec 5) (a : BitVec 5) (i : BitVec 12)
  /-- SHRI (R109): Shifts ga right, logically, by an immediate of 0 to 63. -/
  | shri (d : BitVec 5) (a : BitVec 5) (i : BitVec 12)
  /-- SRAI (R109): Shifts ga right, arithmetically, by an immediate of 0 to 63. -/
  | srai (d : BitVec 5) (a : BitVec 5) (i : BitVec 12)
  /-- SLTSI (R109): Writes 1 to gd if ga is less than the immediate, signed. -/
  | sltsi (d : BitVec 5) (a : BitVec 5) (i : BitVec 12)
  /-- SLTNI (R109): Writes 1 to gd if ga is less than the immediate, unsigned. -/
  | sltni (d : BitVec 5) (a : BitVec 5) (i : BitVec 12)
  /-- SEQI (R109): Writes 1 to gd if ga equals the immediate. -/
  | seqi (d : BitVec 5) (a : BitVec 5) (i : BitVec 12)
  /-- MULI (R109): Writes the wrapped product of ga and the immediate to gd. -/
  | muli (d : BitVec 5) (a : BitVec 5) (i : BitVec 12)
  /-- LDI (R109): Writes the immediate, extended by any latched HIMM words, to gd. -/
  | ldi (d : BitVec 5) (i : BitVec 12)
  /-- BEQZ (R110): Branches by the word offset when ga equals zero. -/
  | beqz (a : BitVec 5) (o : BitVec 18)
  /-- BNEZ (R110): Branches when ga is nonzero. -/
  | bnez (a : BitVec 5) (o : BitVec 18)
  /-- BLTZ (R110): Branches when ga is negative. -/
  | bltz (a : BitVec 5) (o : BitVec 18)
  /-- BGEZ (R110): Branches when ga is zero or positive. -/
  | bgez (a : BitVec 5) (o : BitVec 18)
  /-- BGTZ (R110): Branches when ga is positive. -/
  | bgtz (a : BitVec 5) (o : BitVec 18)
  /-- BLEZ (R110): Branches when ga is zero or negative. -/
  | blez (a : BitVec 5) (o : BitVec 18)
  /-- BFULL (R111): Branches when ga is full, sampling the bit without parking. -/
  | bfull (a : BitVec 5) (o : BitVec 18)
  /-- BEMPTY (R111): Branches when ga is empty, sampling the bit without parking. -/
  | bempty (a : BitVec 5) (o : BitVec 18)
  /-- JMP (R112): Jumps to the PC-relative target after checking it. -/
  | jmp (o : BitVec 26)
  /-- CALL (R112): Jumps to the PC-relative target and writes the return address to g31. -/
  | call (o : BitVec 26)
  /-- JR (R113): Jumps to the address held in ga. -/
  | jr (a : BitVec 5) (w : Bool)
  /-- CALLR (R113): Jumps to the address held in ga and writes the link to g31. -/
  | callr (a : BitVec 5) (w : Bool)
  /-- RET (R113): Jumps to the address held in g31. -/
  | ret
  /-- REP (R117): Repeats the next word with the selected fields stepped, keeping its progress in the index register. -/
  | rep (d : BitVec 5) (a : BitVec 5) (m : BitVec 5) (s : BitVec 4)
  /-- RPBLD (R196): Captures the next n words into the core's repetition buffer and takes ownership of it. -/
  | rpbld (n : BitVec 5)
  /-- RPBGO (R196): Starts the repetition sequencer for a count of repetitions with the given descriptor and pointer steps. -/
  | rpbgo (a : BitVec 5) (s : BitVec 5) (p : BitVec 3)
  /-- RPBSTOP (R196): Ends the sequencer after its current repetition and returns the repetitions completed. -/
  | rpbstop (d : BitVec 5)
  /-- LD (R138): Loads 1 to 8 bytes from local memory into gd, with optional sign extension and acquire ordering. -/
  | ld (d : BitVec 5) (b : BitVec 5) (z : BitVec 2) (x : Bool) (o : BitVec 2) (f : BitVec 11)
  /-- ST (R138): Stores 1 to 8 bytes of gd to local memory, with optional release ordering. -/
  | st (d : BitVec 5) (b : BitVec 5) (z : BitVec 2) (o : BitVec 2) (f : BitVec 11)
  /-- LDG (R138): Loads from a translated global address, through the stash or at the home slice for acquire. -/
  | ldg (d : BitVec 5) (b : BitVec 5) (z : BitVec 2) (x : Bool) (o : BitVec 2) (f : BitVec 11)
  /-- STG (R138): Stores to a translated global address in the stash, or writes through after a fence for release. -/
  | stg (d : BitVec 5) (b : BitVec 5) (z : BitVec 2) (o : BitVec 2) (f : BitVec 11)
  /-- AADD (R141): Atomically adds gb to a local word and returns the old value. -/
  | aadd (d : BitVec 5) (a : BitVec 5) (b : BitVec 5) (z : BitVec 2) (o : BitVec 2)
  /-- ASWAP (R141): Atomically swaps gb into a local word. -/
  | aswap (d : BitVec 5) (a : BitVec 5) (b : BitVec 5) (z : BitVec 2) (o : BitVec 2)
  /-- ACAS (R141): Atomically compares a local word with gd and stores gb if they are equal. -/
  | acas (d : BitVec 5) (a : BitVec 5) (b : BitVec 5) (z : BitVec 2) (o : BitVec 2)
  /-- AMINS (R141): Atomic signed minimum on a local word. -/
  | amins (d : BitVec 5) (a : BitVec 5) (b : BitVec 5) (z : BitVec 2) (o : BitVec 2)
  /-- AMAXS (R141): Atomic signed maximum on a local word. -/
  | amaxs (d : BitVec 5) (a : BitVec 5) (b : BitVec 5) (z : BitVec 2) (o : BitVec 2)
  /-- AMINN (R141): Atomic unsigned minimum on a local word. -/
  | aminn (d : BitVec 5) (a : BitVec 5) (b : BitVec 5) (z : BitVec 2) (o : BitVec 2)
  /-- AMAXN (R141): Atomic unsigned maximum on a local word. -/
  | amaxn (d : BitVec 5) (a : BitVec 5) (b : BitVec 5) (z : BitVec 2) (o : BitVec 2)
  /-- AAND (R141): Atomic AND on a local word. -/
  | aand (d : BitVec 5) (a : BitVec 5) (b : BitVec 5) (z : BitVec 2) (o : BitVec 2)
  /-- AOR (R141): Atomic OR on a local word. -/
  | aor (d : BitVec 5) (a : BitVec 5) (b : BitVec 5) (z : BitVec 2) (o : BitVec 2)
  /-- AXOR (R141): Atomic XOR on a local word. -/
  | axor (d : BitVec 5) (a : BitVec 5) (b : BitVec 5) (z : BitVec 2) (o : BitVec 2)
  /-- AADDG (R141): Atomically adds gb to a global word at its home slice, with ordering at the given scope. -/
  | aaddg (d : BitVec 5) (a : BitVec 5) (b : BitVec 5) (z : BitVec 2) (o : BitVec 2) (s : BitVec 3)
  /-- ASWAPG (R141): Atomic swap on a global word at its home slice. -/
  | aswapg (d : BitVec 5) (a : BitVec 5) (b : BitVec 5) (z : BitVec 2) (o : BitVec 2) (s : BitVec 3)
  /-- ACASG (R141): Atomic compare-and-swap on a global word at its home slice. -/
  | acasg (d : BitVec 5) (a : BitVec 5) (b : BitVec 5) (z : BitVec 2) (o : BitVec 2) (s : BitVec 3)
  /-- AMINSG (R141): Atomic signed minimum on a global word. -/
  | aminsg (d : BitVec 5) (a : BitVec 5) (b : BitVec 5) (z : BitVec 2) (o : BitVec 2) (s : BitVec 3)
  /-- AMAXSG (R141): Atomic signed maximum on a global word. -/
  | amaxsg (d : BitVec 5) (a : BitVec 5) (b : BitVec 5) (z : BitVec 2) (o : BitVec 2) (s : BitVec 3)
  /-- AMINNG (R141): Atomic unsigned minimum on a global word. -/
  | aminng (d : BitVec 5) (a : BitVec 5) (b : BitVec 5) (z : BitVec 2) (o : BitVec 2) (s : BitVec 3)
  /-- AMAXNG (R141): Atomic unsigned maximum on a global word. -/
  | amaxng (d : BitVec 5) (a : BitVec 5) (b : BitVec 5) (z : BitVec 2) (o : BitVec 2) (s : BitVec 3)
  /-- AANDG (R141): Atomic AND on a global word. -/
  | aandg (d : BitVec 5) (a : BitVec 5) (b : BitVec 5) (z : BitVec 2) (o : BitVec 2) (s : BitVec 3)
  /-- AORG (R141): Atomic OR on a global word. -/
  | aorg (d : BitVec 5) (a : BitVec 5) (b : BitVec 5) (z : BitVec 2) (o : BitVec 2) (s : BitVec 3)
  /-- AXORG (R141): Atomic XOR on a global word. -/
  | axorg (d : BitVec 5) (a : BitVec 5) (b : BitVec 5) (z : BitVec 2) (o : BitVec 2) (s : BitVec 3)
  /-- FENCE (R143): Orders the context's accesses, writing back or invalidating stash words by its ordering and scope, or waiting for the wide side. -/
  | fence (c : BitVec 2) (o : BitVec 2) (s : BitVec 3)
  /-- ACQUIRE (R145): Invalidates clean stash words of regions bound to the object and orders later accesses. -/
  | acquire (a : BitVec 5) (s : BitVec 3)
  /-- RELEASE (R145): Releases like FENCE.rel, writing back only the regions bound to the object. -/
  | release (a : BitVec 5) (s : BitVec 3)
  /-- SFLUSH (R146): Writes back the dirty stash words covering a virtual range and waits for their acknowledgements. -/
  | sflush (a : BitVec 5) (b : BitVec 5)
  /-- SINVAL (R146): Writes back and then invalidates the stash lines covering a virtual range. -/
  | sinval (a : BitVec 5) (b : BitVec 5)
  /-- SBIND (R144): Binds a region record to a region entry of the core, after invalidating the range. -/
  | sbind (d : BitVec 5) (a : BitVec 5) (b : BitVec 5)
  /-- SUNBIND (R144): Writes back and invalidates a region's lines and unbinds the region. -/
  | sunbind (d : BitVec 5) (a : BitVec 5)
  /-- MFS (R120): Reads a special register into gd, after the level checks. -/
  | mfs (d : BitVec 5) (i : BitVec 11)
  /-- MTS (R120): Writes ga to a special register that has no row of its own, after the level and value checks. -/
  | mts (a : BitVec 5) (i : BitVec 11)
  /-- LINK_READ (R230): MFS of LN to LW: reads the core's link register, parking while it is empty, and empties it. -/
  | linkRead (d : BitVec 5) (l : BitVec 2)
  /-- LINK_WRITE (R231): MTS to XN to XW: fills the facing link register of a neighbour, parking while it is full. -/
  | linkWrite (a : BitVec 5) (l : BitVec 2)
  /-- STASH_RESIZE (R133): MTS to STASHCFG: waits, writes back and invalidates the stash, sets the new size and zeroes the released bytes. -/
  | stashResize (a : BitVec 5)
  /-- HBTIV_WRITE (R103): MTS to HBTIV: sets the burner interval and reloads the burner count. -/
  | hbtivWrite (a : BitVec 5)
  /-- NFLAG_READ (R24): MFS of NFLAG: waits for the context's earlier vector instructions and returns their sticky flags. -/
  | nflagRead (d : BitVec 5)
  /-- VADD (R157): Adds two element vectors lane by lane under a mask. -/
  | vadd (d : BitVec 3) (a : BitVec 3) (b : BitVec 3) (m : BitVec 3) (t : BitVec 4) (i : Bool) (z : Bool)
  /-- VSUB (R157): Subtracts two element vectors lane by lane. -/
  | vsub (d : BitVec 3) (a : BitVec 3) (b : BitVec 3) (m : BitVec 3) (t : BitVec 4) (i : Bool) (z : Bool)
  /-- VMUL (R157): Multiplies two element vectors lane by lane. -/
  | vmul (d : BitVec 3) (a : BitVec 3) (b : BitVec 3) (m : BitVec 3) (t : BitVec 4) (i : Bool) (z : Bool)
  /-- VFMA (R157): Computes a times b plus the destination, with one rounding per lane. -/
  | vfma (d : BitVec 3) (a : BitVec 3) (b : BitVec 3) (m : BitVec 3) (t : BitVec 4) (i : Bool) (z : Bool)
  /-- VMIN (R157): Writes the smaller of two lanes. -/
  | vmin (d : BitVec 3) (a : BitVec 3) (b : BitVec 3) (m : BitVec 3) (t : BitVec 4) (i : Bool) (z : Bool)
  /-- VMAX (R157): Writes the larger of two lanes. -/
  | vmax (d : BitVec 3) (a : BitVec 3) (b : BitVec 3) (m : BitVec 3) (t : BitVec 4) (i : Bool) (z : Bool)
  /-- VABS (R157): Writes the absolute value of each lane. -/
  | vabs (d : BitVec 3) (a : BitVec 3) (m : BitVec 3) (t : BitVec 4) (i : Bool) (z : Bool)
  /-- VNEG (R157): Writes the negation of each lane. -/
  | vneg (d : BitVec 3) (a : BitVec 3) (m : BitVec 3) (t : BitVec 4) (i : Bool) (z : Bool)
  /-- VAND (R156): Bitwise AND of two element vectors. -/
  | vand (d : BitVec 3) (a : BitVec 3) (b : BitVec 3) (m : BitVec 3) (t : BitVec 4) (i : Bool) (z : Bool)
  /-- VOR (R156): Bitwise OR of two element vectors. -/
  | vor (d : BitVec 3) (a : BitVec 3) (b : BitVec 3) (m : BitVec 3) (t : BitVec 4) (i : Bool) (z : Bool)
  /-- VXOR (R156): Bitwise XOR of two element vectors. -/
  | vxor (d : BitVec 3) (a : BitVec 3) (b : BitVec 3) (m : BitVec 3) (t : BitVec 4) (i : Bool) (z : Bool)
  /-- VSHL (R156): Shifts each integer lane left by the low bits of b. -/
  | vshl (d : BitVec 3) (a : BitVec 3) (b : BitVec 3) (m : BitVec 3) (t : BitVec 4) (i : Bool) (z : Bool)
  /-- VSHR (R156): Shifts each integer lane right, logically. -/
  | vshr (d : BitVec 3) (a : BitVec 3) (b : BitVec 3) (m : BitVec 3) (t : BitVec 4) (i : Bool) (z : Bool)
  /-- VSRA (R156): Shifts each integer lane right, arithmetically. -/
  | vsra (d : BitVec 3) (a : BitVec 3) (b : BitVec 3) (m : BitVec 3) (t : BitVec 4) (i : Bool) (z : Bool)
  /-- VCVT (R160): Converts 16 lanes from type ty to type dt, saturating or not. -/
  | vcvt (d : BitVec 3) (a : BitVec 3) (u : BitVec 3) (m : BitVec 3) (t : BitVec 4) (i : Bool) (z : Bool) (v : Bool) (s : Bool)
  /-- VRCP (R25): Writes the correctly rounded reciprocal of each lane. -/
  | vrcp (d : BitVec 3) (a : BitVec 3) (m : BitVec 3) (t : BitVec 4) (i : Bool) (z : Bool)
  /-- VRSQ (R25): Writes the correctly rounded reciprocal square root of each lane. -/
  | vrsq (d : BitVec 3) (a : BitVec 3) (m : BitVec 3) (t : BitVec 4) (i : Bool) (z : Bool)
  /-- VEXP2 (R25): Writes the correctly rounded 2 to the power of each lane. -/
  | vexp2 (d : BitVec 3) (a : BitVec 3) (m : BitVec 3) (t : BitVec 4) (i : Bool) (z : Bool)
  /-- VLOG2 (R25): Writes the correctly rounded base-2 logarithm of each lane. -/
  | vlog2 (d : BitVec 3) (a : BitVec 3) (m : BitVec 3) (t : BitVec 4) (i : Bool) (z : Bool)
  /-- VSEL (R156): Writes a where the selector mask lane is 1 and b elsewhere, in every lane. -/
  | vsel (d : BitVec 3) (a : BitVec 3) (b : BitVec 3) (m : BitVec 3) (t : BitVec 4) (i : Bool)
  /-- VMOV (R156): Copies the lanes of a with their bits unchanged. -/
  | vmov (d : BitVec 3) (a : BitVec 3) (m : BitVec 3) (t : BitVec 4) (i : Bool) (z : Bool)
  /-- VSPLAT (R161): Writes the low bits of a QS entry to every active lane. -/
  | vsplat (d : BitVec 3) (m : BitVec 3) (t : BitVec 4) (i : Bool) (z : Bool)
  /-- VCLAMP (R161): Clamps each lane between bounds taken from a QS entry. -/
  | vclamp (d : BitVec 3) (a : BitVec 3) (m : BitVec 3) (t : BitVec 4) (i : Bool) (z : Bool)
  /-- VADDS (R158): Adds integer lanes with saturation, setting SAT on a clamp. -/
  | vadds (d : BitVec 3) (a : BitVec 3) (b : BitVec 3) (m : BitVec 3) (t : BitVec 4) (i : Bool) (z : Bool)
  /-- VSUBS (R158): Subtracts integer lanes with saturation. -/
  | vsubs (d : BitVec 3) (a : BitVec 3) (b : BitVec 3) (m : BitVec 3) (t : BitVec 4) (i : Bool) (z : Bool)
  /-- VMULH (R156): Writes the high half of the exact product of integer lanes. -/
  | vmulh (d : BitVec 3) (a : BitVec 3) (b : BitVec 3) (m : BitVec 3) (t : BitVec 4) (i : Bool) (z : Bool)
  /-- VCEQ (R162): Sets a mask bit where the lanes are equal. -/
  | vceq (d : BitVec 3) (a : BitVec 3) (b : BitVec 3) (m : BitVec 3) (t : BitVec 4) (i : Bool) (z : Bool)
  /-- VCNE (R162): Sets a mask bit where the lanes differ. -/
  | vcne (d : BitVec 3) (a : BitVec 3) (b : BitVec 3) (m : BitVec 3) (t : BitVec 4) (i : Bool) (z : Bool)
  /-- VCLT (R162): Sets a mask bit where a is less than b. -/
  | vclt (d : BitVec 3) (a : BitVec 3) (b : BitVec 3) (m : BitVec 3) (t : BitVec 4) (i : Bool) (z : Bool)
  /-- VCLE (R162): Sets a mask bit where a is at most b. -/
  | vcle (d : BitVec 3) (a : BitVec 3) (b : BitVec 3) (m : BitVec 3) (t : BitVec 4) (i : Bool) (z : Bool)
  /-- VCGT (R162): Sets a mask bit where a is greater than b. -/
  | vcgt (d : BitVec 3) (a : BitVec 3) (b : BitVec 3) (m : BitVec 3) (t : BitVec 4) (i : Bool) (z : Bool)
  /-- VCGE (R162): Sets a mask bit where a is at least b. -/
  | vcge (d : BitVec 3) (a : BitVec 3) (b : BitVec 3) (m : BitVec 3) (t : BitVec 4) (i : Bool) (z : Bool)
  /-- VCUN (R162): Sets a mask bit where either floating lane is NaN. -/
  | vcun (d : BitVec 3) (a : BitVec 3) (b : BitVec 3) (m : BitVec 3) (t : BitVec 4) (i : Bool) (z : Bool)
  /-- VRED (R163): Reduces the lanes of a by a fixed tree and delivers the result to QW. -/
  | vred (a : BitVec 3) (m : BitVec 3) (t : BitVec 4) (i : Bool) (s : BitVec 3)
  /-- VPERM (R164): Permutes the lanes of a by the indices in b. -/
  | vperm (d : BitVec 3) (a : BitVec 3) (b : BitVec 3) (m : BitVec 3) (t : BitVec 4) (i : Bool) (z : Bool)
  /-- VGATH (R164): Gathers lanes from a local window by an index vector. -/
  | vgath (d : BitVec 3) (a : BitVec 3) (b : BitVec 3) (m : BitVec 3) (t : BitVec 4) (i : Bool) (z : Bool)
  /-- VSCAT (R164): Scatters lanes into a local window by an index vector. -/
  | vscat (d : BitVec 3) (a : BitVec 3) (b : BitVec 3) (m : BitVec 3) (t : BitVec 4) (i : Bool)
  /-- VCOMP (R164): Compresses the active lanes to the front, optionally delivering their count to QW. -/
  | vcomp (d : BitVec 3) (a : BitVec 3) (m : BitVec 3) (t : BitVec 4) (i : Bool) (z : Bool) (c : Bool)
  /-- VPREF (R165): Requests 2 to the sub lines into the stash from a virtual address taken from QS. -/
  | vpref (s : BitVec 3)
  /-- MAND (R167): Writes the AND of two masks. -/
  | mand (d : BitVec 5) (a : BitVec 5) (b : BitVec 5)
  /-- MOR (R167): Writes the OR of two masks. -/
  | mor (d : BitVec 5) (a : BitVec 5) (b : BitVec 5)
  /-- MXOR (R167): Writes the XOR of two masks. -/
  | mxor (d : BitVec 5) (a : BitVec 5) (b : BitVec 5)
  /-- MNOT (R167): Writes the complement of a mask. -/
  | mnot (d : BitVec 5) (a : BitVec 5)
  /-- MPOP (R167): Delivers the population count of a mask to QW. -/
  | mpop (a : BitVec 5)
  /-- MANY (R167): Delivers 1 to QW if any mask bit is set. -/
  | many (a : BitVec 5)
  /-- MALL (R167): Delivers 1 to QW if every mask bit is set. -/
  | mall (a : BitVec 5)
  /-- MSET (R167): Sets a mask from the low 16 bits of a g register. -/
  | mset (d : BitVec 5) (a : BitVec 5) (w : Bool)
  /-- MGET (R167): Delivers a mask, zero-extended, to QW. -/
  | mget (a : BitVec 5)
  /-- PSET (R168): Sets a pointer's address and step from two g registers. -/
  | pset (d : BitVec 5) (a : BitVec 5) (b : BitVec 5) (w : Bool)
  /-- PGET (R168): Reads a pointer's packed step and address into a g register. -/
  | pget (d : BitVec 5) (a : BitVec 5)
  /-- PADD (R168): Adds a g register to a pointer's address, modulo 2 to the 20. -/
  | padd (d : BitVec 5) (a : BitVec 5) (w : Bool)
  /-- PSTEP (R168): Sets a pointer's step. -/
  | pstep (d : BitVec 5) (a : BitVec 5) (w : Bool)
  /-- QPUSH (R176): Appends a g register to the context's QS queue. -/
  | qpush (a : BitVec 5) (w : Bool)
  /-- QPOP (R176): Waits for and removes the head of QW into gd. -/
  | qpop (d : BitVec 5)
  /-- QCNT (R176): Returns the free, held and owed counts of the context's queues. -/
  | qcnt (d : BitVec 5)
  /-- TDSET (R180): Loads a tensor descriptor from a local record after checking it. -/
  | tdset (a : BitVec 5) (g : BitVec 5)
  /-- TDGET (R180): Stores a tensor descriptor, with its state, to local memory. -/
  | tdget (a : BitVec 5) (g : BitVec 5)
  /-- TDSTATE (R180): Returns a descriptor's state. -/
  | tdstate (a : BitVec 5) (g : BitVec 5)
  /-- TDBIND (R180): Binds a barrier object to a descriptor, or unbinds it. -/
  | tdbind (a : BitVec 5) (g : BitVec 5)
  /-- TDDROP (R180): Empties a descriptor. -/
  | tddrop (a : BitVec 5)
  /-- GDCLR (R182): Returns a guard slot to unresolved once its earlier commands are decided. -/
  | gdclr (c : BitVec 3)
  /-- GDSET (R182): Resolves a guard slot true or false from a g register. -/
  | gdset (g : BitVec 5) (c : BitVec 3)
  /-- GDWAIT (R182): Waits until a guard slot is resolved and returns its value. -/
  | gdwait (g : BitVec 5) (c : BitVec 3)
  /-- TWAIT (R185): Waits until all or any selected tokens leave busy, trapping on a faulted token. -/
  | twait (i : Bool) (n : Bool) (m : BitVec 8)
  /-- TTEST (R185): Returns the states of all eight tokens. -/
  | ttest (d : BitVec 5)
  /-- TCLR (R185): Waits for the selected tokens to leave busy and sets them idle. -/
  | tclr (m : BitVec 8)
  /-- BARINIT (R188): Initialises a barrier object, keeping its generation. -/
  | barinit (a : BitVec 5) (b : BitVec 5)
  /-- BAREXP (R188): Sets a barrier object's expected byte count, arms it and checks it. -/
  | barexp (a : BitVec 5) (b : BitVec 5)
  /-- BARWAIT (R188): Waits until a barrier object is not armed and returns its generation. -/
  | barwait (d : BitVec 5) (a : BitVec 5) (i : Bool)
  /-- BARTEST (R188): Returns a barrier object's state without waiting. -/
  | bartest (d : BitVec 5) (a : BitVec 5)
  /-- BARADD (R188): Counts a number of bytes into a barrier object. -/
  | baradd (a : BitVec 5) (b : BitVec 5)
  /-- PUSH (R191): Queues a copy of a local tensor to group members' local memory. -/
  | push (a : BitVec 5) (m : Bool) (g : BitVec 5) (t : BitVec 3) (c : BitVec 3)
  /-- PUSHG (R191): Queues a copy of a global tensor to group members' local memory. -/
  | pushg (a : BitVec 5) (m : Bool) (g : BitVec 5) (t : BitVec 3) (c : BitVec 3)
  /-- PUSHS (R191): Queues a store of a local tensor to global memory, rows packed. -/
  | pushs (a : BitVec 5) (m : Bool) (g : BitVec 5) (t : BitVec 3) (c : BitVec 3)
  /-- PUSHL (R191): Queues a copy of a local tensor into members' instruction stores. -/
  | pushl (a : BitVec 5) (m : Bool) (g : BitVec 5) (t : BitVec 3) (c : BitVec 3)
  /-- SNDO (R194): Opens a packet to a destination core under a header word. -/
  | sndo (a : BitVec 5) (b : BitVec 5) (t : BitVec 3) (v : BitVec 2) (e : Bool)
  /-- SNDW (R194): Appends a payload word to the open packet, optionally closing it. -/
  | sndw (a : BitVec 5) (e : Bool)
  /-- SNDE (R194): Closes the open packet. -/
  | snde
  /-- RPOST (R194): Sends a value to fill a g register of a context of a destination core. -/
  | rpost (a : BitVec 5) (b : BitVec 5) (c : BitVec 5) (t : BitVec 3) (v : BitVec 2)
  /-- MBPOP (R216): Copies the next fresh slot of a mailbox to a buffer and marks it read. -/
  | mbpop (d : BitVec 5) (a : BitVec 5)
  /-- MBPOP_SPILL (R216): In the ballonet, copies the spill latch to a buffer, frees it and sets spl in its mailbox. -/
  | mbpopSpill (d : BitVec 5) (a : BitVec 5)
  /-- MBPEEK (R216): Copies the next fresh slot of a mailbox without marking it read. -/
  | mbpeek (d : BitVec 5) (a : BitVec 5)
  /-- MBCNT (R216): Returns a mailbox's valid and fresh counts and flags. -/
  | mbcnt (d : BitVec 5) (a : BitVec 5)
  /-- LBK (R216): Replays a slot record through the loop-back port into its mailbox and returns the verdict. -/
  | lbk (d : BitVec 5) (a : BitVec 5)
  /-- GRPBAR (R280): Arrives at a group barrier and waits for its firing. -/
  | grpbar (d : BitVec 5) (a : BitVec 5) (i : Bool)
  /-- GRPINFO (R280): Returns a group's generation, membership and counts. -/
  | grpinfo (d : BitVec 5) (a : BitVec 5)
  /-- HSTART (R100): Starts a helper context at an entry address with up to six arguments. -/
  | hstart (d : BitVec 5) (a : BitVec 5) (n : BitVec 3) (s : BitVec 5)
  /-- HJOIN (R100): Waits for a child helper to drain, returns its status and frees its number. -/
  | hjoin (d : BitVec 5) (a : BitVec 5)
  /-- END (R97): Ends the executing helper, or returns the ballonet to idle. -/
  | endCtx
  /-- YIELD (R100): Passes the context's next barrel slot to the next ready context. -/
  | yieldSlot
  /-- WFE (R100): Waits for the event bit or a timeout and clears the event bit. -/
  | wfe (d : BitVec 5) (a : BitVec 5) (i : Bool)
  /-- HKILL (R100): Kills a helper, discarding its unstarted commands and ending it with status killed. -/
  | hkill (d : BitVec 5) (a : BitVec 5)
  /-- HBT (R100): Reloads the context's burner count from HBTIV. -/
  | hbt
  /-- POST (R281): Fences, then sends a task record to its territory queue and returns the status. -/
  | post (d : BitVec 5) (a : BitVec 5)
  /-- TKEY (R281): Writes a key, or a residual-derived key, into a task record and rewrites its CRC. -/
  | tkey (d : BitVec 5) (a : BitVec 5) (r : Bool)
  /-- SSTART (R240): Starts the stream head of a cluster or of every cluster of the territory with a skew. -/
  | sstart (d : BitVec 5) (a : BitVec 5) (t : Bool) (s : BitVec 4)
  /-- SSTOP (R240): Stops stream heads from local mode, or, as a stream word, stops the head and leaves the stream. -/
  | sstop (d : BitVec 5) (a : BitVec 5) (t : Bool)
  /-- DETACH (R240): Leaves the stream into local mode when its condition register is nonzero. -/
  | detach (d : BitVec 5) (a : BitVec 5)
  /-- JOIN (R240): Returns context 0 to the stream at a stream index. -/
  | join (a : BitVec 5) (i : Bool)
  /-- GANG (R241): Arrives at the row's bridle with a tag and waits for it to fire. -/
  | gang (d : BitVec 5) (i : Bool) (t : BitVec 8)
  /-- MMA (R254): Queues a matrix multiply-accumulate of A against the B binding, alone or joined across the row. -/
  | mma (a : BitVec 5) (p : Bool) (x : Bool) (g : Bool) (c : BitVec 5) (t : BitVec 3) (u : BitVec 3)
  /-- MMAG (R254): Queues a matrix multiply-accumulate whose A rows come from a gather list. -/
  | mmag (a : BitVec 5) (p : Bool) (x : Bool) (g : Bool) (c : BitVec 5) (t : BitVec 3) (u : BitVec 3)
  /-- MZERO (R255): Zeroes an accumulator and its checksums and clears its tag. -/
  | mzero (x : Bool) (t : BitVec 3) (u : BitVec 3)
  /-- MDRAIN (R257): Checks and writes an accumulator into a local destination descriptor. -/
  | mdrain (a : BitVec 5) (x : Bool) (c : BitVec 5) (t : BitVec 3) (u : BitVec 3)
  /-- MLDB (R255): Binds a snapshot of a B descriptor to the slice. -/
  | mldb (a : BitVec 5) (t : BitVec 3) (u : BitVec 3)
  /-- MPROG (R259): Loads a microprogram of up to four micro-operations into the slice. -/
  | mprog (i : Bool) (c : BitVec 5) (t : BitVec 3) (u : BitVec 3)
  /-- MCHK (R258): Checks an accumulator's row checksums. -/
  | mchk (x : Bool) (t : BitVec 3) (u : BitVec 3)
  /-- GACC (R205): Adds two Gaussian blocks word by word. -/
  | gacc (d : BitVec 3) (a : BitVec 3) (b : BitVec 3) (n : BitVec 6) (t : BitVec 3) (u : BitVec 3)
  /-- GSUB (R205): Subtracts one Gaussian block from another. -/
  | gsub (d : BitVec 3) (a : BitVec 3) (b : BitVec 3) (n : BitVec 6) (t : BitVec 3) (u : BitVec 3)
  /-- GELIM (R207): Eliminates the last e variables of a joint block by Schur complement. -/
  | gelim (d : BitVec 3) (a : BitVec 3) (k : BitVec 3) (e : BitVec 3) (t : BitVec 3) (u : BitVec 3)
  /-- GDAMP (R205): Damps a computed block toward an old block by a QS factor. -/
  | gdamp (d : BitVec 3) (a : BitVec 3) (b : BitVec 3) (n : BitVec 6) (t : BitVec 3) (u : BitVec 3)
  /-- GMEAN (R208): Solves a block for its mean vector. -/
  | gmean (d : BitVec 3) (a : BitVec 3) (n : BitVec 6) (t : BitVec 3) (u : BitVec 3)
  /-- GRESID (R206): Delivers the largest absolute word difference of two blocks to QW. -/
  | gresid (a : BitVec 3) (b : BitVec 3) (n : BitVec 6) (t : BitVec 3) (u : BitVec 3)
  /-- GREG (R205): Adds a QS regularisation value to a block's diagonal. -/
  | greg (d : BitVec 3) (a : BitVec 3) (n : BitVec 6) (t : BitVec 3) (u : BitVec 3)
  /-- GSEND (R211): Sends a block as a Gaussian message under a header from QS. -/
  | gsend (a : BitVec 3) (n : BitVec 6) (t : BitVec 3) (u : BitVec 3)
  /-- GCOPY (R205): Copies a Gaussian block unchanged. -/
  | gcopy (d : BitVec 3) (a : BitVec 3) (n : BitVec 6) (t : BitVec 3) (u : BitVec 3)
  /-- TSHAPE (R361): Writes the territory's cluster set to a local buffer and returns its generation. -/
  | tshape (d : BitVec 5) (a : BitVec 5)
  /-- TFREEZE (R361): Freezes one or all clusters of the territory against cession. -/
  | tfreeze (d : BitVec 5) (a : BitVec 5) (l : Bool)
  /-- TTHAW (R361): Thaws one or all clusters of the territory. -/
  | tthaw (d : BitVec 5) (a : BitVec 5) (l : Bool)
  /-- UPRET (R361): Returns from an upcall handler to EPC. -/
  | upret
  /-- UPRET_YIELD (R361): Returns from a LOSS handler by stopping context 0 and ending the core's drain wait. -/
  | upretYield
  /-- PRESS (R361): Returns the cluster's gossiped view of its own territory's pressure. -/
  | press (d : BitVec 5)
  /-- PRESS_NB (R361): Returns the gossiped pressure and owner of a neighbouring cluster. -/
  | pressNb (d : BitVec 5) (a : BitVec 5)
  /-- PRESS_CFG (R361): Returns PCFG. -/
  | pressCfg (d : BitVec 5)
  /-- PRESS_SET (R361): Writes PCFG and waits until every cluster holds it. -/
  | pressSet (a : BitVec 5)
  /-- TRAP (R122): Traps USER_TRAP with its code in EVAL. -/
  | trap (i : BitVec 11)
  /-- ERET (R123): Returns from a trap handler, restoring the latch and level and resuming at EPC. -/
  | eret
  /-- HALT (R124): Halts the context once its outstanding operations complete. -/
  | halt
  /-- TINVB (R312): Releases, then invalidates translation entries package-wide and waits for every acknowledgement. -/
  | tinvb (d : BitVec 5) (a : BitVec 5) (m : BitVec 2)
  /-- SCRUB (R325): Zeroes a stopped core or cluster, or rewrites a slice line's correctable words. -/
  | scrub (d : BitVec 5) (a : BitVec 5) (m : BitVec 2)
  /-- TAILRD (R326): Reads, and unless peeking removes, the oldest tail-ring entry. -/
  | tailrd (d : BitVec 5) (a : BitVec 5) (p : Bool)
  /-- ISYNC (R147): Waits for earlier scalar accesses and refetches past the instruction. -/
  | isync
  /-- HIMM (R46): Latches 26 immediate bits for the next Form I instruction. -/
  | himm (p : BitVec 26)
  /-- HWAIT (R47): Latches a token wait that the next instruction performs before issue. -/
  | hwait (i : Bool) (n : Bool) (m : BitVec 8)
  /-- HCACHE (R48): Latches cache priority and allocation hints for the next global access. -/
  | hcache (p : BitVec 2) (s : BitVec 2) (t : BitVec 2)
  /-- HSCHED (R49): Latches a wide-side priority and a yield for the next instruction. -/
  | hsched (y : Bool) (w : BitVec 3)
  /-- ILLEGAL_WORD (R56): A context issues a word that is not an instruction (reserved major, reserved function value, nonzero reserved field, bad hint payload) and traps ILLEGAL_OP precisely. -/
  | illegalWord (w : BitVec 32)
  /-- UPCALL_DELIVERY (R91): A queued upcall enters context 0's upcall handler at an instruction boundary once allowed. -/
  | upcallDelivery (core : Nat)
  /-- RPOST_ARRIVAL (R87): An arriving register post fills an empty register or is held at the network interface. -/
  | rpostArrival (k : Nat)
  /-- HELD_POST_FILL (R87): A held register post fills its register once a consuming read has emptied it. -/
  | heldPostFill (core : Nat) (k : Nat)
  /-- CONTEXT_STOP (R92): A requested stop takes effect at a boundary, after the context's commands complete, and writes its save image. -/
  | contextStop (core : Nat) (cx : Nat)
  /-- CONTEXT_RESTORE (R93): A saved context image is written back and the context resumes. -/
  | contextRestore (core : Nat) (cx : Nat)
  /-- HELPER_SLOT_RESTORE (R94): A helper waiting for a physical slot is restored into one when it frees. -/
  | helperSlotRestore (core : Nat)
  /-- HELPER_DRAIN (R96): A retirement-tracker entry's last operation completes and its helper drains. -/
  | helperDrain (core : Nat) (cx : Nat) (energy : Nat)
  /-- WFE_TIMEOUT (R100): A WFE wait reaches its timeout and returns 1. -/
  | wfeTimeout (core : Nat) (cx : Nat)
  /-- BURNER_EXPIRY (R104): A burner count reaches 0 and the core is fenced, with upcalls to neighbours and a kind 5 message. -/
  | burnerExpiry (core : Nat) (cx : Nat)
  /-- PACKET_ABORT (R194): A packet held open for 1,024 cc is aborted, faulting its token and trapping its context. -/
  | packetAbort (core : Nat) (cx : Nat)
  /-- STASH_FILL_RETURN (R135): A line fill or read answer returns from the home slice and completes the waiting access. -/
  | stashFillReturn (k : Nat)
  /-- WRITE_ACK (R136): A home slice's acknowledgement of a write-through or write-back ends that write's outstanding state. -/
  | writeAck (k : Nat)
  /-- NEGATIVE_ACK (R287): A refusal returns to the sender and faults its token or traps its access. -/
  | negativeAck (k : Nat)
  /-- DELIVERY_ACK (R184): A receiver's acceptance acknowledgement completes a delivered command on its token. -/
  | deliveryAck (k : Nat)
  /-- VECTOR_COMMAND_START (R151): The vector unit takes a queued command, takes its QS entry and makes its accesses. -/
  | vectorCommandStart (core : Nat)
  /-- VECTOR_COMMAND_COMPLETE (R171): A vector command's results take effect and its flags and QW entry are delivered. -/
  | vectorCommandComplete (of_ : CtxAt)
  /-- PUSH_COMMAND_START (R191): The push engine takes a queued push, writes back stash lines and reads and sends its source. -/
  | pushCommandStart (of_ : CtxAt)
  /-- PUSH_COMPLETE (R184): A push completes for its mode and its token count falls. -/
  | pushComplete (core : Nat) (uid : Nat)
  /-- MATRIX_COMMAND_START (R254): The slice takes a matrix command and makes its start checks and bridle arrival. -/
  | matrixCommandStart (core : Nat)
  /-- BRIDLE_FIRE (R238): The bridle fires once every counted core of the row has arrived. -/
  | bridleFire (cluster : Nat) (row : Nat)
  /-- MATRIX_PREEMPT (R262): A running matrix operation stops at a K-step boundary and writes the save area. -/
  | matrixPreempt (core : Nat) (steps : Nat)
  /-- MATRIX_COMPLETE (R264): A matrix command's effect in the slice becomes final and its token completes. -/
  | matrixComplete (core : Nat) (steps : Nat)
  /-- ACC_VERDICT (R258): The checksum verdict of MDRAIN or MCHK is reached, trapping or faulting on failure. -/
  | accVerdict (core : Nat)
  /-- GAUSSIAN_COMMAND_START (R203): The Gaussian unit takes a queued command and reads its operands. -/
  | gaussianCommandStart (core : Nat)
  /-- PIVOT_VERDICT (R209): The pivot test of GELIM or GMEAN is decided, trapping or faulting on a singular block. -/
  | pivotVerdict (core : Nat)
  /-- GAUSSIAN_COMPLETE (R203): A Gaussian command's last write or QW entry takes effect. -/
  | gaussianComplete (core : Nat)
  /-- SEQUENCER_PLACE (R197): The repetition sequencer places one captured word of a repetition into an engine queue. -/
  | sequencerPlace (core : Nat)
  /-- PUSH_ARRIVAL (R190): Pushed bytes land in a receiver's memory and are counted at its barrier object. -/
  | pushArrival (k : Nat)
  /-- PACKET_ARRIVAL (R193): A memory-kind packet's payload is written and counted at its receiver. -/
  | packetArrival (k : Nat)
  /-- MESSAGE_ARRIVAL (R213): A Gaussian message is checked, written into its mailbox slot with its residual, counted and may post a task. -/
  | messageArrival (k : Nat)
  /-- HELD_MESSAGE_RETRY (R217): A held message is processed again when its mailbox head moves or the latch frees. -/
  | heldMessageRetry (core : Nat)
  /-- BALLONET_WAKE (R219): Context 11 starts on a spill wake or a room notice. -/
  | ballonetWake (core : Nat)
  /-- MAILBOX_POST_RETRY (R271): A held mailbox posting to a full queue is retried every microsecond. -/
  | mailboxPostRetry (core : Nat)
  /-- POST_RECORD_ARRIVAL (R271): A posted record is inserted in its queue by key, written to a ring, or refused. -/
  | postRecordArrival (k : Nat)
  /-- DISPATCH_REQUEST (R272): A cluster with a free helper slot is served a record, or a held helper, by effective key and energy. -/
  | dispatchRequest (cluster : Nat)
  /-- BUCKET_REFILL (R276): Each cluster's energy bucket gains its allowance every microsecond, capped. -/
  | bucketRefill
  /-- POWER_CONTROL (R358): Every 100 microseconds the power controller sets each cluster's allowance from power and temperature. -/
  | powerControl (outsideMilliwatts : Nat) (hottest : List Nat)
  /-- THERMAL_SHUTDOWN (R358): A 110 degree reading removes module power and is reported to the host. -/
  | thermalShutdown (reading : Nat)
  /-- GROUP_ARRIVAL (R280): A GRPBAR arrival reaches its group and fires it when every present member has arrived. -/
  | groupArrival (k : Nat)
  /-- GROUP_FIRING_ARRIVAL (R280): A group firing reaches a member core and releases its parked GRPBAR. -/
  | groupFiringArrival (k : Nat)
  /-- STREAM_HEAD_START (R237): A started stream head sends its first word at its chosen beat. -/
  | streamHeadStart (cluster : Nat)
  /-- STREAM_HEAD_SEND (R226): A running head sends the next stream word, a bubble after a taken jump, or stops. -/
  | streamHeadSend (cluster : Nat)
  /-- STREAM_WORD_DELIVERY (R227): A stream word reaches a core, which buffers or discards it and passes it on. -/
  | streamWordDelivery (core : Nat)
  /-- SLICE_REQUEST (R293): A cache slice accepts a read, write or atomic, hits, queues, or allocates a victim. -/
  | sliceRequest (k : Nat)
  /-- SLICE_FILL_RETURN (R293): A GDDR7 fill returns, held writes apply, waiting reads are answered and the set unblocks. -/
  | sliceFillReturn (slice : Nat) (set : Nat)
  /-- WALK_COMPLETE (R310): A page-table walk finishes, filling the translation cache or reporting a fault. -/
  | walkComplete (cluster : Nat) (k : Nat)
  /-- TINVB_INVALIDATE (R312): A cluster receives an invalidation, drops matching entries and acknowledges once its accesses have landed. -/
  | tinvbInvalidate (k : Nat)
  /-- FAULT_MESSAGE_ARRIVAL (R315): A fault message is written into the supervisor's fault ring, or refused when it is full. -/
  | faultMessageArrival (k : Nat)
  /-- FAULT_MESSAGE_RESEND (R315): A refused fault message is resent every microsecond. -/
  | faultMessageResend (k : Nat)
  /-- RESUME (R316): A control packet resumes a set-aside copy or parked access by fault id. -/
  | resumeCopy (k : Nat)
  /-- ABORT (R316): A control packet ends a set-aside copy or traps a parked access with a cause. -/
  | abortCopy (k : Nat)
  /-- RESTART (R316): A control packet resumes a halted context at its PC. -/
  | restart (k : Nat)
  /-- UNFENCE (R324): A control packet ends a burner fence and resumes the core's contexts. -/
  | unfence (k : Nat)
  /-- CONTAINMENT_KILL (R322): A kill unit is fenced and reset, sending a kind 6 message. -/
  | containmentKill (core : Nat)
  /-- OCC_REBUILD_END (R318): The rescan of a slice's tags after a tag error ends and OCC is exact again. -/
  | occRebuildEnd (slice : Nat)
  /-- PATROL_SCRUB (R149): The patrol scrubber reads a bank granule in an idle cc and corrects its words. -/
  | patrolScrub (core : Nat) (granule : Nat)
  /-- DIE_RESET (R328): A die resets, zeroing and halting every enabled core other than the supervisor. -/
  | dieReset (die : Nat)
  /-- SUPERVISOR_IMAGE_PLACE (R328): Boot firmware places the supervisor image and starts its context 0, or reports a bring-up error. -/
  | supervisorImagePlace (die : Nat) (img : SupervisorImage)
  /-- MODULE_BRINGUP (R359): At power-on the module brings up its controllers, keys, dies and supervisors in order. -/
  | moduleBringup (stage : BringUp)
  /-- PRESSURE_GOSSIP (R341): Every microsecond the mooring cluster computes its pressure and clusters forward gossip to neighbours. -/
  | pressureGossip
  /-- DRIFT_EVALUATE (R343): A cluster evaluates the drift rule at its period and may propose to a candidate territory. -/
  | driftEvaluate (cluster : Nat)
  /-- PROPOSE_CONFIRM (R345): Both mooring clusters recheck the conditions exactly and confirm or decline the move. -/
  | proposeConfirm (cluster : Nat)
  /-- DRAIN_DEADLINE (R348): A core's drain deadline passes and its contexts are force-saved. -/
  | drainDeadline (core : Nat) (energies : List (Nat × Nat))
  /-- SCRUB_PHASE (R351): The drained cluster is untagged, refused traffic, zeroed and rekeyed. -/
  | scrubPhase (cluster : Nat)
  /-- TRANSFER_PHASE (R352): The cluster passes to its new owner, tethered, with generations advanced and GAIN queued. -/
  | transferPhase (cluster : Nat)
  /-- UPCALL_RETRY (R353): An upcall held by a full queue is retried every microsecond. -/
  | upcallRetry (k : Nat)
  /-- TERRITORY_LAUNCH (R339): A TCFG write of live 0 to 1 checks TINIT and scrubs and transfers its clusters. -/
  | territoryLaunch (k : Nat) (tables : LaunchTables)
  /-- TERRITORY_SHUTDOWN (R339): A TCFG write of live 1 to 0 drains and scrubs every cluster back to territory 0. -/
  | territoryShutdown (k : Nat)
  /-- QUEUE_MAP (R355): A TSLOT write maps a queue, moving its ring's records into the slot. -/
  | queueMap (k : Nat)
  /-- QUEUE_UNMAP (R355): A TSLOT write unmaps a slot, returning its records to the ring and setting pend. -/
  | queueUnmap (k : Nat)
  /-- TOFF_WRITE (R373): A TOFF write is accepted or, if it would move TIME below TLAST, ignored with err set. -/
  | toffWrite (k : Nat)
  /-- TETHER_STORE_WRITE (R352): An aperture write stores a word into a tethered core's instruction store, core image or stream store. -/
  | tetherStoreWrite (k : Nat)
  /-- START (R352): An aperture write starts a tethered core's context 0 and ends that core's tether. -/
  | start (k : Nat)
  /-- SGO (R352): An aperture write starts a tethered cluster's stream head. -/
  | sgo (k : Nat)
  /-- TDONE (R352): An aperture write ends the cluster's tether. -/
  | tdone (k : Nat)
  /-- WMASK_WRITE (R295): A write to a territory's way mask governs allocations after its acknowledgement. -/
  | wmaskWrite (k : Nat)
  /-- SCFG_WRITE (R298): A write sets a slice's cache-way count and lock until it is locked. -/
  | scfgWrite (k : Nat)
  /-- ROUTE_WRITE (R369): A ROUTE entry write takes effect once frames queued under the old entry have left. -/
  | routeWrite (k : Nat)
  /-- PKGID_WRITE (R366): The package id is written once after reset. -/
  | pkgidWrite (k : Nat)
  /-- REGISTER_WRITE (R298): A write to a memory-mapped register without a row of its own, after the access checks. -/
  | registerWrite (k : Nat)
  /-- FABRIC_FRAME_RECEIVE (R368): A fabric frame is admitted by TFAB and delivered on the receiving package's mesh. -/
  | fabricFrameReceive (k : Nat)
  /-- FABRIC_ACK_TIMEOUT (R368): A fabric request unacknowledged 1 ms after its first send faults its token. -/
  | fabricAckTimeout (k : Nat)
  /-- INGRESS_FRAME (R370): An ingress port checks a frame and writes it chunk by chunk into its mailbox, or drops it. -/
  | ingressFrame (port : Nat) (frame : List (BitVec 8)) (fcsBad : Bool)
  /-- TIME_DISCIPLINE (R372): An IEEE 1588 message slews the time base. -/
  | timeDiscipline (elapsed : Nat) (slew : Int)
  /-- SPDM_GET_MEASUREMENTS (R377): The root of trust answers a measurement request with signed measurement registers. -/
  | spdmGetMeasurements (viaPort : Option Nat)
  /-- SOFT_ERROR (R317): A soft error corrupts a word of a protected array (bank, register, accumulator, checksum, tag, router buffer, slice or GDDR7 data), leaving it correctable, poisoned or mismatched. -/
  | softError (site : SoftError)
  /-- TEMPERATURE_REFRESH (R273): Every microsecond the temperature readings that the dispatcher uses to choose the coolest qualifying core are refreshed. -/
  | temperatureRefresh (cluster : Nat) (readings : List Nat)
  /-- TERRITORY_PAUSE (R374): A territory is paused by stopping every context into its save region as the drain does, with no LOSS and no deadline. -/
  | territoryPause (terr : Nat) (energies : List (Nat × Nat))
  /-- HOST_DMA_ACCESS (R376): The host reads or writes GDDR7 through the BAR2 window and the I/O die's IOMMU. -/
  | hostDmaAccess (pa : Nat) (data : Option (List (BitVec 8))) (len : Nat)
  /-- FABRIC_LINK_TRAINING (R367): A fabric port's link trains or loses training, changing FPCFG.up. -/
  | fabricLinkTraining (port : Nat) (up : Bool)
  deriving DecidableEq, Repr

end Sys2Proof
end

