-- ==== Sys2Proof/WellFormed.lean ====
section
/-! DEFINITION. The field values that each word's entry accepts (R36 to R38, R20, R137, R140, Table 7.10, Tables 8.3 and 8.4). A word
whose fields break its entry traps ILLEGAL_OP at decode (R37, R54 step 2). -/

namespace Sys2Proof

/-- R38: a consuming read of g0 is refused. -/
def takeOk (a : Reg) (w : Bool) : Bool := !(w && a == 0#5)

/-- Form V element types 0 to `n` (R20, Table 8.3). -/
def tyUpTo (n : Nat) (t : BitVec 4) : Bool := t.toNat ≤ n

/-- A 5-bit field that names a mask or a pointer (R36). -/
def file8 (r : Reg) : Bool := r.toNat ≤ 7

/-- Loads accept plain and acq, and no sign extension of a doubleword (Table 7.5). -/
def loadOk (z : BitVec 2) (x : Bool) (o : BitVec 2) : Bool := o.toNat ≤ 1 && !(z == 3#2 && x)

/-- Stores accept plain and rel (Table 7.5). -/
def storeOk (o : BitVec 2) : Bool := o == 0#2 || o == 2#2

/-- Atomics accept words and doublewords (R140). -/
def amoOk (z : BitVec 2) : Bool := 2 ≤ z.toNat

/-- Global atomics accept scopes 0 to 4 (R140). -/
def amogOk (z : BitVec 2) (s : BitVec 3) : Bool := amoOk z && s.toNat ≤ 4

/-- GAU dimension fields: n = 1 to 16 stored as n − 1, the upper bits reserved (R202). -/
def dimOk (n : BitVec 6) : Bool := n.toNat ≤ 15

/-- The special register numbers that have rows of their own. -/
def mfsOwn (i : BitVec 11) : Bool := i == 18#11 || (20 ≤ i.toNat && i.toNat ≤ 23)
def mtsOwn (i : BitVec 11) : Bool := i == 16#11 || (24 ≤ i.toNat && i.toNat ≤ 27) || i == 29#11

/-- Whether an instruction's entry accepts its field values. Steps that are no words have none to refuse. -/
def Instr.wf : Instr → Bool
  | .add _ a _ w | .sub _ a _ w | .andR _ a _ w | .orR _ a _ w | .xorR _ a _ w | .shl _ a _ w | .shr _ a _ w | .sra _ a _ w
  | .rotl _ a _ w | .mul _ a _ w | .mulhs _ a _ w | .mulhn _ a _ w | .divs _ a _ w | .divn _ a _ w | .rems _ a _ w | .remn _ a _ w
  | .mins _ a _ w | .minn _ a _ w | .maxs _ a _ w | .maxn _ a _ w | .slts _ a _ w | .sltn _ a _ w | .seq _ a _ w
  | .andn _ a _ w => takeOk a w
  | .clz _ a w | .ctz _ a w | .popc _ a w => takeOk a w
  | .sel _ a _ w _ | .madd _ a _ w _ => takeOk a w
  | .jr a w | .callr a w => takeOk a w
  | .ld _ _ z x o _ | .ldg _ _ z x o _ => loadOk z x o
  | .st _ _ _ o _ | .stg _ _ _ o _ => storeOk o
  | .aadd _ _ _ z _ | .aswap _ _ _ z _ | .acas _ _ _ z _ | .amins _ _ _ z _ | .amaxs _ _ _ z _ | .aminn _ _ _ z _
  | .amaxn _ _ _ z _ | .aand _ _ _ z _ | .aor _ _ _ z _ | .axor _ _ _ z _ => amoOk z
  | .aaddg _ _ _ z _ s | .aswapg _ _ _ z _ s | .acasg _ _ _ z _ s | .aminsg _ _ _ z _ s | .amaxsg _ _ _ z _ s
  | .aminng _ _ _ z _ s | .amaxng _ _ _ z _ s | .aandg _ _ _ z _ s | .aorg _ _ _ z _ s | .axorg _ _ _ z _ s => amogOk z s
  | .fence c o s => (c == 0#2 && o != 0#2 && s.toNat ≤ 4) || (c == 1#2 && o == 0#2 && s == 0#3)
  | .acquire _ s | .release _ s => 1 ≤ s.toNat && s.toNat ≤ 4
  | .rep d a _ _ => d != 0#5 && a != d
  | .rpbld n => 1 ≤ n.toNat && n.toNat ≤ 16
  | .mfs _ i => !mfsOwn i
  | .mts _ i => !mtsOwn i
  | .vadd _ _ _ _ t _ _ | .vsub _ _ _ _ t _ _ | .vmul _ _ _ _ t _ _ | .vfma _ _ _ _ t _ _ | .vmin _ _ _ _ t _ _
  | .vmax _ _ _ _ t _ _ => tyUpTo 8 t
  | .vabs _ _ _ t _ _ | .vneg _ _ _ t _ _ | .vclamp _ _ _ t _ _ => tyUpTo 8 t
  | .vand _ _ _ _ t _ _ | .vor _ _ _ _ t _ _ | .vxor _ _ _ _ t _ _ => tyUpTo 10 t
  | .vshl _ _ _ _ t _ _ | .vshr _ _ _ _ t _ _ | .vsra _ _ _ _ t _ _ | .vadds _ _ _ _ t _ _ | .vsubs _ _ _ _ t _ _
  | .vmulh _ _ _ _ t _ _ => tyUpTo 5 t
  | .vcvt _ _ u _ t _ _ v _ => tyUpTo 10 t && 2 * u.toNat + v.toNat ≤ 10
  | .vrcp _ _ _ t _ _ | .vrsq _ _ _ t _ _ | .vexp2 _ _ _ t _ _ | .vlog2 _ _ _ t _ _ => 6 ≤ t.toNat && t.toNat ≤ 8
  | .vsel _ _ _ _ t _ => tyUpTo 10 t
  | .vmov _ _ _ t _ _ | .vcomp _ _ _ t _ _ _ => tyUpTo 10 t
  | .vsplat _ _ t _ _ => tyUpTo 10 t
  | .vceq d _ _ _ t _ _ | .vcne d _ _ _ t _ _ | .vclt d _ _ _ t _ _ | .vcle d _ _ _ t _ _ | .vcgt d _ _ _ t _ _
  | .vcge d _ _ _ t _ _ => d != 0#3 && tyUpTo 10 t
  | .vcun d _ _ _ t _ _ => d != 0#3 && 6 ≤ t.toNat && t.toNat ≤ 10
  | .vred _ _ t _ s => (s.toNat ≤ 2 && tyUpTo 8 t) || (3 ≤ s.toNat && s.toNat ≤ 5 && tyUpTo 5 t)
  | .vperm _ _ _ _ t _ _ | .vgath _ _ _ _ t _ _ => tyUpTo 10 t
  | .vscat _ _ _ _ t _ => tyUpTo 10 t
  | .mand d a b | .mor d a b | .mxor d a b => file8 d && d != 0#5 && file8 a && file8 b
  | .mnot d a => file8 d && d != 0#5 && file8 a
  | .mpop a | .many a | .mall a | .mget a => file8 a
  | .mset d a w => file8 d && d != 0#5 && takeOk a w
  | .pset d a _ w => file8 d && takeOk a w
  | .padd d a w | .pstep d a w => file8 d && takeOk a w
  | .pget _ a => file8 a
  | .qpush a w => takeOk a w
  | .gdclr c | .gdset _ c | .gdwait _ c => c != 0#3
  | .push _ _ g _ _ | .pushg _ _ g _ _ | .pushs _ _ g _ _ | .pushl _ _ g _ _ => 1 ≤ g.toNat && g.toNat ≤ 30
  | .mbpop _ a | .mbpopSpill _ a | .mbpeek _ a => 1 ≤ a.toNat && a.toNat ≤ 30
  | .hstart _ _ n s => n != 7#3 && s.toNat + n.toNat ≤ 32 && !(n == 0#3 && s != 0#5)
  | .sstart _ _ _ s => s != 0#4
  | .gang _ _ t => t != 255#8
  | .gacc _ _ _ n _ _ | .gsub _ _ _ n _ _ | .gdamp _ _ _ n _ _ | .gmean _ _ n _ _ | .gresid _ _ n _ _ | .greg _ _ n _ _
  | .gcopy _ _ n _ _ => dimOk n
  | .gsend _ n _ _ => n.toNat ≤ 7
  | .tinvb _ _ m | .scrub _ _ m => m != 3#2
  | .hcache _ s t => s != 3#2 && t != 3#2
  | _ => true

end Sys2Proof
end

