-- ==== Sys2Proof/Decode.lean ====
section
/-! DEFINITION. The decoder and the encoder of instruction words (R33 to R44, Tables 2.1 to 2.14). A word that matches a row of the opcode
table in every bit outside its operand fields decodes to that row's instruction; every other word is none: a reserved major or function
(R41, R44), a nonzero reserved field (R37), a bad hint payload (R45). Whether the entry accepts the field values is `Instr.wf`. -/

namespace Sys2Proof

/-- The entry of a key in a short table. -/
def pick (k : Nat) : List (Nat × Option Instr) → Option Instr
  | [] => none
  | (j, r) :: t => if k = j then r else pick k t

/-- Bit `n` of a word. -/
def bit (w n : Nat) : Bool := w / 2 ^ n % 2 == 1

/-- The number of the word that encodes an instruction; none for a step that is no word. -/
def encodeNat : Instr → Option Nat
  | .add d a b w => some (0x00000000 + d.toNat * 2097152 + a.toNat * 65536 + b.toNat * 2048 + w.toNat * 1024)
  | .sub d a b w => some (0x00000020 + d.toNat * 2097152 + a.toNat * 65536 + b.toNat * 2048 + w.toNat * 1024)
  | .andR d a b w => some (0x00000040 + d.toNat * 2097152 + a.toNat * 65536 + b.toNat * 2048 + w.toNat * 1024)
  | .orR d a b w => some (0x00000060 + d.toNat * 2097152 + a.toNat * 65536 + b.toNat * 2048 + w.toNat * 1024)
  | .xorR d a b w => some (0x00000080 + d.toNat * 2097152 + a.toNat * 65536 + b.toNat * 2048 + w.toNat * 1024)
  | .shl d a b w => some (0x000000A0 + d.toNat * 2097152 + a.toNat * 65536 + b.toNat * 2048 + w.toNat * 1024)
  | .shr d a b w => some (0x000000C0 + d.toNat * 2097152 + a.toNat * 65536 + b.toNat * 2048 + w.toNat * 1024)
  | .sra d a b w => some (0x000000E0 + d.toNat * 2097152 + a.toNat * 65536 + b.toNat * 2048 + w.toNat * 1024)
  | .rotl d a b w => some (0x00000100 + d.toNat * 2097152 + a.toNat * 65536 + b.toNat * 2048 + w.toNat * 1024)
  | .mul d a b w => some (0x00000120 + d.toNat * 2097152 + a.toNat * 65536 + b.toNat * 2048 + w.toNat * 1024)
  | .mulhs d a b w => some (0x00000140 + d.toNat * 2097152 + a.toNat * 65536 + b.toNat * 2048 + w.toNat * 1024)
  | .mulhn d a b w => some (0x00000160 + d.toNat * 2097152 + a.toNat * 65536 + b.toNat * 2048 + w.toNat * 1024)
  | .divs d a b w => some (0x00000180 + d.toNat * 2097152 + a.toNat * 65536 + b.toNat * 2048 + w.toNat * 1024)
  | .divn d a b w => some (0x000001A0 + d.toNat * 2097152 + a.toNat * 65536 + b.toNat * 2048 + w.toNat * 1024)
  | .rems d a b w => some (0x000001C0 + d.toNat * 2097152 + a.toNat * 65536 + b.toNat * 2048 + w.toNat * 1024)
  | .remn d a b w => some (0x000001E0 + d.toNat * 2097152 + a.toNat * 65536 + b.toNat * 2048 + w.toNat * 1024)
  | .mins d a b w => some (0x00000200 + d.toNat * 2097152 + a.toNat * 65536 + b.toNat * 2048 + w.toNat * 1024)
  | .minn d a b w => some (0x00000220 + d.toNat * 2097152 + a.toNat * 65536 + b.toNat * 2048 + w.toNat * 1024)
  | .maxs d a b w => some (0x00000240 + d.toNat * 2097152 + a.toNat * 65536 + b.toNat * 2048 + w.toNat * 1024)
  | .maxn d a b w => some (0x00000260 + d.toNat * 2097152 + a.toNat * 65536 + b.toNat * 2048 + w.toNat * 1024)
  | .slts d a b w => some (0x00000280 + d.toNat * 2097152 + a.toNat * 65536 + b.toNat * 2048 + w.toNat * 1024)
  | .sltn d a b w => some (0x000002A0 + d.toNat * 2097152 + a.toNat * 65536 + b.toNat * 2048 + w.toNat * 1024)
  | .seq d a b w => some (0x000002C0 + d.toNat * 2097152 + a.toNat * 65536 + b.toNat * 2048 + w.toNat * 1024)
  | .clz d a w => some (0x000002E0 + d.toNat * 2097152 + a.toNat * 65536 + w.toNat * 1024)
  | .ctz d a w => some (0x00000300 + d.toNat * 2097152 + a.toNat * 65536 + w.toNat * 1024)
  | .popc d a w => some (0x00000320 + d.toNat * 2097152 + a.toNat * 65536 + w.toNat * 1024)
  | .sel d a b w c => some (0x00000340 + d.toNat * 2097152 + a.toNat * 65536 + b.toNat * 2048 + w.toNat * 1024 + c.toNat)
  | .andn d a b w => some (0x00000360 + d.toNat * 2097152 + a.toNat * 65536 + b.toNat * 2048 + w.toNat * 1024)
  | .madd d a b w c => some (0x00000380 + d.toNat * 2097152 + a.toNat * 65536 + b.toNat * 2048 + w.toNat * 1024 + c.toNat)
  | .addi d a i => some (0x04000000 + d.toNat * 2097152 + a.toNat * 65536 + i.toNat)
  | .andi d a i => some (0x04001000 + d.toNat * 2097152 + a.toNat * 65536 + i.toNat)
  | .ori d a i => some (0x04002000 + d.toNat * 2097152 + a.toNat * 65536 + i.toNat)
  | .xori d a i => some (0x04003000 + d.toNat * 2097152 + a.toNat * 65536 + i.toNat)
  | .shli d a i => some (0x04004000 + d.toNat * 2097152 + a.toNat * 65536 + i.toNat)
  | .shri d a i => some (0x04005000 + d.toNat * 2097152 + a.toNat * 65536 + i.toNat)
  | .srai d a i => some (0x04006000 + d.toNat * 2097152 + a.toNat * 65536 + i.toNat)
  | .sltsi d a i => some (0x04007000 + d.toNat * 2097152 + a.toNat * 65536 + i.toNat)
  | .sltni d a i => some (0x04008000 + d.toNat * 2097152 + a.toNat * 65536 + i.toNat)
  | .seqi d a i => some (0x04009000 + d.toNat * 2097152 + a.toNat * 65536 + i.toNat)
  | .muli d a i => some (0x0400A000 + d.toNat * 2097152 + a.toNat * 65536 + i.toNat)
  | .ldi d i => some (0x0400B000 + d.toNat * 2097152 + i.toNat)
  | .beqz a o => some (0x08000000 + a.toNat * 2097152 + o.toNat)
  | .bnez a o => some (0x08040000 + a.toNat * 2097152 + o.toNat)
  | .bltz a o => some (0x08080000 + a.toNat * 2097152 + o.toNat)
  | .bgez a o => some (0x080C0000 + a.toNat * 2097152 + o.toNat)
  | .bgtz a o => some (0x08100000 + a.toNat * 2097152 + o.toNat)
  | .blez a o => some (0x08140000 + a.toNat * 2097152 + o.toNat)
  | .bfull a o => some (0x08180000 + a.toNat * 2097152 + o.toNat)
  | .bempty a o => some (0x081C0000 + a.toNat * 2097152 + o.toNat)
  | .jmp o => some (0x0C000000 + o.toNat)
  | .call o => some (0x10000000 + o.toNat)
  | .jr a w => some (0x14000000 + a.toNat * 65536 + w.toNat * 1024)
  | .callr a w => some (0x14000020 + a.toNat * 65536 + w.toNat * 1024)
  | .ret => some (0x14000040)
  | .rep d a m s => some (0x18000000 + d.toNat * 2097152 + a.toNat * 65536 + m.toNat * 128 + s.toNat * 8)
  | .rpbld n => some (0x1C000000 + n.toNat)
  | .rpbgo a s p => some (0x1C000800 + a.toNat * 65536 + s.toNat * 64 + p.toNat * 8)
  | .rpbstop d => some (0x1C001000 + d.toNat * 2097152)
  | .ld d b z x o f => some (0x20000000 + d.toNat * 2097152 + b.toNat * 65536 + z.toNat * 16384 + x.toNat * 8192 + o.toNat * 2048 + f.toNat)
  | .st d b z o f => some (0x24000000 + d.toNat * 2097152 + b.toNat * 65536 + z.toNat * 16384 + o.toNat * 2048 + f.toNat)
  | .ldg d b z x o f => some (0x28000000 + d.toNat * 2097152 + b.toNat * 65536 + z.toNat * 16384 + x.toNat * 8192 + o.toNat * 2048 + f.toNat)
  | .stg d b z o f => some (0x2C000000 + d.toNat * 2097152 + b.toNat * 65536 + z.toNat * 16384 + o.toNat * 2048 + f.toNat)
  | .aadd d a b z o => some (0x30000000 + d.toNat * 2097152 + a.toNat * 65536 + b.toNat * 2048 + z.toNat * 32 + o.toNat * 8)
  | .aswap d a b z o => some (0x30000080 + d.toNat * 2097152 + a.toNat * 65536 + b.toNat * 2048 + z.toNat * 32 + o.toNat * 8)
  | .acas d a b z o => some (0x30000100 + d.toNat * 2097152 + a.toNat * 65536 + b.toNat * 2048 + z.toNat * 32 + o.toNat * 8)
  | .amins d a b z o => some (0x30000180 + d.toNat * 2097152 + a.toNat * 65536 + b.toNat * 2048 + z.toNat * 32 + o.toNat * 8)
  | .amaxs d a b z o => some (0x30000200 + d.toNat * 2097152 + a.toNat * 65536 + b.toNat * 2048 + z.toNat * 32 + o.toNat * 8)
  | .aminn d a b z o => some (0x30000280 + d.toNat * 2097152 + a.toNat * 65536 + b.toNat * 2048 + z.toNat * 32 + o.toNat * 8)
  | .amaxn d a b z o => some (0x30000300 + d.toNat * 2097152 + a.toNat * 65536 + b.toNat * 2048 + z.toNat * 32 + o.toNat * 8)
  | .aand d a b z o => some (0x30000380 + d.toNat * 2097152 + a.toNat * 65536 + b.toNat * 2048 + z.toNat * 32 + o.toNat * 8)
  | .aor d a b z o => some (0x30000400 + d.toNat * 2097152 + a.toNat * 65536 + b.toNat * 2048 + z.toNat * 32 + o.toNat * 8)
  | .axor d a b z o => some (0x30000480 + d.toNat * 2097152 + a.toNat * 65536 + b.toNat * 2048 + z.toNat * 32 + o.toNat * 8)
  | .aaddg d a b z o s => some (0x34000000 + d.toNat * 2097152 + a.toNat * 65536 + b.toNat * 2048 + z.toNat * 32 + o.toNat * 8 + s.toNat)
  | .aswapg d a b z o s => some (0x34000080 + d.toNat * 2097152 + a.toNat * 65536 + b.toNat * 2048 + z.toNat * 32 + o.toNat * 8 + s.toNat)
  | .acasg d a b z o s => some (0x34000100 + d.toNat * 2097152 + a.toNat * 65536 + b.toNat * 2048 + z.toNat * 32 + o.toNat * 8 + s.toNat)
  | .aminsg d a b z o s => some (0x34000180 + d.toNat * 2097152 + a.toNat * 65536 + b.toNat * 2048 + z.toNat * 32 + o.toNat * 8 + s.toNat)
  | .amaxsg d a b z o s => some (0x34000200 + d.toNat * 2097152 + a.toNat * 65536 + b.toNat * 2048 + z.toNat * 32 + o.toNat * 8 + s.toNat)
  | .aminng d a b z o s => some (0x34000280 + d.toNat * 2097152 + a.toNat * 65536 + b.toNat * 2048 + z.toNat * 32 + o.toNat * 8 + s.toNat)
  | .amaxng d a b z o s => some (0x34000300 + d.toNat * 2097152 + a.toNat * 65536 + b.toNat * 2048 + z.toNat * 32 + o.toNat * 8 + s.toNat)
  | .aandg d a b z o s => some (0x34000380 + d.toNat * 2097152 + a.toNat * 65536 + b.toNat * 2048 + z.toNat * 32 + o.toNat * 8 + s.toNat)
  | .aorg d a b z o s => some (0x34000400 + d.toNat * 2097152 + a.toNat * 65536 + b.toNat * 2048 + z.toNat * 32 + o.toNat * 8 + s.toNat)
  | .axorg d a b z o s => some (0x34000480 + d.toNat * 2097152 + a.toNat * 65536 + b.toNat * 2048 + z.toNat * 32 + o.toNat * 8 + s.toNat)
  | .fence c o s => some (0x38000000 + c.toNat * 32 + o.toNat * 8 + s.toNat)
  | .acquire a s => some (0x38000080 + a.toNat * 65536 + s.toNat)
  | .release a s => some (0x38000100 + a.toNat * 65536 + s.toNat)
  | .sflush a b => some (0x38000180 + a.toNat * 65536 + b.toNat * 2048)
  | .sinval a b => some (0x38000200 + a.toNat * 65536 + b.toNat * 2048)
  | .sbind d a b => some (0x38000280 + d.toNat * 2097152 + a.toNat * 65536 + b.toNat * 2048)
  | .sunbind d a => some (0x38000300 + d.toNat * 2097152 + a.toNat * 65536)
  | .mfs d i => some (0x3C000000 + d.toNat * 2097152 + i.toNat)
  | .mts a i => some (0x3C000800 + a.toNat * 65536 + i.toNat)
  | .linkRead d l => some (0x3C000014 + d.toNat * 2097152 + l.toNat)
  | .linkWrite a l => some (0x3C000818 + a.toNat * 65536 + l.toNat)
  | .stashResize a => some (0x3C00081D + a.toNat * 65536)
  | .hbtivWrite a => some (0x3C000810 + a.toNat * 65536)
  | .nflagRead d => some (0x3C000012 + d.toNat * 2097152)
  | .vadd d a b m t i z => some (0x40000000 + d.toNat * 8388608 + a.toNat * 1048576 + b.toNat * 131072 + m.toNat * 16384 + t.toNat * 1024 + i.toNat * 16 + z.toNat * 8)
  | .vsub d a b m t i z => some (0x40000020 + d.toNat * 8388608 + a.toNat * 1048576 + b.toNat * 131072 + m.toNat * 16384 + t.toNat * 1024 + i.toNat * 16 + z.toNat * 8)
  | .vmul d a b m t i z => some (0x40000040 + d.toNat * 8388608 + a.toNat * 1048576 + b.toNat * 131072 + m.toNat * 16384 + t.toNat * 1024 + i.toNat * 16 + z.toNat * 8)
  | .vfma d a b m t i z => some (0x40000060 + d.toNat * 8388608 + a.toNat * 1048576 + b.toNat * 131072 + m.toNat * 16384 + t.toNat * 1024 + i.toNat * 16 + z.toNat * 8)
  | .vmin d a b m t i z => some (0x40000080 + d.toNat * 8388608 + a.toNat * 1048576 + b.toNat * 131072 + m.toNat * 16384 + t.toNat * 1024 + i.toNat * 16 + z.toNat * 8)
  | .vmax d a b m t i z => some (0x400000A0 + d.toNat * 8388608 + a.toNat * 1048576 + b.toNat * 131072 + m.toNat * 16384 + t.toNat * 1024 + i.toNat * 16 + z.toNat * 8)
  | .vabs d a m t i z => some (0x400000C0 + d.toNat * 8388608 + a.toNat * 1048576 + m.toNat * 16384 + t.toNat * 1024 + i.toNat * 16 + z.toNat * 8)
  | .vneg d a m t i z => some (0x400000E0 + d.toNat * 8388608 + a.toNat * 1048576 + m.toNat * 16384 + t.toNat * 1024 + i.toNat * 16 + z.toNat * 8)
  | .vand d a b m t i z => some (0x40000100 + d.toNat * 8388608 + a.toNat * 1048576 + b.toNat * 131072 + m.toNat * 16384 + t.toNat * 1024 + i.toNat * 16 + z.toNat * 8)
  | .vor d a b m t i z => some (0x40000120 + d.toNat * 8388608 + a.toNat * 1048576 + b.toNat * 131072 + m.toNat * 16384 + t.toNat * 1024 + i.toNat * 16 + z.toNat * 8)
  | .vxor d a b m t i z => some (0x40000140 + d.toNat * 8388608 + a.toNat * 1048576 + b.toNat * 131072 + m.toNat * 16384 + t.toNat * 1024 + i.toNat * 16 + z.toNat * 8)
  | .vshl d a b m t i z => some (0x40000160 + d.toNat * 8388608 + a.toNat * 1048576 + b.toNat * 131072 + m.toNat * 16384 + t.toNat * 1024 + i.toNat * 16 + z.toNat * 8)
  | .vshr d a b m t i z => some (0x40000180 + d.toNat * 8388608 + a.toNat * 1048576 + b.toNat * 131072 + m.toNat * 16384 + t.toNat * 1024 + i.toNat * 16 + z.toNat * 8)
  | .vsra d a b m t i z => some (0x400001A0 + d.toNat * 8388608 + a.toNat * 1048576 + b.toNat * 131072 + m.toNat * 16384 + t.toNat * 1024 + i.toNat * 16 + z.toNat * 8)
  | .vcvt d a u m t i z v s => some (0x400001C0 + d.toNat * 8388608 + a.toNat * 1048576 + u.toNat * 131072 + m.toNat * 16384 + t.toNat * 1024 + i.toNat * 16 + z.toNat * 8 + v.toNat * 4 + s.toNat * 2)
  | .vrcp d a m t i z => some (0x400001E0 + d.toNat * 8388608 + a.toNat * 1048576 + m.toNat * 16384 + t.toNat * 1024 + i.toNat * 16 + z.toNat * 8)
  | .vrsq d a m t i z => some (0x40000200 + d.toNat * 8388608 + a.toNat * 1048576 + m.toNat * 16384 + t.toNat * 1024 + i.toNat * 16 + z.toNat * 8)
  | .vexp2 d a m t i z => some (0x40000220 + d.toNat * 8388608 + a.toNat * 1048576 + m.toNat * 16384 + t.toNat * 1024 + i.toNat * 16 + z.toNat * 8)
  | .vlog2 d a m t i z => some (0x40000240 + d.toNat * 8388608 + a.toNat * 1048576 + m.toNat * 16384 + t.toNat * 1024 + i.toNat * 16 + z.toNat * 8)
  | .vsel d a b m t i => some (0x40000260 + d.toNat * 8388608 + a.toNat * 1048576 + b.toNat * 131072 + m.toNat * 16384 + t.toNat * 1024 + i.toNat * 16)
  | .vmov d a m t i z => some (0x40000280 + d.toNat * 8388608 + a.toNat * 1048576 + m.toNat * 16384 + t.toNat * 1024 + i.toNat * 16 + z.toNat * 8)
  | .vsplat d m t i z => some (0x400002A0 + d.toNat * 8388608 + m.toNat * 16384 + t.toNat * 1024 + i.toNat * 16 + z.toNat * 8)
  | .vclamp d a m t i z => some (0x400002C0 + d.toNat * 8388608 + a.toNat * 1048576 + m.toNat * 16384 + t.toNat * 1024 + i.toNat * 16 + z.toNat * 8)
  | .vadds d a b m t i z => some (0x400002E0 + d.toNat * 8388608 + a.toNat * 1048576 + b.toNat * 131072 + m.toNat * 16384 + t.toNat * 1024 + i.toNat * 16 + z.toNat * 8)
  | .vsubs d a b m t i z => some (0x40000300 + d.toNat * 8388608 + a.toNat * 1048576 + b.toNat * 131072 + m.toNat * 16384 + t.toNat * 1024 + i.toNat * 16 + z.toNat * 8)
  | .vmulh d a b m t i z => some (0x40000320 + d.toNat * 8388608 + a.toNat * 1048576 + b.toNat * 131072 + m.toNat * 16384 + t.toNat * 1024 + i.toNat * 16 + z.toNat * 8)
  | .vceq d a b m t i z => some (0x44000000 + d.toNat * 8388608 + a.toNat * 1048576 + b.toNat * 131072 + m.toNat * 16384 + t.toNat * 1024 + i.toNat * 16 + z.toNat * 8)
  | .vcne d a b m t i z => some (0x44000020 + d.toNat * 8388608 + a.toNat * 1048576 + b.toNat * 131072 + m.toNat * 16384 + t.toNat * 1024 + i.toNat * 16 + z.toNat * 8)
  | .vclt d a b m t i z => some (0x44000040 + d.toNat * 8388608 + a.toNat * 1048576 + b.toNat * 131072 + m.toNat * 16384 + t.toNat * 1024 + i.toNat * 16 + z.toNat * 8)
  | .vcle d a b m t i z => some (0x44000060 + d.toNat * 8388608 + a.toNat * 1048576 + b.toNat * 131072 + m.toNat * 16384 + t.toNat * 1024 + i.toNat * 16 + z.toNat * 8)
  | .vcgt d a b m t i z => some (0x44000080 + d.toNat * 8388608 + a.toNat * 1048576 + b.toNat * 131072 + m.toNat * 16384 + t.toNat * 1024 + i.toNat * 16 + z.toNat * 8)
  | .vcge d a b m t i z => some (0x440000A0 + d.toNat * 8388608 + a.toNat * 1048576 + b.toNat * 131072 + m.toNat * 16384 + t.toNat * 1024 + i.toNat * 16 + z.toNat * 8)
  | .vcun d a b m t i z => some (0x440000C0 + d.toNat * 8388608 + a.toNat * 1048576 + b.toNat * 131072 + m.toNat * 16384 + t.toNat * 1024 + i.toNat * 16 + z.toNat * 8)
  | .vred a m t i s => some (0x48000000 + a.toNat * 1048576 + m.toNat * 16384 + t.toNat * 1024 + i.toNat * 16 + s.toNat)
  | .vperm d a b m t i z => some (0x48000020 + d.toNat * 8388608 + a.toNat * 1048576 + b.toNat * 131072 + m.toNat * 16384 + t.toNat * 1024 + i.toNat * 16 + z.toNat * 8)
  | .vgath d a b m t i z => some (0x48000040 + d.toNat * 8388608 + a.toNat * 1048576 + b.toNat * 131072 + m.toNat * 16384 + t.toNat * 1024 + i.toNat * 16 + z.toNat * 8)
  | .vscat d a b m t i => some (0x48000060 + d.toNat * 8388608 + a.toNat * 1048576 + b.toNat * 131072 + m.toNat * 16384 + t.toNat * 1024 + i.toNat * 16)
  | .vcomp d a m t i z c => some (0x48000080 + d.toNat * 8388608 + a.toNat * 1048576 + m.toNat * 16384 + t.toNat * 1024 + i.toNat * 16 + z.toNat * 8 + c.toNat)
  | .vpref s => some (0x480000A0 + s.toNat)
  | .mand d a b => some (0x4C000000 + d.toNat * 2097152 + a.toNat * 65536 + b.toNat * 2048)
  | .mor d a b => some (0x4C000020 + d.toNat * 2097152 + a.toNat * 65536 + b.toNat * 2048)
  | .mxor d a b => some (0x4C000040 + d.toNat * 2097152 + a.toNat * 65536 + b.toNat * 2048)
  | .mnot d a => some (0x4C000060 + d.toNat * 2097152 + a.toNat * 65536)
  | .mpop a => some (0x4C000080 + a.toNat * 65536)
  | .many a => some (0x4C0000A0 + a.toNat * 65536)
  | .mall a => some (0x4C0000C0 + a.toNat * 65536)
  | .mset d a w => some (0x4C0000E0 + d.toNat * 2097152 + a.toNat * 65536 + w.toNat * 1024)
  | .mget a => some (0x4C000100 + a.toNat * 65536)
  | .pset d a b w => some (0x50000000 + d.toNat * 2097152 + a.toNat * 65536 + b.toNat * 2048 + w.toNat * 1024)
  | .pget d a => some (0x50000020 + d.toNat * 2097152 + a.toNat * 65536)
  | .padd d a w => some (0x50000040 + d.toNat * 2097152 + a.toNat * 65536 + w.toNat * 1024)
  | .pstep d a w => some (0x50000060 + d.toNat * 2097152 + a.toNat * 65536 + w.toNat * 1024)
  | .qpush a w => some (0x54000000 + a.toNat * 65536 + w.toNat * 1024)
  | .qpop d => some (0x54000020 + d.toNat * 2097152)
  | .qcnt d => some (0x54000040 + d.toNat * 2097152)
  | .tdset a g => some (0x58000000 + a.toNat * 2097152 + g.toNat * 2048)
  | .tdget a g => some (0x58000001 + a.toNat * 2097152 + g.toNat * 2048)
  | .tdstate a g => some (0x58000002 + a.toNat * 2097152 + g.toNat * 2048)
  | .tdbind a g => some (0x58000003 + a.toNat * 2097152 + g.toNat * 2048)
  | .tddrop a => some (0x58000004 + a.toNat * 2097152)
  | .gdclr c => some (0x5C000000 + c.toNat * 32)
  | .gdset g c => some (0x5C000001 + g.toNat * 2048 + c.toNat * 32)
  | .gdwait g c => some (0x5C000002 + g.toNat * 2048 + c.toNat * 32)
  | .twait i n m => some (0x60000000 + i.toNat * 512 + n.toNat * 256 + m.toNat)
  | .ttest d => some (0x60000800 + d.toNat * 2097152)
  | .tclr m => some (0x60001000 + m.toNat)
  | .barinit a b => some (0x64000000 + a.toNat * 65536 + b.toNat * 2048)
  | .barexp a b => some (0x64000020 + a.toNat * 65536 + b.toNat * 2048)
  | .barwait d a i => some (0x64000040 + d.toNat * 2097152 + a.toNat * 65536 + i.toNat)
  | .bartest d a => some (0x64000060 + d.toNat * 2097152 + a.toNat * 65536)
  | .baradd a b => some (0x64000080 + a.toNat * 65536 + b.toNat * 2048)
  | .push a m g t c => some (0x68000000 + a.toNat * 2097152 + m.toNat * 65536 + g.toNat * 2048 + t.toNat * 256 + c.toNat * 32)
  | .pushg a m g t c => some (0x68000001 + a.toNat * 2097152 + m.toNat * 65536 + g.toNat * 2048 + t.toNat * 256 + c.toNat * 32)
  | .pushs a m g t c => some (0x68000002 + a.toNat * 2097152 + m.toNat * 65536 + g.toNat * 2048 + t.toNat * 256 + c.toNat * 32)
  | .pushl a m g t c => some (0x68000003 + a.toNat * 2097152 + m.toNat * 65536 + g.toNat * 2048 + t.toNat * 256 + c.toNat * 32)
  | .sndo a b t v e => some (0x6C000000 + a.toNat * 2097152 + b.toNat * 65536 + t.toNat * 256 + v.toNat * 64 + e.toNat * 32)
  | .sndw a e => some (0x6C000001 + a.toNat * 2097152 + e.toNat * 32)
  | .snde => some (0x6C000002)
  | .rpost a b c t v => some (0x6C000003 + a.toNat * 2097152 + b.toNat * 65536 + c.toNat * 2048 + t.toNat * 256 + v.toNat * 64)
  | .mbpop d a => some (0x70000000 + d.toNat * 2097152 + a.toNat * 65536)
  | .mbpopSpill d a => some (0x70000001 + d.toNat * 2097152 + a.toNat * 65536)
  | .mbpeek d a => some (0x70000800 + d.toNat * 2097152 + a.toNat * 65536)
  | .mbcnt d a => some (0x70001000 + d.toNat * 2097152 + a.toNat * 65536)
  | .lbk d a => some (0x70001800 + d.toNat * 2097152 + a.toNat * 65536)
  | .grpbar d a i => some (0x74000000 + d.toNat * 2097152 + a.toNat * 65536 + i.toNat)
  | .grpinfo d a => some (0x74000800 + d.toNat * 2097152 + a.toNat * 65536)
  | .hstart d a n s => some (0x78000000 + d.toNat * 2097152 + a.toNat * 65536 + n.toNat * 256 + s.toNat * 8)
  | .hjoin d a => some (0x78000800 + d.toNat * 2097152 + a.toNat * 65536)
  | .endCtx => some (0x78001000)
  | .yieldSlot => some (0x78001800)
  | .wfe d a i => some (0x78002000 + d.toNat * 2097152 + a.toNat * 65536 + i.toNat)
  | .hkill d a => some (0x78002800 + d.toNat * 2097152 + a.toNat * 65536)
  | .hbt => some (0x78003000)
  | .post d a => some (0x7C000000 + d.toNat * 2097152 + a.toNat * 65536)
  | .tkey d a r => some (0x7C000800 + d.toNat * 2097152 + a.toNat * 65536 + r.toNat)
  | .sstart d a t s => some (0x80000000 + d.toNat * 2097152 + a.toNat * 65536 + t.toNat * 16 + s.toNat)
  | .sstop d a t => some (0x80000800 + d.toNat * 2097152 + a.toNat * 65536 + t.toNat * 16)
  | .detach d a => some (0x80001000 + d.toNat * 2097152 + a.toNat * 65536)
  | .join a i => some (0x80001800 + a.toNat * 65536 + i.toNat)
  | .gang d i t => some (0x84000000 + d.toNat * 2097152 + i.toNat * 256 + t.toNat)
  | .mma a p x g c t u => some (0x88000000 + a.toNat * 2097152 + p.toNat * 262144 + x.toNat * 131072 + g.toNat * 65536 + c.toNat * 2048 + t.toNat * 256 + u.toNat * 32)
  | .mmag a p x g c t u => some (0x88000001 + a.toNat * 2097152 + p.toNat * 262144 + x.toNat * 131072 + g.toNat * 65536 + c.toNat * 2048 + t.toNat * 256 + u.toNat * 32)
  | .mzero x t u => some (0x88000002 + x.toNat * 131072 + t.toNat * 256 + u.toNat * 32)
  | .mdrain a x c t u => some (0x88000003 + a.toNat * 2097152 + x.toNat * 131072 + c.toNat * 2048 + t.toNat * 256 + u.toNat * 32)
  | .mldb a t u => some (0x88000004 + a.toNat * 2097152 + t.toNat * 256 + u.toNat * 32)
  | .mprog i c t u => some (0x88000005 + i.toNat * 65536 + c.toNat * 2048 + t.toNat * 256 + u.toNat * 32)
  | .mchk x t u => some (0x88000006 + x.toNat * 131072 + t.toNat * 256 + u.toNat * 32)
  | .gacc d a b n t u => some (0x8C000000 + d.toNat * 8388608 + a.toNat * 1048576 + b.toNat * 131072 + n.toNat * 2048 + t.toNat * 256 + u.toNat * 32)
  | .gsub d a b n t u => some (0x8C000001 + d.toNat * 8388608 + a.toNat * 1048576 + b.toNat * 131072 + n.toNat * 2048 + t.toNat * 256 + u.toNat * 32)
  | .gelim d a k e t u => some (0x8C000002 + d.toNat * 8388608 + a.toNat * 1048576 + k.toNat * 16384 + e.toNat * 2048 + t.toNat * 256 + u.toNat * 32)
  | .gdamp d a b n t u => some (0x8C000003 + d.toNat * 8388608 + a.toNat * 1048576 + b.toNat * 131072 + n.toNat * 2048 + t.toNat * 256 + u.toNat * 32)
  | .gmean d a n t u => some (0x8C000004 + d.toNat * 8388608 + a.toNat * 1048576 + n.toNat * 2048 + t.toNat * 256 + u.toNat * 32)
  | .gresid a b n t u => some (0x8C000005 + a.toNat * 1048576 + b.toNat * 131072 + n.toNat * 2048 + t.toNat * 256 + u.toNat * 32)
  | .greg d a n t u => some (0x8C000006 + d.toNat * 8388608 + a.toNat * 1048576 + n.toNat * 2048 + t.toNat * 256 + u.toNat * 32)
  | .gsend a n t u => some (0x8C000007 + a.toNat * 1048576 + n.toNat * 2048 + t.toNat * 256 + u.toNat * 32)
  | .gcopy d a n t u => some (0x8C000008 + d.toNat * 8388608 + a.toNat * 1048576 + n.toNat * 2048 + t.toNat * 256 + u.toNat * 32)
  | .tshape d a => some (0x90000000 + d.toNat * 2097152 + a.toNat * 65536)
  | .tfreeze d a l => some (0x90000800 + d.toNat * 2097152 + a.toNat * 65536 + l.toNat)
  | .tthaw d a l => some (0x90001000 + d.toNat * 2097152 + a.toNat * 65536 + l.toNat)
  | .upret => some (0x90001800)
  | .upretYield => some (0x90001801)
  | .press d => some (0x90002000 + d.toNat * 2097152)
  | .pressNb d a => some (0x90002001 + d.toNat * 2097152 + a.toNat * 65536)
  | .pressCfg d => some (0x90002002 + d.toNat * 2097152)
  | .pressSet a => some (0x90002003 + a.toNat * 65536)
  | .trap i => some (0x94000000 + i.toNat)
  | .eret => some (0x94000800)
  | .halt => some (0x94001000)
  | .tinvb d a m => some (0x94001800 + d.toNat * 2097152 + a.toNat * 65536 + m.toNat)
  | .scrub d a m => some (0x94002000 + d.toNat * 2097152 + a.toNat * 65536 + m.toNat)
  | .tailrd d a p => some (0x94002800 + d.toNat * 2097152 + a.toNat * 65536 + p.toNat)
  | .isync => some (0x94003000)
  | .himm p => some (0xC0000000 + p.toNat)
  | .hwait i n m => some (0xC4000000 + i.toNat * 512 + n.toNat * 256 + m.toNat)
  | .hcache p s t => some (0xC8000000 + p.toNat * 16 + s.toNat * 4 + t.toNat)
  | .hsched y w => some (0xCC000000 + y.toNat * 8 + w.toNat)
  | .illegalWord w => some w.toNat
  | .upcallDelivery _ => none
  | .rpostArrival _ => none
  | .heldPostFill _ _ => none
  | .contextStop _ _ => none
  | .contextRestore _ _ => none
  | .helperSlotRestore _ => none
  | .helperDrain _ _ _ => none
  | .wfeTimeout _ _ => none
  | .burnerExpiry _ _ => none
  | .packetAbort _ _ => none
  | .stashFillReturn _ => none
  | .writeAck _ => none
  | .negativeAck _ => none
  | .deliveryAck _ => none
  | .vectorCommandStart _ => none
  | .vectorCommandComplete _ => none
  | .pushCommandStart _ => none
  | .pushComplete _ _ => none
  | .matrixCommandStart _ => none
  | .bridleFire _ _ => none
  | .matrixPreempt _ _ => none
  | .matrixComplete _ _ => none
  | .accVerdict _ => none
  | .gaussianCommandStart _ => none
  | .pivotVerdict _ => none
  | .gaussianComplete _ => none
  | .sequencerPlace _ => none
  | .pushArrival _ => none
  | .packetArrival _ => none
  | .messageArrival _ => none
  | .heldMessageRetry _ => none
  | .ballonetWake _ => none
  | .mailboxPostRetry _ => none
  | .postRecordArrival _ => none
  | .dispatchRequest _ => none
  | .bucketRefill => none
  | .powerControl _ _ => none
  | .thermalShutdown _ => none
  | .groupArrival _ => none
  | .groupFiringArrival _ => none
  | .streamHeadStart _ => none
  | .streamHeadSend _ => none
  | .streamWordDelivery _ => none
  | .sliceRequest _ => none
  | .sliceFillReturn _ _ => none
  | .walkComplete _ _ => none
  | .tinvbInvalidate _ => none
  | .faultMessageArrival _ => none
  | .faultMessageResend _ => none
  | .resumeCopy _ => none
  | .abortCopy _ => none
  | .restart _ => none
  | .unfence _ => none
  | .containmentKill _ => none
  | .occRebuildEnd _ => none
  | .patrolScrub _ _ => none
  | .dieReset _ => none
  | .supervisorImagePlace _ _ => none
  | .moduleBringup _ => none
  | .pressureGossip => none
  | .driftEvaluate _ => none
  | .proposeConfirm _ => none
  | .drainDeadline _ _ => none
  | .scrubPhase _ => none
  | .transferPhase _ => none
  | .upcallRetry _ => none
  | .territoryLaunch _ _ => none
  | .territoryShutdown _ => none
  | .queueMap _ => none
  | .queueUnmap _ => none
  | .toffWrite _ => none
  | .tetherStoreWrite _ => none
  | .start _ => none
  | .sgo _ => none
  | .tdone _ => none
  | .wmaskWrite _ => none
  | .scfgWrite _ => none
  | .routeWrite _ => none
  | .pkgidWrite _ => none
  | .registerWrite _ => none
  | .fabricFrameReceive _ => none
  | .fabricAckTimeout _ => none
  | .ingressFrame _ _ _ => none
  | .timeDiscipline _ _ => none
  | .spdmGetMeasurements _ => none
  | .softError _ => none
  | .temperatureRefresh _ _ => none
  | .territoryPause _ _ => none
  | .hostDmaAccess _ _ _ => none
  | .fabricLinkTraining _ _ => none

/-- The word of an instruction. -/
def encode (i : Instr) : Option (BitVec 32) := (encodeNat i).map (BitVec.ofNat 32)

/-- Major 0x00 (Table 2.14). -/
def rawAlu (w : Nat) : Option Instr :=
  pick (w / 32 % 32) [
    (0, some (.add (BitVec.ofNat 5 (w / 2097152)) (BitVec.ofNat 5 (w / 65536)) (BitVec.ofNat 5 (w / 2048)) (bit w 10))),
    (1, some (.sub (BitVec.ofNat 5 (w / 2097152)) (BitVec.ofNat 5 (w / 65536)) (BitVec.ofNat 5 (w / 2048)) (bit w 10))),
    (2, some (.andR (BitVec.ofNat 5 (w / 2097152)) (BitVec.ofNat 5 (w / 65536)) (BitVec.ofNat 5 (w / 2048)) (bit w 10))),
    (3, some (.orR (BitVec.ofNat 5 (w / 2097152)) (BitVec.ofNat 5 (w / 65536)) (BitVec.ofNat 5 (w / 2048)) (bit w 10))),
    (4, some (.xorR (BitVec.ofNat 5 (w / 2097152)) (BitVec.ofNat 5 (w / 65536)) (BitVec.ofNat 5 (w / 2048)) (bit w 10))),
    (5, some (.shl (BitVec.ofNat 5 (w / 2097152)) (BitVec.ofNat 5 (w / 65536)) (BitVec.ofNat 5 (w / 2048)) (bit w 10))),
    (6, some (.shr (BitVec.ofNat 5 (w / 2097152)) (BitVec.ofNat 5 (w / 65536)) (BitVec.ofNat 5 (w / 2048)) (bit w 10))),
    (7, some (.sra (BitVec.ofNat 5 (w / 2097152)) (BitVec.ofNat 5 (w / 65536)) (BitVec.ofNat 5 (w / 2048)) (bit w 10))),
    (8, some (.rotl (BitVec.ofNat 5 (w / 2097152)) (BitVec.ofNat 5 (w / 65536)) (BitVec.ofNat 5 (w / 2048)) (bit w 10))),
    (9, some (.mul (BitVec.ofNat 5 (w / 2097152)) (BitVec.ofNat 5 (w / 65536)) (BitVec.ofNat 5 (w / 2048)) (bit w 10))),
    (10, some (.mulhs (BitVec.ofNat 5 (w / 2097152)) (BitVec.ofNat 5 (w / 65536)) (BitVec.ofNat 5 (w / 2048)) (bit w 10))),
    (11, some (.mulhn (BitVec.ofNat 5 (w / 2097152)) (BitVec.ofNat 5 (w / 65536)) (BitVec.ofNat 5 (w / 2048)) (bit w 10))),
    (12, some (.divs (BitVec.ofNat 5 (w / 2097152)) (BitVec.ofNat 5 (w / 65536)) (BitVec.ofNat 5 (w / 2048)) (bit w 10))),
    (13, some (.divn (BitVec.ofNat 5 (w / 2097152)) (BitVec.ofNat 5 (w / 65536)) (BitVec.ofNat 5 (w / 2048)) (bit w 10))),
    (14, some (.rems (BitVec.ofNat 5 (w / 2097152)) (BitVec.ofNat 5 (w / 65536)) (BitVec.ofNat 5 (w / 2048)) (bit w 10))),
    (15, some (.remn (BitVec.ofNat 5 (w / 2097152)) (BitVec.ofNat 5 (w / 65536)) (BitVec.ofNat 5 (w / 2048)) (bit w 10))),
    (16, some (.mins (BitVec.ofNat 5 (w / 2097152)) (BitVec.ofNat 5 (w / 65536)) (BitVec.ofNat 5 (w / 2048)) (bit w 10))),
    (17, some (.minn (BitVec.ofNat 5 (w / 2097152)) (BitVec.ofNat 5 (w / 65536)) (BitVec.ofNat 5 (w / 2048)) (bit w 10))),
    (18, some (.maxs (BitVec.ofNat 5 (w / 2097152)) (BitVec.ofNat 5 (w / 65536)) (BitVec.ofNat 5 (w / 2048)) (bit w 10))),
    (19, some (.maxn (BitVec.ofNat 5 (w / 2097152)) (BitVec.ofNat 5 (w / 65536)) (BitVec.ofNat 5 (w / 2048)) (bit w 10))),
    (20, some (.slts (BitVec.ofNat 5 (w / 2097152)) (BitVec.ofNat 5 (w / 65536)) (BitVec.ofNat 5 (w / 2048)) (bit w 10))),
    (21, some (.sltn (BitVec.ofNat 5 (w / 2097152)) (BitVec.ofNat 5 (w / 65536)) (BitVec.ofNat 5 (w / 2048)) (bit w 10))),
    (22, some (.seq (BitVec.ofNat 5 (w / 2097152)) (BitVec.ofNat 5 (w / 65536)) (BitVec.ofNat 5 (w / 2048)) (bit w 10))),
    (23, some (.clz (BitVec.ofNat 5 (w / 2097152)) (BitVec.ofNat 5 (w / 65536)) (bit w 10))),
    (24, some (.ctz (BitVec.ofNat 5 (w / 2097152)) (BitVec.ofNat 5 (w / 65536)) (bit w 10))),
    (25, some (.popc (BitVec.ofNat 5 (w / 2097152)) (BitVec.ofNat 5 (w / 65536)) (bit w 10))),
    (26, some (.sel (BitVec.ofNat 5 (w / 2097152)) (BitVec.ofNat 5 (w / 65536)) (BitVec.ofNat 5 (w / 2048)) (bit w 10) (BitVec.ofNat 5 (w)))),
    (27, some (.andn (BitVec.ofNat 5 (w / 2097152)) (BitVec.ofNat 5 (w / 65536)) (BitVec.ofNat 5 (w / 2048)) (bit w 10))),
    (28, some (.madd (BitVec.ofNat 5 (w / 2097152)) (BitVec.ofNat 5 (w / 65536)) (BitVec.ofNat 5 (w / 2048)) (bit w 10) (BitVec.ofNat 5 (w))))]

/-- Major 0x01 (Table 2.14). -/
def rawAlui (w : Nat) : Option Instr :=
  pick (w / 4096 % 16) [
    (0, some (.addi (BitVec.ofNat 5 (w / 2097152)) (BitVec.ofNat 5 (w / 65536)) (BitVec.ofNat 12 (w)))),
    (1, some (.andi (BitVec.ofNat 5 (w / 2097152)) (BitVec.ofNat 5 (w / 65536)) (BitVec.ofNat 12 (w)))),
    (2, some (.ori (BitVec.ofNat 5 (w / 2097152)) (BitVec.ofNat 5 (w / 65536)) (BitVec.ofNat 12 (w)))),
    (3, some (.xori (BitVec.ofNat 5 (w / 2097152)) (BitVec.ofNat 5 (w / 65536)) (BitVec.ofNat 12 (w)))),
    (4, some (.shli (BitVec.ofNat 5 (w / 2097152)) (BitVec.ofNat 5 (w / 65536)) (BitVec.ofNat 12 (w)))),
    (5, some (.shri (BitVec.ofNat 5 (w / 2097152)) (BitVec.ofNat 5 (w / 65536)) (BitVec.ofNat 12 (w)))),
    (6, some (.srai (BitVec.ofNat 5 (w / 2097152)) (BitVec.ofNat 5 (w / 65536)) (BitVec.ofNat 12 (w)))),
    (7, some (.sltsi (BitVec.ofNat 5 (w / 2097152)) (BitVec.ofNat 5 (w / 65536)) (BitVec.ofNat 12 (w)))),
    (8, some (.sltni (BitVec.ofNat 5 (w / 2097152)) (BitVec.ofNat 5 (w / 65536)) (BitVec.ofNat 12 (w)))),
    (9, some (.seqi (BitVec.ofNat 5 (w / 2097152)) (BitVec.ofNat 5 (w / 65536)) (BitVec.ofNat 12 (w)))),
    (10, some (.muli (BitVec.ofNat 5 (w / 2097152)) (BitVec.ofNat 5 (w / 65536)) (BitVec.ofNat 12 (w)))),
    (11, some (.ldi (BitVec.ofNat 5 (w / 2097152)) (BitVec.ofNat 12 (w))))]

/-- Major 0x02 (Table 2.14). -/
def rawBr (w : Nat) : Option Instr :=
  pick (w / 262144 % 8) [
    (0, some (.beqz (BitVec.ofNat 5 (w / 2097152)) (BitVec.ofNat 18 (w)))),
    (1, some (.bnez (BitVec.ofNat 5 (w / 2097152)) (BitVec.ofNat 18 (w)))),
    (2, some (.bltz (BitVec.ofNat 5 (w / 2097152)) (BitVec.ofNat 18 (w)))),
    (3, some (.bgez (BitVec.ofNat 5 (w / 2097152)) (BitVec.ofNat 18 (w)))),
    (4, some (.bgtz (BitVec.ofNat 5 (w / 2097152)) (BitVec.ofNat 18 (w)))),
    (5, some (.blez (BitVec.ofNat 5 (w / 2097152)) (BitVec.ofNat 18 (w)))),
    (6, some (.bfull (BitVec.ofNat 5 (w / 2097152)) (BitVec.ofNat 18 (w)))),
    (7, some (.bempty (BitVec.ofNat 5 (w / 2097152)) (BitVec.ofNat 18 (w))))]

/-- Major 0x03 (Table 2.14). -/
def rawJmp (w : Nat) : Option Instr := some (.jmp (BitVec.ofNat 26 (w)))

/-- Major 0x04 (Table 2.14). -/
def rawCall (w : Nat) : Option Instr := some (.call (BitVec.ofNat 26 (w)))

/-- Major 0x05 (Table 2.14). -/
def rawJreg (w : Nat) : Option Instr :=
  pick (w / 32 % 32) [
    (0, some (.jr (BitVec.ofNat 5 (w / 65536)) (bit w 10))),
    (1, some (.callr (BitVec.ofNat 5 (w / 65536)) (bit w 10))),
    (2, some (.ret))]

/-- Major 0x06 (Table 2.14). -/
def rawRep (w : Nat) : Option Instr := some (.rep (BitVec.ofNat 5 (w / 2097152)) (BitVec.ofNat 5 (w / 65536)) (BitVec.ofNat 5 (w / 128)) (BitVec.ofNat 4 (w / 8)))

/-- Major 0x07 (Table 2.14). -/
def rawRpb (w : Nat) : Option Instr :=
  pick (w / 2048 % 32) [
    (0, some (.rpbld (BitVec.ofNat 5 (w)))),
    (1, some (.rpbgo (BitVec.ofNat 5 (w / 65536)) (BitVec.ofNat 5 (w / 64)) (BitVec.ofNat 3 (w / 8)))),
    (2, some (.rpbstop (BitVec.ofNat 5 (w / 2097152))))]

/-- Major 0x08 (Table 2.14). -/
def rawLd (w : Nat) : Option Instr := some (.ld (BitVec.ofNat 5 (w / 2097152)) (BitVec.ofNat 5 (w / 65536)) (BitVec.ofNat 2 (w / 16384)) (bit w 13) (BitVec.ofNat 2 (w / 2048)) (BitVec.ofNat 11 (w)))

/-- Major 0x09 (Table 2.14). -/
def rawSt (w : Nat) : Option Instr := some (.st (BitVec.ofNat 5 (w / 2097152)) (BitVec.ofNat 5 (w / 65536)) (BitVec.ofNat 2 (w / 16384)) (BitVec.ofNat 2 (w / 2048)) (BitVec.ofNat 11 (w)))

/-- Major 0x0A (Table 2.14). -/
def rawLdg (w : Nat) : Option Instr := some (.ldg (BitVec.ofNat 5 (w / 2097152)) (BitVec.ofNat 5 (w / 65536)) (BitVec.ofNat 2 (w / 16384)) (bit w 13) (BitVec.ofNat 2 (w / 2048)) (BitVec.ofNat 11 (w)))

/-- Major 0x0B (Table 2.14). -/
def rawStg (w : Nat) : Option Instr := some (.stg (BitVec.ofNat 5 (w / 2097152)) (BitVec.ofNat 5 (w / 65536)) (BitVec.ofNat 2 (w / 16384)) (BitVec.ofNat 2 (w / 2048)) (BitVec.ofNat 11 (w)))

/-- Major 0x0C (Table 2.14). -/
def rawAmo (w : Nat) : Option Instr :=
  pick (w / 128 % 16) [
    (0, some (.aadd (BitVec.ofNat 5 (w / 2097152)) (BitVec.ofNat 5 (w / 65536)) (BitVec.ofNat 5 (w / 2048)) (BitVec.ofNat 2 (w / 32)) (BitVec.ofNat 2 (w / 8)))),
    (1, some (.aswap (BitVec.ofNat 5 (w / 2097152)) (BitVec.ofNat 5 (w / 65536)) (BitVec.ofNat 5 (w / 2048)) (BitVec.ofNat 2 (w / 32)) (BitVec.ofNat 2 (w / 8)))),
    (2, some (.acas (BitVec.ofNat 5 (w / 2097152)) (BitVec.ofNat 5 (w / 65536)) (BitVec.ofNat 5 (w / 2048)) (BitVec.ofNat 2 (w / 32)) (BitVec.ofNat 2 (w / 8)))),
    (3, some (.amins (BitVec.ofNat 5 (w / 2097152)) (BitVec.ofNat 5 (w / 65536)) (BitVec.ofNat 5 (w / 2048)) (BitVec.ofNat 2 (w / 32)) (BitVec.ofNat 2 (w / 8)))),
    (4, some (.amaxs (BitVec.ofNat 5 (w / 2097152)) (BitVec.ofNat 5 (w / 65536)) (BitVec.ofNat 5 (w / 2048)) (BitVec.ofNat 2 (w / 32)) (BitVec.ofNat 2 (w / 8)))),
    (5, some (.aminn (BitVec.ofNat 5 (w / 2097152)) (BitVec.ofNat 5 (w / 65536)) (BitVec.ofNat 5 (w / 2048)) (BitVec.ofNat 2 (w / 32)) (BitVec.ofNat 2 (w / 8)))),
    (6, some (.amaxn (BitVec.ofNat 5 (w / 2097152)) (BitVec.ofNat 5 (w / 65536)) (BitVec.ofNat 5 (w / 2048)) (BitVec.ofNat 2 (w / 32)) (BitVec.ofNat 2 (w / 8)))),
    (7, some (.aand (BitVec.ofNat 5 (w / 2097152)) (BitVec.ofNat 5 (w / 65536)) (BitVec.ofNat 5 (w / 2048)) (BitVec.ofNat 2 (w / 32)) (BitVec.ofNat 2 (w / 8)))),
    (8, some (.aor (BitVec.ofNat 5 (w / 2097152)) (BitVec.ofNat 5 (w / 65536)) (BitVec.ofNat 5 (w / 2048)) (BitVec.ofNat 2 (w / 32)) (BitVec.ofNat 2 (w / 8)))),
    (9, some (.axor (BitVec.ofNat 5 (w / 2097152)) (BitVec.ofNat 5 (w / 65536)) (BitVec.ofNat 5 (w / 2048)) (BitVec.ofNat 2 (w / 32)) (BitVec.ofNat 2 (w / 8))))]

/-- Major 0x0D (Table 2.14). -/
def rawAmog (w : Nat) : Option Instr :=
  pick (w / 128 % 16) [
    (0, some (.aaddg (BitVec.ofNat 5 (w / 2097152)) (BitVec.ofNat 5 (w / 65536)) (BitVec.ofNat 5 (w / 2048)) (BitVec.ofNat 2 (w / 32)) (BitVec.ofNat 2 (w / 8)) (BitVec.ofNat 3 (w)))),
    (1, some (.aswapg (BitVec.ofNat 5 (w / 2097152)) (BitVec.ofNat 5 (w / 65536)) (BitVec.ofNat 5 (w / 2048)) (BitVec.ofNat 2 (w / 32)) (BitVec.ofNat 2 (w / 8)) (BitVec.ofNat 3 (w)))),
    (2, some (.acasg (BitVec.ofNat 5 (w / 2097152)) (BitVec.ofNat 5 (w / 65536)) (BitVec.ofNat 5 (w / 2048)) (BitVec.ofNat 2 (w / 32)) (BitVec.ofNat 2 (w / 8)) (BitVec.ofNat 3 (w)))),
    (3, some (.aminsg (BitVec.ofNat 5 (w / 2097152)) (BitVec.ofNat 5 (w / 65536)) (BitVec.ofNat 5 (w / 2048)) (BitVec.ofNat 2 (w / 32)) (BitVec.ofNat 2 (w / 8)) (BitVec.ofNat 3 (w)))),
    (4, some (.amaxsg (BitVec.ofNat 5 (w / 2097152)) (BitVec.ofNat 5 (w / 65536)) (BitVec.ofNat 5 (w / 2048)) (BitVec.ofNat 2 (w / 32)) (BitVec.ofNat 2 (w / 8)) (BitVec.ofNat 3 (w)))),
    (5, some (.aminng (BitVec.ofNat 5 (w / 2097152)) (BitVec.ofNat 5 (w / 65536)) (BitVec.ofNat 5 (w / 2048)) (BitVec.ofNat 2 (w / 32)) (BitVec.ofNat 2 (w / 8)) (BitVec.ofNat 3 (w)))),
    (6, some (.amaxng (BitVec.ofNat 5 (w / 2097152)) (BitVec.ofNat 5 (w / 65536)) (BitVec.ofNat 5 (w / 2048)) (BitVec.ofNat 2 (w / 32)) (BitVec.ofNat 2 (w / 8)) (BitVec.ofNat 3 (w)))),
    (7, some (.aandg (BitVec.ofNat 5 (w / 2097152)) (BitVec.ofNat 5 (w / 65536)) (BitVec.ofNat 5 (w / 2048)) (BitVec.ofNat 2 (w / 32)) (BitVec.ofNat 2 (w / 8)) (BitVec.ofNat 3 (w)))),
    (8, some (.aorg (BitVec.ofNat 5 (w / 2097152)) (BitVec.ofNat 5 (w / 65536)) (BitVec.ofNat 5 (w / 2048)) (BitVec.ofNat 2 (w / 32)) (BitVec.ofNat 2 (w / 8)) (BitVec.ofNat 3 (w)))),
    (9, some (.axorg (BitVec.ofNat 5 (w / 2097152)) (BitVec.ofNat 5 (w / 65536)) (BitVec.ofNat 5 (w / 2048)) (BitVec.ofNat 2 (w / 32)) (BitVec.ofNat 2 (w / 8)) (BitVec.ofNat 3 (w))))]

/-- Major 0x0E (Table 2.14). -/
def rawOrder (w : Nat) : Option Instr :=
  pick (w / 128 % 16) [
    (0, some (.fence (BitVec.ofNat 2 (w / 32)) (BitVec.ofNat 2 (w / 8)) (BitVec.ofNat 3 (w)))),
    (1, some (.acquire (BitVec.ofNat 5 (w / 65536)) (BitVec.ofNat 3 (w)))),
    (2, some (.release (BitVec.ofNat 5 (w / 65536)) (BitVec.ofNat 3 (w)))),
    (3, some (.sflush (BitVec.ofNat 5 (w / 65536)) (BitVec.ofNat 5 (w / 2048)))),
    (4, some (.sinval (BitVec.ofNat 5 (w / 65536)) (BitVec.ofNat 5 (w / 2048)))),
    (5, some (.sbind (BitVec.ofNat 5 (w / 2097152)) (BitVec.ofNat 5 (w / 65536)) (BitVec.ofNat 5 (w / 2048)))),
    (6, some (.sunbind (BitVec.ofNat 5 (w / 2097152)) (BitVec.ofNat 5 (w / 65536))))]

/-- Major 0x0F (Table 2.14). -/
def rawSpec (w : Nat) : Option Instr :=
  pick (w / 2048 % 32) [
    (0, if w % 2048 = 18 then some (.nflagRead (BitVec.ofNat 5 (w / 2097152))) else if w % 2048 / 4 = 5 then some (.linkRead (BitVec.ofNat 5 (w / 2097152)) (BitVec.ofNat 2 (w))) else some (.mfs (BitVec.ofNat 5 (w / 2097152)) (BitVec.ofNat 11 (w)))),
    (1, if w % 2048 = 16 then some (.hbtivWrite (BitVec.ofNat 5 (w / 65536))) else if w % 2048 / 4 = 6 then some (.linkWrite (BitVec.ofNat 5 (w / 65536)) (BitVec.ofNat 2 (w))) else if w % 2048 = 29 then some (.stashResize (BitVec.ofNat 5 (w / 65536))) else some (.mts (BitVec.ofNat 5 (w / 65536)) (BitVec.ofNat 11 (w))))]

/-- Major 0x10 (Table 2.14). -/
def rawVop (w : Nat) : Option Instr :=
  pick (w / 32 % 32) [
    (0, some (.vadd (BitVec.ofNat 3 (w / 8388608)) (BitVec.ofNat 3 (w / 1048576)) (BitVec.ofNat 3 (w / 131072)) (BitVec.ofNat 3 (w / 16384)) (BitVec.ofNat 4 (w / 1024)) (bit w 4) (bit w 3))),
    (1, some (.vsub (BitVec.ofNat 3 (w / 8388608)) (BitVec.ofNat 3 (w / 1048576)) (BitVec.ofNat 3 (w / 131072)) (BitVec.ofNat 3 (w / 16384)) (BitVec.ofNat 4 (w / 1024)) (bit w 4) (bit w 3))),
    (2, some (.vmul (BitVec.ofNat 3 (w / 8388608)) (BitVec.ofNat 3 (w / 1048576)) (BitVec.ofNat 3 (w / 131072)) (BitVec.ofNat 3 (w / 16384)) (BitVec.ofNat 4 (w / 1024)) (bit w 4) (bit w 3))),
    (3, some (.vfma (BitVec.ofNat 3 (w / 8388608)) (BitVec.ofNat 3 (w / 1048576)) (BitVec.ofNat 3 (w / 131072)) (BitVec.ofNat 3 (w / 16384)) (BitVec.ofNat 4 (w / 1024)) (bit w 4) (bit w 3))),
    (4, some (.vmin (BitVec.ofNat 3 (w / 8388608)) (BitVec.ofNat 3 (w / 1048576)) (BitVec.ofNat 3 (w / 131072)) (BitVec.ofNat 3 (w / 16384)) (BitVec.ofNat 4 (w / 1024)) (bit w 4) (bit w 3))),
    (5, some (.vmax (BitVec.ofNat 3 (w / 8388608)) (BitVec.ofNat 3 (w / 1048576)) (BitVec.ofNat 3 (w / 131072)) (BitVec.ofNat 3 (w / 16384)) (BitVec.ofNat 4 (w / 1024)) (bit w 4) (bit w 3))),
    (6, some (.vabs (BitVec.ofNat 3 (w / 8388608)) (BitVec.ofNat 3 (w / 1048576)) (BitVec.ofNat 3 (w / 16384)) (BitVec.ofNat 4 (w / 1024)) (bit w 4) (bit w 3))),
    (7, some (.vneg (BitVec.ofNat 3 (w / 8388608)) (BitVec.ofNat 3 (w / 1048576)) (BitVec.ofNat 3 (w / 16384)) (BitVec.ofNat 4 (w / 1024)) (bit w 4) (bit w 3))),
    (8, some (.vand (BitVec.ofNat 3 (w / 8388608)) (BitVec.ofNat 3 (w / 1048576)) (BitVec.ofNat 3 (w / 131072)) (BitVec.ofNat 3 (w / 16384)) (BitVec.ofNat 4 (w / 1024)) (bit w 4) (bit w 3))),
    (9, some (.vor (BitVec.ofNat 3 (w / 8388608)) (BitVec.ofNat 3 (w / 1048576)) (BitVec.ofNat 3 (w / 131072)) (BitVec.ofNat 3 (w / 16384)) (BitVec.ofNat 4 (w / 1024)) (bit w 4) (bit w 3))),
    (10, some (.vxor (BitVec.ofNat 3 (w / 8388608)) (BitVec.ofNat 3 (w / 1048576)) (BitVec.ofNat 3 (w / 131072)) (BitVec.ofNat 3 (w / 16384)) (BitVec.ofNat 4 (w / 1024)) (bit w 4) (bit w 3))),
    (11, some (.vshl (BitVec.ofNat 3 (w / 8388608)) (BitVec.ofNat 3 (w / 1048576)) (BitVec.ofNat 3 (w / 131072)) (BitVec.ofNat 3 (w / 16384)) (BitVec.ofNat 4 (w / 1024)) (bit w 4) (bit w 3))),
    (12, some (.vshr (BitVec.ofNat 3 (w / 8388608)) (BitVec.ofNat 3 (w / 1048576)) (BitVec.ofNat 3 (w / 131072)) (BitVec.ofNat 3 (w / 16384)) (BitVec.ofNat 4 (w / 1024)) (bit w 4) (bit w 3))),
    (13, some (.vsra (BitVec.ofNat 3 (w / 8388608)) (BitVec.ofNat 3 (w / 1048576)) (BitVec.ofNat 3 (w / 131072)) (BitVec.ofNat 3 (w / 16384)) (BitVec.ofNat 4 (w / 1024)) (bit w 4) (bit w 3))),
    (14, some (.vcvt (BitVec.ofNat 3 (w / 8388608)) (BitVec.ofNat 3 (w / 1048576)) (BitVec.ofNat 3 (w / 131072)) (BitVec.ofNat 3 (w / 16384)) (BitVec.ofNat 4 (w / 1024)) (bit w 4) (bit w 3) (bit w 2) (bit w 1))),
    (15, some (.vrcp (BitVec.ofNat 3 (w / 8388608)) (BitVec.ofNat 3 (w / 1048576)) (BitVec.ofNat 3 (w / 16384)) (BitVec.ofNat 4 (w / 1024)) (bit w 4) (bit w 3))),
    (16, some (.vrsq (BitVec.ofNat 3 (w / 8388608)) (BitVec.ofNat 3 (w / 1048576)) (BitVec.ofNat 3 (w / 16384)) (BitVec.ofNat 4 (w / 1024)) (bit w 4) (bit w 3))),
    (17, some (.vexp2 (BitVec.ofNat 3 (w / 8388608)) (BitVec.ofNat 3 (w / 1048576)) (BitVec.ofNat 3 (w / 16384)) (BitVec.ofNat 4 (w / 1024)) (bit w 4) (bit w 3))),
    (18, some (.vlog2 (BitVec.ofNat 3 (w / 8388608)) (BitVec.ofNat 3 (w / 1048576)) (BitVec.ofNat 3 (w / 16384)) (BitVec.ofNat 4 (w / 1024)) (bit w 4) (bit w 3))),
    (19, some (.vsel (BitVec.ofNat 3 (w / 8388608)) (BitVec.ofNat 3 (w / 1048576)) (BitVec.ofNat 3 (w / 131072)) (BitVec.ofNat 3 (w / 16384)) (BitVec.ofNat 4 (w / 1024)) (bit w 4))),
    (20, some (.vmov (BitVec.ofNat 3 (w / 8388608)) (BitVec.ofNat 3 (w / 1048576)) (BitVec.ofNat 3 (w / 16384)) (BitVec.ofNat 4 (w / 1024)) (bit w 4) (bit w 3))),
    (21, some (.vsplat (BitVec.ofNat 3 (w / 8388608)) (BitVec.ofNat 3 (w / 16384)) (BitVec.ofNat 4 (w / 1024)) (bit w 4) (bit w 3))),
    (22, some (.vclamp (BitVec.ofNat 3 (w / 8388608)) (BitVec.ofNat 3 (w / 1048576)) (BitVec.ofNat 3 (w / 16384)) (BitVec.ofNat 4 (w / 1024)) (bit w 4) (bit w 3))),
    (23, some (.vadds (BitVec.ofNat 3 (w / 8388608)) (BitVec.ofNat 3 (w / 1048576)) (BitVec.ofNat 3 (w / 131072)) (BitVec.ofNat 3 (w / 16384)) (BitVec.ofNat 4 (w / 1024)) (bit w 4) (bit w 3))),
    (24, some (.vsubs (BitVec.ofNat 3 (w / 8388608)) (BitVec.ofNat 3 (w / 1048576)) (BitVec.ofNat 3 (w / 131072)) (BitVec.ofNat 3 (w / 16384)) (BitVec.ofNat 4 (w / 1024)) (bit w 4) (bit w 3))),
    (25, some (.vmulh (BitVec.ofNat 3 (w / 8388608)) (BitVec.ofNat 3 (w / 1048576)) (BitVec.ofNat 3 (w / 131072)) (BitVec.ofNat 3 (w / 16384)) (BitVec.ofNat 4 (w / 1024)) (bit w 4) (bit w 3)))]

/-- Major 0x11 (Table 2.14). -/
def rawVcmp (w : Nat) : Option Instr :=
  pick (w / 32 % 32) [
    (0, some (.vceq (BitVec.ofNat 3 (w / 8388608)) (BitVec.ofNat 3 (w / 1048576)) (BitVec.ofNat 3 (w / 131072)) (BitVec.ofNat 3 (w / 16384)) (BitVec.ofNat 4 (w / 1024)) (bit w 4) (bit w 3))),
    (1, some (.vcne (BitVec.ofNat 3 (w / 8388608)) (BitVec.ofNat 3 (w / 1048576)) (BitVec.ofNat 3 (w / 131072)) (BitVec.ofNat 3 (w / 16384)) (BitVec.ofNat 4 (w / 1024)) (bit w 4) (bit w 3))),
    (2, some (.vclt (BitVec.ofNat 3 (w / 8388608)) (BitVec.ofNat 3 (w / 1048576)) (BitVec.ofNat 3 (w / 131072)) (BitVec.ofNat 3 (w / 16384)) (BitVec.ofNat 4 (w / 1024)) (bit w 4) (bit w 3))),
    (3, some (.vcle (BitVec.ofNat 3 (w / 8388608)) (BitVec.ofNat 3 (w / 1048576)) (BitVec.ofNat 3 (w / 131072)) (BitVec.ofNat 3 (w / 16384)) (BitVec.ofNat 4 (w / 1024)) (bit w 4) (bit w 3))),
    (4, some (.vcgt (BitVec.ofNat 3 (w / 8388608)) (BitVec.ofNat 3 (w / 1048576)) (BitVec.ofNat 3 (w / 131072)) (BitVec.ofNat 3 (w / 16384)) (BitVec.ofNat 4 (w / 1024)) (bit w 4) (bit w 3))),
    (5, some (.vcge (BitVec.ofNat 3 (w / 8388608)) (BitVec.ofNat 3 (w / 1048576)) (BitVec.ofNat 3 (w / 131072)) (BitVec.ofNat 3 (w / 16384)) (BitVec.ofNat 4 (w / 1024)) (bit w 4) (bit w 3))),
    (6, some (.vcun (BitVec.ofNat 3 (w / 8388608)) (BitVec.ofNat 3 (w / 1048576)) (BitVec.ofNat 3 (w / 131072)) (BitVec.ofNat 3 (w / 16384)) (BitVec.ofNat 4 (w / 1024)) (bit w 4) (bit w 3)))]

/-- Major 0x12 (Table 2.14). -/
def rawVxf (w : Nat) : Option Instr :=
  pick (w / 32 % 32) [
    (0, some (.vred (BitVec.ofNat 3 (w / 1048576)) (BitVec.ofNat 3 (w / 16384)) (BitVec.ofNat 4 (w / 1024)) (bit w 4) (BitVec.ofNat 3 (w)))),
    (1, some (.vperm (BitVec.ofNat 3 (w / 8388608)) (BitVec.ofNat 3 (w / 1048576)) (BitVec.ofNat 3 (w / 131072)) (BitVec.ofNat 3 (w / 16384)) (BitVec.ofNat 4 (w / 1024)) (bit w 4) (bit w 3))),
    (2, some (.vgath (BitVec.ofNat 3 (w / 8388608)) (BitVec.ofNat 3 (w / 1048576)) (BitVec.ofNat 3 (w / 131072)) (BitVec.ofNat 3 (w / 16384)) (BitVec.ofNat 4 (w / 1024)) (bit w 4) (bit w 3))),
    (3, some (.vscat (BitVec.ofNat 3 (w / 8388608)) (BitVec.ofNat 3 (w / 1048576)) (BitVec.ofNat 3 (w / 131072)) (BitVec.ofNat 3 (w / 16384)) (BitVec.ofNat 4 (w / 1024)) (bit w 4))),
    (4, some (.vcomp (BitVec.ofNat 3 (w / 8388608)) (BitVec.ofNat 3 (w / 1048576)) (BitVec.ofNat 3 (w / 16384)) (BitVec.ofNat 4 (w / 1024)) (bit w 4) (bit w 3) (bit w 0))),
    (5, some (.vpref (BitVec.ofNat 3 (w))))]

/-- Major 0x13 (Table 2.14). -/
def rawMask (w : Nat) : Option Instr :=
  pick (w / 32 % 32) [
    (0, some (.mand (BitVec.ofNat 5 (w / 2097152)) (BitVec.ofNat 5 (w / 65536)) (BitVec.ofNat 5 (w / 2048)))),
    (1, some (.mor (BitVec.ofNat 5 (w / 2097152)) (BitVec.ofNat 5 (w / 65536)) (BitVec.ofNat 5 (w / 2048)))),
    (2, some (.mxor (BitVec.ofNat 5 (w / 2097152)) (BitVec.ofNat 5 (w / 65536)) (BitVec.ofNat 5 (w / 2048)))),
    (3, some (.mnot (BitVec.ofNat 5 (w / 2097152)) (BitVec.ofNat 5 (w / 65536)))),
    (4, some (.mpop (BitVec.ofNat 5 (w / 65536)))),
    (5, some (.many (BitVec.ofNat 5 (w / 65536)))),
    (6, some (.mall (BitVec.ofNat 5 (w / 65536)))),
    (7, some (.mset (BitVec.ofNat 5 (w / 2097152)) (BitVec.ofNat 5 (w / 65536)) (bit w 10))),
    (8, some (.mget (BitVec.ofNat 5 (w / 65536))))]

/-- Major 0x14 (Table 2.14). -/
def rawPtr (w : Nat) : Option Instr :=
  pick (w / 32 % 32) [
    (0, some (.pset (BitVec.ofNat 5 (w / 2097152)) (BitVec.ofNat 5 (w / 65536)) (BitVec.ofNat 5 (w / 2048)) (bit w 10))),
    (1, some (.pget (BitVec.ofNat 5 (w / 2097152)) (BitVec.ofNat 5 (w / 65536)))),
    (2, some (.padd (BitVec.ofNat 5 (w / 2097152)) (BitVec.ofNat 5 (w / 65536)) (bit w 10))),
    (3, some (.pstep (BitVec.ofNat 5 (w / 2097152)) (BitVec.ofNat 5 (w / 65536)) (bit w 10)))]

/-- Major 0x15 (Table 2.14). -/
def rawQue (w : Nat) : Option Instr :=
  pick (w / 32 % 32) [
    (0, some (.qpush (BitVec.ofNat 5 (w / 65536)) (bit w 10))),
    (1, some (.qpop (BitVec.ofNat 5 (w / 2097152)))),
    (2, some (.qcnt (BitVec.ofNat 5 (w / 2097152))))]

/-- Major 0x16 (Table 2.14). -/
def rawTdt (w : Nat) : Option Instr :=
  pick (w % 32) [
    (0, some (.tdset (BitVec.ofNat 5 (w / 2097152)) (BitVec.ofNat 5 (w / 2048)))),
    (1, some (.tdget (BitVec.ofNat 5 (w / 2097152)) (BitVec.ofNat 5 (w / 2048)))),
    (2, some (.tdstate (BitVec.ofNat 5 (w / 2097152)) (BitVec.ofNat 5 (w / 2048)))),
    (3, some (.tdbind (BitVec.ofNat 5 (w / 2097152)) (BitVec.ofNat 5 (w / 2048)))),
    (4, some (.tddrop (BitVec.ofNat 5 (w / 2097152))))]

/-- Major 0x17 (Table 2.14). -/
def rawGuard (w : Nat) : Option Instr :=
  pick (w % 32) [
    (0, some (.gdclr (BitVec.ofNat 3 (w / 32)))),
    (1, some (.gdset (BitVec.ofNat 5 (w / 2048)) (BitVec.ofNat 3 (w / 32)))),
    (2, some (.gdwait (BitVec.ofNat 5 (w / 2048)) (BitVec.ofNat 3 (w / 32))))]

/-- Major 0x18 (Table 2.14). -/
def rawToken (w : Nat) : Option Instr :=
  pick (w / 2048 % 32) [
    (0, some (.twait (bit w 9) (bit w 8) (BitVec.ofNat 8 (w)))),
    (1, some (.ttest (BitVec.ofNat 5 (w / 2097152)))),
    (2, some (.tclr (BitVec.ofNat 8 (w))))]

/-- Major 0x19 (Table 2.14). -/
def rawBar (w : Nat) : Option Instr :=
  pick (w / 32 % 32) [
    (0, some (.barinit (BitVec.ofNat 5 (w / 65536)) (BitVec.ofNat 5 (w / 2048)))),
    (1, some (.barexp (BitVec.ofNat 5 (w / 65536)) (BitVec.ofNat 5 (w / 2048)))),
    (2, some (.barwait (BitVec.ofNat 5 (w / 2097152)) (BitVec.ofNat 5 (w / 65536)) (bit w 0))),
    (3, some (.bartest (BitVec.ofNat 5 (w / 2097152)) (BitVec.ofNat 5 (w / 65536)))),
    (4, some (.baradd (BitVec.ofNat 5 (w / 65536)) (BitVec.ofNat 5 (w / 2048))))]

/-- Major 0x1A (Table 2.14). -/
def rawPush (w : Nat) : Option Instr :=
  pick (w % 32) [
    (0, some (.push (BitVec.ofNat 5 (w / 2097152)) (bit w 16) (BitVec.ofNat 5 (w / 2048)) (BitVec.ofNat 3 (w / 256)) (BitVec.ofNat 3 (w / 32)))),
    (1, some (.pushg (BitVec.ofNat 5 (w / 2097152)) (bit w 16) (BitVec.ofNat 5 (w / 2048)) (BitVec.ofNat 3 (w / 256)) (BitVec.ofNat 3 (w / 32)))),
    (2, some (.pushs (BitVec.ofNat 5 (w / 2097152)) (bit w 16) (BitVec.ofNat 5 (w / 2048)) (BitVec.ofNat 3 (w / 256)) (BitVec.ofNat 3 (w / 32)))),
    (3, some (.pushl (BitVec.ofNat 5 (w / 2097152)) (bit w 16) (BitVec.ofNat 5 (w / 2048)) (BitVec.ofNat 3 (w / 256)) (BitVec.ofNat 3 (w / 32))))]

/-- Major 0x1B (Table 2.14). -/
def rawSnd (w : Nat) : Option Instr :=
  pick (w % 32) [
    (0, some (.sndo (BitVec.ofNat 5 (w / 2097152)) (BitVec.ofNat 5 (w / 65536)) (BitVec.ofNat 3 (w / 256)) (BitVec.ofNat 2 (w / 64)) (bit w 5))),
    (1, some (.sndw (BitVec.ofNat 5 (w / 2097152)) (bit w 5))),
    (2, some (.snde)),
    (3, some (.rpost (BitVec.ofNat 5 (w / 2097152)) (BitVec.ofNat 5 (w / 65536)) (BitVec.ofNat 5 (w / 2048)) (BitVec.ofNat 3 (w / 256)) (BitVec.ofNat 2 (w / 64))))]

/-- Major 0x1C (Table 2.14). -/
def rawMbx (w : Nat) : Option Instr :=
  pick (w / 2048 % 32) [
    (0, pick (w % 2) [(0, some (.mbpop (BitVec.ofNat 5 (w / 2097152)) (BitVec.ofNat 5 (w / 65536)))), (1, some (.mbpopSpill (BitVec.ofNat 5 (w / 2097152)) (BitVec.ofNat 5 (w / 65536))))]),
    (1, some (.mbpeek (BitVec.ofNat 5 (w / 2097152)) (BitVec.ofNat 5 (w / 65536)))),
    (2, some (.mbcnt (BitVec.ofNat 5 (w / 2097152)) (BitVec.ofNat 5 (w / 65536)))),
    (3, some (.lbk (BitVec.ofNat 5 (w / 2097152)) (BitVec.ofNat 5 (w / 65536))))]

/-- Major 0x1D (Table 2.14). -/
def rawGrp (w : Nat) : Option Instr :=
  pick (w / 2048 % 32) [
    (0, some (.grpbar (BitVec.ofNat 5 (w / 2097152)) (BitVec.ofNat 5 (w / 65536)) (bit w 0))),
    (1, some (.grpinfo (BitVec.ofNat 5 (w / 2097152)) (BitVec.ofNat 5 (w / 65536))))]

/-- Major 0x1E (Table 2.14). -/
def rawCtx (w : Nat) : Option Instr :=
  pick (w / 2048 % 32) [
    (0, some (.hstart (BitVec.ofNat 5 (w / 2097152)) (BitVec.ofNat 5 (w / 65536)) (BitVec.ofNat 3 (w / 256)) (BitVec.ofNat 5 (w / 8)))),
    (1, some (.hjoin (BitVec.ofNat 5 (w / 2097152)) (BitVec.ofNat 5 (w / 65536)))),
    (2, some (.endCtx)),
    (3, some (.yieldSlot)),
    (4, some (.wfe (BitVec.ofNat 5 (w / 2097152)) (BitVec.ofNat 5 (w / 65536)) (bit w 0))),
    (5, some (.hkill (BitVec.ofNat 5 (w / 2097152)) (BitVec.ofNat 5 (w / 65536)))),
    (6, some (.hbt))]

/-- Major 0x1F (Table 2.14). -/
def rawTask (w : Nat) : Option Instr :=
  pick (w / 2048 % 32) [
    (0, some (.post (BitVec.ofNat 5 (w / 2097152)) (BitVec.ofNat 5 (w / 65536)))),
    (1, some (.tkey (BitVec.ofNat 5 (w / 2097152)) (BitVec.ofNat 5 (w / 65536)) (bit w 0)))]

/-- Major 0x20 (Table 2.14). -/
def rawStrm (w : Nat) : Option Instr :=
  pick (w / 2048 % 32) [
    (0, some (.sstart (BitVec.ofNat 5 (w / 2097152)) (BitVec.ofNat 5 (w / 65536)) (bit w 4) (BitVec.ofNat 4 (w)))),
    (1, some (.sstop (BitVec.ofNat 5 (w / 2097152)) (BitVec.ofNat 5 (w / 65536)) (bit w 4))),
    (2, some (.detach (BitVec.ofNat 5 (w / 2097152)) (BitVec.ofNat 5 (w / 65536)))),
    (3, some (.join (BitVec.ofNat 5 (w / 65536)) (bit w 0)))]

/-- Major 0x21 (Table 2.14). -/
def rawGang (w : Nat) : Option Instr := some (.gang (BitVec.ofNat 5 (w / 2097152)) (bit w 8) (BitVec.ofNat 8 (w)))

/-- Major 0x22 (Table 2.14). -/
def rawMtx (w : Nat) : Option Instr :=
  pick (w % 32) [
    (0, some (.mma (BitVec.ofNat 5 (w / 2097152)) (bit w 18) (bit w 17) (bit w 16) (BitVec.ofNat 5 (w / 2048)) (BitVec.ofNat 3 (w / 256)) (BitVec.ofNat 3 (w / 32)))),
    (1, some (.mmag (BitVec.ofNat 5 (w / 2097152)) (bit w 18) (bit w 17) (bit w 16) (BitVec.ofNat 5 (w / 2048)) (BitVec.ofNat 3 (w / 256)) (BitVec.ofNat 3 (w / 32)))),
    (2, some (.mzero (bit w 17) (BitVec.ofNat 3 (w / 256)) (BitVec.ofNat 3 (w / 32)))),
    (3, some (.mdrain (BitVec.ofNat 5 (w / 2097152)) (bit w 17) (BitVec.ofNat 5 (w / 2048)) (BitVec.ofNat 3 (w / 256)) (BitVec.ofNat 3 (w / 32)))),
    (4, some (.mldb (BitVec.ofNat 5 (w / 2097152)) (BitVec.ofNat 3 (w / 256)) (BitVec.ofNat 3 (w / 32)))),
    (5, some (.mprog (bit w 16) (BitVec.ofNat 5 (w / 2048)) (BitVec.ofNat 3 (w / 256)) (BitVec.ofNat 3 (w / 32)))),
    (6, some (.mchk (bit w 17) (BitVec.ofNat 3 (w / 256)) (BitVec.ofNat 3 (w / 32))))]

/-- Major 0x23 (Table 2.14). -/
def rawGau (w : Nat) : Option Instr :=
  pick (w % 32) [
    (0, some (.gacc (BitVec.ofNat 3 (w / 8388608)) (BitVec.ofNat 3 (w / 1048576)) (BitVec.ofNat 3 (w / 131072)) (BitVec.ofNat 6 (w / 2048)) (BitVec.ofNat 3 (w / 256)) (BitVec.ofNat 3 (w / 32)))),
    (1, some (.gsub (BitVec.ofNat 3 (w / 8388608)) (BitVec.ofNat 3 (w / 1048576)) (BitVec.ofNat 3 (w / 131072)) (BitVec.ofNat 6 (w / 2048)) (BitVec.ofNat 3 (w / 256)) (BitVec.ofNat 3 (w / 32)))),
    (2, some (.gelim (BitVec.ofNat 3 (w / 8388608)) (BitVec.ofNat 3 (w / 1048576)) (BitVec.ofNat 3 (w / 16384)) (BitVec.ofNat 3 (w / 2048)) (BitVec.ofNat 3 (w / 256)) (BitVec.ofNat 3 (w / 32)))),
    (3, some (.gdamp (BitVec.ofNat 3 (w / 8388608)) (BitVec.ofNat 3 (w / 1048576)) (BitVec.ofNat 3 (w / 131072)) (BitVec.ofNat 6 (w / 2048)) (BitVec.ofNat 3 (w / 256)) (BitVec.ofNat 3 (w / 32)))),
    (4, some (.gmean (BitVec.ofNat 3 (w / 8388608)) (BitVec.ofNat 3 (w / 1048576)) (BitVec.ofNat 6 (w / 2048)) (BitVec.ofNat 3 (w / 256)) (BitVec.ofNat 3 (w / 32)))),
    (5, some (.gresid (BitVec.ofNat 3 (w / 1048576)) (BitVec.ofNat 3 (w / 131072)) (BitVec.ofNat 6 (w / 2048)) (BitVec.ofNat 3 (w / 256)) (BitVec.ofNat 3 (w / 32)))),
    (6, some (.greg (BitVec.ofNat 3 (w / 8388608)) (BitVec.ofNat 3 (w / 1048576)) (BitVec.ofNat 6 (w / 2048)) (BitVec.ofNat 3 (w / 256)) (BitVec.ofNat 3 (w / 32)))),
    (7, some (.gsend (BitVec.ofNat 3 (w / 1048576)) (BitVec.ofNat 6 (w / 2048)) (BitVec.ofNat 3 (w / 256)) (BitVec.ofNat 3 (w / 32)))),
    (8, some (.gcopy (BitVec.ofNat 3 (w / 8388608)) (BitVec.ofNat 3 (w / 1048576)) (BitVec.ofNat 6 (w / 2048)) (BitVec.ofNat 3 (w / 256)) (BitVec.ofNat 3 (w / 32))))]

/-- Major 0x24 (Table 2.14). -/
def rawTerr (w : Nat) : Option Instr :=
  pick (w / 2048 % 32) [
    (0, some (.tshape (BitVec.ofNat 5 (w / 2097152)) (BitVec.ofNat 5 (w / 65536)))),
    (1, some (.tfreeze (BitVec.ofNat 5 (w / 2097152)) (BitVec.ofNat 5 (w / 65536)) (bit w 0))),
    (2, some (.tthaw (BitVec.ofNat 5 (w / 2097152)) (BitVec.ofNat 5 (w / 65536)) (bit w 0))),
    (3, pick (w % 2) [(0, some (.upret)), (1, some (.upretYield))]),
    (4, pick (w % 8) [(0, some (.press (BitVec.ofNat 5 (w / 2097152)))), (1, some (.pressNb (BitVec.ofNat 5 (w / 2097152)) (BitVec.ofNat 5 (w / 65536)))), (2, some (.pressCfg (BitVec.ofNat 5 (w / 2097152)))), (3, some (.pressSet (BitVec.ofNat 5 (w / 65536))))])]

/-- Major 0x25 (Table 2.14). -/
def rawSys (w : Nat) : Option Instr :=
  pick (w / 2048 % 32) [
    (0, some (.trap (BitVec.ofNat 11 (w)))),
    (1, some (.eret)),
    (2, some (.halt)),
    (3, some (.tinvb (BitVec.ofNat 5 (w / 2097152)) (BitVec.ofNat 5 (w / 65536)) (BitVec.ofNat 2 (w)))),
    (4, some (.scrub (BitVec.ofNat 5 (w / 2097152)) (BitVec.ofNat 5 (w / 65536)) (BitVec.ofNat 2 (w)))),
    (5, some (.tailrd (BitVec.ofNat 5 (w / 2097152)) (BitVec.ofNat 5 (w / 65536)) (bit w 0))),
    (6, some (.isync))]

/-- Major 0x30 (Table 2.14). -/
def rawHimm (w : Nat) : Option Instr := some (.himm (BitVec.ofNat 26 (w)))

/-- Major 0x31 (Table 2.14). -/
def rawHwait (w : Nat) : Option Instr := some (.hwait (bit w 9) (bit w 8) (BitVec.ofNat 8 (w)))

/-- Major 0x32 (Table 2.14). -/
def rawHcache (w : Nat) : Option Instr := some (.hcache (BitVec.ofNat 2 (w / 16)) (BitVec.ofNat 2 (w / 4)) (BitVec.ofNat 2 (w)))

/-- Major 0x33 (Table 2.14). -/
def rawHsched (w : Nat) : Option Instr := some (.hsched (bit w 3) (BitVec.ofNat 3 (w)))

/-- The instruction that a word's major and function select, its operand fields taken from their places; reserved fields unchecked. -/
def rawDecode (w : Nat) : Option Instr :=
  pick (w / 67108864) [
    (0, rawAlu w),
    (1, rawAlui w),
    (2, rawBr w),
    (3, rawJmp w),
    (4, rawCall w),
    (5, rawJreg w),
    (6, rawRep w),
    (7, rawRpb w),
    (8, rawLd w),
    (9, rawSt w),
    (10, rawLdg w),
    (11, rawStg w),
    (12, rawAmo w),
    (13, rawAmog w),
    (14, rawOrder w),
    (15, rawSpec w),
    (16, rawVop w),
    (17, rawVcmp w),
    (18, rawVxf w),
    (19, rawMask w),
    (20, rawPtr w),
    (21, rawQue w),
    (22, rawTdt w),
    (23, rawGuard w),
    (24, rawToken w),
    (25, rawBar w),
    (26, rawPush w),
    (27, rawSnd w),
    (28, rawMbx w),
    (29, rawGrp w),
    (30, rawCtx w),
    (31, rawTask w),
    (32, rawStrm w),
    (33, rawGang w),
    (34, rawMtx w),
    (35, rawGau w),
    (36, rawTerr w),
    (37, rawSys w),
    (48, rawHimm w),
    (49, rawHwait w),
    (50, rawHcache w),
    (51, rawHsched w)]

/-- The instruction of a word (R43), or none (R56). -/
def decode (w : BitVec 32) : Option Instr :=
  match rawDecode w.toNat with
  | some i => if encode i = some w then some i else none
  | none => none

/-- Every word means something to a context that issues it: an instruction, or a word that traps ILLEGAL_OP (R56). -/
def decodeOr (w : BitVec 32) : Instr := (decode w).getD (.illegalWord w)

/-- Four bytes, lowest address first (R3), as a word; none when there are fewer. -/
def wordOfBytes : List Byte → Option (BitVec 32)
  | a :: b :: c :: d :: _ => some (d ++ c ++ b ++ a)
  | _ => none

/-- The bytes of a word, lowest address first (R3). -/
def bytesOfWord (w : BitVec 32) : List Byte :=
  [w.extractLsb' 0 8, w.extractLsb' 8 8, w.extractLsb' 16 8, w.extractLsb' 24 8]

/-- The decoder on bytes: total, and none where it refuses. -/
def decodeBytes (bs : List Byte) : Option Instr := (wordOfBytes bs).bind decode

/-- The instruction whose bits are `w`, as the opcode table numbers them: one 32-bit word, stored little-endian (R33). -/
def decodeTableWord (_nbits w : Nat) : Option Instr := decodeBytes (bytesOfWord (BitVec.ofNat 32 w))

end Sys2Proof
end

