-- ==== Sys2Proof/Machine/CtxState.lean ====
section
/-! DEFINITION. What one context owns (R85, Table 5.1) and the pieces it is made of. -/

namespace Sys2Proof.Machine

/-- A sparse table: keys with their entries. -/
abbrev KMap (α : Type) := List (Nat × α)

/-- A byte memory: the listed cells; an unlisted address reads as 0 (`Memory.get` in Ops.lean). -/
abbrev Memory := List Host.Cell

/-- The privilege levels (R55). -/
inductive Level where
  | u
  | t
  | s
  deriving DecidableEq, Repr

/-- Where a context's words come from (R33, R234, R235). -/
inductive Mode where
  /-- Local mode: the core's instruction store. -/
  | loc
  /-- Streamed mode: the cluster stream. -/
  | streamed
  /-- Parked in JOIN until the stream word of this index is in the buffer (R235). -/
  | joining (n : Nat)
  deriving DecidableEq, Repr

/-- A pointer register (R152): a 20-bit local address and a signed 16-bit step. -/
structure PtrReg where
  addr : BitVec 20
  step : BitVec 16
  deriving DecidableEq, Repr

/-- A guard slot (R181). -/
inductive GuardSt where
  | unresolved
  | yes
  | no
  deriving DecidableEq, Repr

/-- The state of a token (R183), with the codes of Table 5.5. -/
inductive TokSt where
  | idle
  | busy
  | done
  | fault
  | dropped
  deriving DecidableEq, Repr

/-- A token (R183): its state, the commands outstanding on it, and the record kept since it was last armed from rest: the cause of
the first command that faulted, and whether some command was not discarded. -/
structure Tok where
  st : TokSt
  count : Nat
  cause : Option (BitVec 8)
  kept : Bool
  deriving DecidableEq, Repr

/-- The hint latch (R45, Table 2.18) with its immediate bits (Table 2.19). -/
structure Latch where
  /-- HIMM words latched, 0 to 2. -/
  imx : Nat
  mid : BitVec 26
  hi : BitVec 26
  wait : Option (BitVec 10)
  cache : Option (BitVec 6)
  sched : Option (BitVec 4)
  /-- The low 20 bits as HLATCH was written: they read back in the payload field of a hint that is not latched. -/
  pad : BitVec 20
  deriving DecidableEq, Repr

/-- Why a context waits (R127): the reason is for the reader, for the burner (R104) and for the events that end a wait. -/
inductive Wait where
  /-- An empty g register (R87). -/
  | reg (r : Reg)
  /-- Tokens (R47, R185, R183); `idle` holds the burner. -/
  | tokens (idle : Bool)
  /-- An armed barrier object (R188). -/
  | barrier (idle : Bool)
  /-- The event bit (R100), with the time at which the wait ends, if any. -/
  | event (idle : Bool) (deadline : Option Nat)
  /-- QW without an entry, or QS full (R176). -/
  | queue
  /-- An engine queue without room (R173). -/
  | engine
  /-- A descriptor that is filling, draining or named by an outstanding command (R179, R180). -/
  | desc
  /-- A guard slot (R182). -/
  | guard
  /-- A global access, a write-back, or a translation in progress (R139, R143, R310). -/
  | memory
  /-- The wide side (R132, R143). -/
  | wide
  /-- A child's drain (R100). -/
  | child (k : Nat)
  /-- The repetition sequencer (R196). -/
  | sequencer
  /-- A link register (R230, R231). -/
  | link
  /-- A group barrier (R280). -/
  | group (idle : Bool)
  /-- A bridle (R238). -/
  | bridle (idle : Bool)
  /-- A stream index (R235). -/
  | stream (idle : Bool)
  /-- A retirement-tracker entry (R97), or a mailbox, a post or another unit that answers later. -/
  | unit
  deriving DecidableEq, Repr

/-- Why a context is stopped (R381). -/
inductive StopWhy where
  /-- Stopped by R92. -/
  | saved
  /-- Context 0 or the ballonet parked after a fault (R90). -/
  | faulted
  /-- HALT or die reset (R124, R328). -/
  | halted
  /-- A helper that waits for a physical slot (R94). -/
  | slot
  /-- HKILL waits for the helper's started commands (R100). -/
  | killed
  deriving DecidableEq, Repr

/-- What a live context is doing (R381). -/
inductive RunSt where
  | running
  | parked (w : Wait)
  | stopped (y : StopWhy)
  deriving DecidableEq, Repr

/-- The answer to a context's outstanding access: the bytes, whether a word was poisoned, or the cause of the refusal. -/
structure Ans where
  val : Nat
  poison : Bool
  cause : Option (BitVec 8)
  deriving DecidableEq, Repr

/-- A synchronous access in progress (R139): how far it has gone, the request it waits for, and the answer once it is there. -/
structure Acc where
  phase : Nat
  uid : Nat
  ans : Option Ans
  deriving DecidableEq, Repr

/-- An LDG or AMOG under way while its context runs on (R139): the instruction with its virtual address, where and how it issued, its
destination, the request it waits for, and its answer once it has failed. `lost` when a later instruction has written the destination. -/
structure Load where
  instr : Instr
  va : Word
  pc : Nat
  streamed : Bool
  latch : Latch
  rd : Reg
  phase : Nat
  uid : Nat
  ans : Option Ans
  lost : Bool
  deriving DecidableEq, Repr

/-- An entry of QW (R175): the command that claimed it, and its value and poison once delivered. -/
structure QwSlot where
  uid : Nat
  val : Option (Word × Bool)
  deriving DecidableEq, Repr

/-- An open packet (R194): destination, header, token, channel, words so far, and where and when SNDO opened it. -/
structure Pkt where
  dest : Word
  hdr : Word
  tok : Slot
  vc : BitVec 2
  words : List Word
  openedAt : Nat
  pc : Nat
  uid : Nat
  deriving DecidableEq, Repr

/-- A repetition in progress (R117): the target word, the slots and step, the count and the repetition to run. -/
structure RepSt where
  word : BitVec 32
  smask : BitVec 5
  step : Nat
  rd : Reg
  n : Nat
  i : Nat
  deriving DecidableEq, Repr

/-- The special registers that a context owns (R85) and the fields of ESTAT that an entry sets (Table 5.3). -/
structure Spr where
  epc : Word
  ecause : BitVec 8
  eval : Word
  plev : Level
  str : Bool
  upc : Bool
  inh : Bool
  hlatch : Latch
  nflag : BitVec 6
  /-- Only vector commands from this uid on set NFLAG: the point of the last MTS (R24). -/
  nflagFrom : Nat
  gthr : Half
  hbtiv : BitVec 32
  tvec : BitVec 15
  tinfo : BitVec 8
  /-- The upcall record (R91): the delivered cause less 0x20. -/
  upcall : BitVec 2
  deriving DecidableEq, Repr

/-- What a context knows of the task it runs (R273, R275, R278); a helper that HSTART started keeps its parent's, not as its own. -/
structure TaskInfo where
  /-- The helper was started from the record. -/
  own : Bool
  /-- The record's bytes (Table 15.1). -/
  rec_ : List Byte
  /-- Its queue; none for a helper whose save entry was not written here. -/
  queue : Option Nat
  /-- The pair's outputs have differed, and it is being killed (R278). -/
  diverged : Bool
  /-- The other context of a pair (R278), and whether this one trails. -/
  pair : Option (Nat × Bool)
  /-- Energy charged at start (R276). -/
  charged : Nat
  /-- The core that its record was pinned to (R215). -/
  pin : Option Nat
  deriving DecidableEq, Repr

/-- One context (R85, Table 5.1). -/
structure Ctx where
  g : Vector Word 32
  /-- The full bits (R87). -/
  full : BitVec 32
  /-- Registers whose parity is bad (R149). -/
  bad : BitVec 32
  p : Vector PtrReg 8
  m : Vector (BitVec 16) 8
  /-- Poisoned masks (R170). -/
  mbad : BitVec 8
  c : Vector GuardSt 8
  t : Vector Tok 8
  pc : Nat
  mode : Mode
  latch : Latch
  qs : List Word
  /-- QS entries whose parity is bad (R317), the head at bit 0. -/
  qsBad : BitVec 8
  qw : List QwSlot
  spr : Spr
  event : Bool
  level : Level
  run : RunSt
  /-- The context that started this helper (R95). -/
  parent : Option Nat
  pkt : Option Pkt
  rep : Option RepSt
  acc : Option Acc
  /-- The load under way beside which the context runs (R139). -/
  load : Option Load
  /-- The HWAIT of the latch has been met for the word to issue next (R47). -/
  waited : Bool
  /-- Words fetched ahead, by address (R147): their bits, and whether their fetch was uncorrectable. -/
  ahead : List (Nat × BitVec 32 × Bool)
  /-- A stop has been asked for (R92): the context issues nothing past its next boundary. -/
  stopping : Bool
  /-- The burner: cc left when last settled, and the time of that settling (R104). -/
  burn : Nat
  burnAt : Nat
  task : Option TaskInfo
  /-- The handler that it runs was entered from the stream, so that its core goes on buffering (R89, R228). -/
  keeps : Bool
  /-- HSCHED yld: the next barrel slot is given up (R49). -/
  yld : Bool
  /-- When a helper without a slot began to wait for one (R94). -/
  slotAt : Nat
  deriving DecidableEq, Repr

end Sys2Proof.Machine
end

