-- ==== Sys2Proof/Machine/CoreState.lean ====
section
/-! DEFINITION. What one core holds beside its contexts: the engines and their commands (R173), the matrix slice (Table 13.1), the
stash (R134), the network interface, and the core's own special registers. -/

namespace Sys2Proof.Machine

/-- The four wide-side engines (R173). -/
inductive Eng where
  | vec
  | push
  | mat
  | gau
  deriving DecidableEq, Repr

/-- A wide-side command as it was issued (R173): its word's instruction, and everything that issue captured. -/
structure Cmd where
  uid : Nat
  ctx : Nat
  instr : Instr
  /-- HSCHED priority (R49). -/
  prio : Nat
  /-- HCACHE payload (R48). -/
  cache : BitVec 6
  /-- Captured pointer addresses, in the order pd, pa, pb (R152). -/
  ptr : List Nat
  /-- Captured g register operands, in field order. -/
  vals : List Word
  /-- The pivot threshold at issue (R120, R204). -/
  gthr : Half
  /-- The issuing level, for checks made later. -/
  level : Level
  /-- The repetition and word index, when the sequencer placed it (R197). -/
  seq : Option (Nat × Nat)
  /-- Copies resumed or stopped partway: source bytes already sent (R314), K-steps done (R262). -/
  pos : Nat
  /-- The receivers a started push sends to (R189, R331). -/
  dests : List Nat
  /-- Its guard was true when it reached the head of its queue (R181). -/
  decided : Bool
  deriving DecidableEq, Repr

/-- A started MMA or MMAG (R254): its operand snapshots, gather list and L4 tables, its accumulator type, the cores of its firing (itself
alone without .gang), and, for a partner that a pre-emption holds, the core and command it waits for (R263). -/
structure MatRun where
  a : BitVec 256
  b : BitVec 256
  list : List Nat
  tabA : List Nat
  tabB : List Nat
  i32 : Bool
  row : List Nat
  held : Option (Nat × Nat)
  deriving DecidableEq, Repr

/-- A command that its engine has started (R171, R184): what it will write when it completes. -/
structure Started where
  cmd : Cmd
  /-- Local writes still to take effect: address and bytes. -/
  writes : List (Nat × List Byte)
  /-- 64-bit words that become poisoned (R170). -/
  poison : List Nat
  /-- A mask result: register, bits, poison (R162, R167). -/
  mask : Option (Ptr × BitVec 16 × Bool)
  /-- The QW value and its poison (R166). -/
  qw : Option (Word × Bool)
  flags : BitVec 6
  /-- The cause with which its token faults. -/
  fault : Option (BitVec 8)
  /-- Waiting for a bridle firing (R250), a verdict (R258, R209), or running. -/
  phase : Nat
  /-- How far it has gone: rows sent, K-steps done. -/
  pos : Nat
  /-- The trap a failed verdict raises precisely: cause and EVAL (R209, R258). -/
  verdict : Option (BitVec 8 × Word)
  mat : Option MatRun
  /-- The granules of its sources that it has read (R130), as they stood at their grants: bytes, and poisoned words. -/
  got : List Nat
  snap : Memory
  snapBad : List Nat
  deriving DecidableEq, Repr

/-- An engine: queued commands in issue order, the command started last, those started before it that still run, oldest first (the vector
unit's pipeline of R171; pushes of other contexts, R192), and the context it served last (R49). -/
structure Engine where
  queue : List Cmd
  run : Option Started
  older : List Started
  last : Nat
  deriving DecidableEq, Repr

/-- The accumulator tag (R245). -/
inductive AccTag where
  | none
  | f32
  | i32
  deriving DecidableEq, Repr

/-- A line of global memory that the slice reads for a matrix operation (R382): the operation, the line (PA/64), the request, and the answer: its
64 bytes, or the cause of a failure. -/
structure GlobRead where
  cmd : Nat
  line : Nat
  uid : Nat
  ans : Option (List Byte × Option (BitVec 8))
  deriving DecidableEq, Repr

/-- The matrix slice (Table 13.1). Accumulator words are listed by 128·row + column and checksums by row; an unlisted one is 0. -/
structure Slice where
  a0 : KMap Half
  a1 : KMap Half
  cs0 : KMap Half
  cs1 : KMap Half
  tag0 : AccTag
  tag1 : AccTag
  bind : Option (BitVec 256)
  prog : List (BitVec 16)
  progI32 : Bool
  /-- A latch parity error is pending (R263). -/
  latchBad : Bool
  /-- What it has read of global memory for the K-step, or the start, to come (R382). -/
  glob : List GlobRead
  deriving DecidableEq, Repr

/-- A stash line's tag (R134). -/
structure Line where
  /-- Physical line address, PA/64. -/
  tag : Nat
  v : BitVec 16
  d : BitVec 16
  region : Option Nat
  /-- Its place in the LRU order: the larger, the more recent. -/
  lru : Nat
  deriving DecidableEq, Repr

/-- A line fill under way (R135): its request, its line, the words it may still validate, and whether its line was allocated evict-first
(R48). -/
structure Fill where
  uid : Nat
  line : Nat
  mask : BitVec 16
  cool : Bool
  deriving DecidableEq, Repr

/-- A bound region (R144). -/
structure Region where
  base : Nat
  size : Nat
  obj : Nat
  deriving DecidableEq, Repr

/-- An operation that left the core and is not finished yet (R96, R136, R184): a write-through, a write-back, a push, a packet, a
post or a copy set aside. -/
structure Out where
  uid : Nat
  ctx : Nat
  /-- The token it counts on, if any. -/
  tok : Option Slot
  /-- Acknowledgements still expected. -/
  left : Nat
  /-- It is a push to another package (R143). -/
  fab : Bool
  /-- It is a stash write-back (no context waits for it but through FENCE). -/
  wback : Bool
  /-- It still has bytes to send (R184, .src). -/
  sending : Bool
  /-- The first refusal. -/
  cause : Option (BitVec 8)
  /-- The descriptor of a push until the push completes; what completes a push is a step of its own. -/
  td : Option Nat
  /-- It completes with its last acknowledgement (.dlv, Table 9.8). -/
  dlv : Bool
  /-- It is a copy to global memory (PUSHS), whose writes a TINVB awaits (R312). -/
  copy : Bool
  /-- It is that of a GSEND, a command of the wide side, which completes when its receiver has accepted the message (R92, R211). -/
  wide : Bool
  deriving DecidableEq, Repr

/-- A copy or a synchronous access set aside (R314, R374). -/
structure Aside where
  fid : Nat
  /-- The copy: its command, resumed at `pos`; none for a synchronous access. -/
  cmd : Option Cmd
  ctx : Nat
  va : Nat
  /-- A synchronous access answered: true to translate again, a cause to trap. -/
  verdict : Option (Bool × BitVec 8)
  deriving DecidableEq, Repr

/-- A helper that has ended and whose number is still allocated (R96). -/
structure Ended where
  kind : Nat
  cause : BitVec 8
  parent : Option Nat
  drained : Bool
  task : Option TaskInfo
  /-- Its registers, for the commands it left on the wide side. -/
  wide : Ctx
  deriving DecidableEq, Repr

/-- A held register post (R87). -/
structure HeldPost where
  ctx : Nat
  reg : Reg
  val : Word
  bad : Bool
  deriving DecidableEq, Repr

/-- A word of the stream as it travels (R225): its index, its bits, and whether it is poisoned. -/
structure StreamWord where
  idx : Nat
  word : BitVec 32
  bad : Bool
  deriving DecidableEq, Repr

/-- The repetition sequencer (R196 to R198). -/
structure Sequencer where
  owner : Option Nat
  words : List (BitVec 32)
  running : Bool
  count : Nat
  rep : Nat
  idx : Nat
  st : Nat
  sp : Nat
  ptrs : List PtrReg
  done : Nat
  /-- The hint latch of the captured words (R50). -/
  latch : Latch
  stop : Bool
  stat : BitVec 64
  /-- The uid of the run's first command: uids follow program order, so RPBGO sets aside one for every placement. -/
  base : Nat
  deriving DecidableEq, Repr

/-- A message for a mailbox (R210, R211): its header, the wire format it travelled in, and its block words, widened; who sent it, over which
fabric port and from which package if it came from another, and the sender's uid. -/
structure MailMsg where
  hdr : BitVec 128
  wf : Nat
  blk : List Nat
  src : Nat
  port : Option Nat
  pkg : Nat
  uid : Nat
  /-- Its block words arrive poisoned (R317). -/
  bad : Bool
  deriving DecidableEq, Repr

/-- A message that is being written into its slot (R213): from the loop-back port of a context or not, the slot and its writes still to come, its
residual and arrival count, whether it posts, how far it is (0 in the slot, 1 before its count, 2 before its posting), the 64-bit words of
the slot that arrive poisoned (R317), and its record, with whether that can be posted (R215). -/
structure Landing where
  msg : MailMsg
  lbk : Option Nat
  slot : Nat
  todo : List (Nat × List Byte)
  res : Nat
  narr : Nat
  posts : Bool
  stage : Nat
  bad : List Nat
  rec_ : List Byte
  pend : Bool
  deriving DecidableEq, Repr

/-- The receiving side of the network interface: held posts (R87), the held message and the spill latch with its mailbox (R217), postings
that wait for room, each with its queue (R271), the ballonet's wake and room notices (R218, R219), and the message being written (R213). -/
structure Rx where
  posts : List HeldPost
  held : List MailMsg
  spill : Option (Nat × List Byte)
  postings : List (Nat × List Byte)
  wake : Bool
  notices : List Nat
  landing : Option Landing
  deriving DecidableEq, Repr

/-- The tail ring (R302): its entries, oldest first, and the lost count. -/
structure TailRing where
  entries : List (BitVec 128)
  lost : BitVec 32
  deriving DecidableEq, Repr

/-- The special registers that a core owns: STASHCFG, MSAVE, BLNVEC, TRWIN0 to TRWIN3, FRING, BGTAB. -/
structure CoreSpr where
  stash : BitVec 3
  stashBusy : Bool
  msave : Word
  msaveClaim : Bool
  blnvec : Word
  trwin : Vector Word 4
  fring : Word
  bgtab : Word
  deriving DecidableEq, Repr

/-- A word that the leader of a pair has issued, or stands at, and its trailer has not (R277): the leader's context as it issued it, whether it
obtained a value, whether it is an output, which waits in the comparator, whether it holds the leader until its trailer has entered its copy and whether
the trailer has, the numbers that the output's operations take, and the registers whose parity it depends on and those that it writes. -/
structure PairWord where
  instr : Instr
  before : Ctx
  value : Bool
  output : Bool
  held : Bool
  entered : Bool
  uid : Nat
  reads : BitVec 32
  writes : BitVec 32
  deriving DecidableEq, Repr

/-- The stream side of a core (R228, R235). -/
structure StreamBuf where
  buf : List StreamWord
  /-- Indices received since the last leave (R235), newest first. -/
  got : List Nat
  /-- Of these, the indices of words discarded since the core last joined or left the stream: by a stop, while its context 0 was stopped, or while
  it waited (R236). -/
  lost : List Nat
  /-- Index of the last word received (Table 12.6). -/
  last : Option Nat
  /-- The index the head delivers next to this core (R236). -/
  next : Nat
  /-- The stream time from which words sent are still to come. -/
  from_ : Nat
  deriving DecidableEq, Repr

/-- One core. -/
structure Core where
  /-- Live contexts (R381). -/
  ctxs : KMap Ctx
  /-- Ended helpers whose numbers are still allocated (R96). -/
  ended : KMap Ended
  /-- The context the rotation served last (R126). -/
  rot : Nat
  /-- Physical helper slots (R94). -/
  slots : Nat
  lmem : Memory
  /-- Poisoned 64-bit words, by address div 8 (R150). -/
  lbad : List Nat
  /-- 64-bit words with a correctable error, by address div 8 (R149), and how many such errors have been counted to the supervisor. -/
  weak : List Nat
  corrected : Nat
  istore : Memory
  /-- Uncorrectable instruction words, by address div 4 (R149). -/
  ibad : List Nat
  /-- Stash lines, by 8·set + way (R134). -/
  lines : KMap Line
  lruTick : Nat
  fills : List Fill
  regions : KMap Region
  vec : Engine
  psh : Engine
  mat : Engine
  gau : Engine
  slice : Slice
  seq : Sequencer
  outs : List Out
  aside : List Aside
  nextFid : Nat
  spr : CoreSpr
  tail : TailRing
  /-- LN, LE, LS, LW (R230). -/
  links : Vector (Option Word) 4
  upq : List (BitVec 8 × Word)
  rx : Rx
  /-- For each pair, under its leader, the words by which the leader is ahead (R277). -/
  pairs : KMap (List PairWord)
  stream : StreamBuf
  deriving DecidableEq, Repr

/-- What surrounds a core's own state: it is fenced (R323), killed (R322), disabled (R1), tethered (R352), and when CYC was 0. -/
structure CoreStat where
  fenced : Bool
  killed : Bool
  tether : Bool
  cyc0 : Nat
  temp : Nat
  /-- Its context 0 has been started since the core was placed or reset (R273). -/
  begun : Bool
  deriving DecidableEq, Repr

end Sys2Proof.Machine
end

