-- ==== Sys2Proof/Machine/PackState.lean ====
section
/-! DEFINITION. What lies outside the cores: clusters (R225, R238, R310), cache slices (R292), territories (R337, R338), the I/O die
(R366), and the messages that travel between them (R286, R287). -/

namespace Sys2Proof.Machine

/-- Who sends or receives on the mesh. -/
inductive Agent where
  | core (k : Nat)
  | slice (k : Nat)
  | cluster (k : Nat)
  /-- The mooring cluster of a territory. -/
  | terr (t : Nat)
  /-- The register side of the supervisor range, the I/O die, windows and apertures. -/
  | io
  /-- A fabric port of this package. -/
  | port (p : Nat)
  deriving DecidableEq, Repr

/-- What a request asks of a slice (R293). -/
inductive SliceOp where
  /-- Read `n` bytes for a synchronous access. -/
  | read (n : Nat)
  /-- Read a 64 B line into the stash of the requester (R135). -/
  | fill
  /-- Write the listed bytes, and mark the listed 64-bit words poisoned (R150). -/
  | write (bytes : List Host.Cell) (bad : List Nat)
  /-- An atomic function (Table 7.9) of `n` bytes. -/
  | atomic (fn n : Nat) (operand compare : Nat)
  deriving DecidableEq, Repr

/-- A request to a slice (R293): the requester, its territory and key, the address, the operation, and the hints (Table 2.16). -/
structure Req where
  core : Nat
  ctx : Nat
  uid : Nat
  terr : Nat
  key : Nat
  pa : Nat
  op : SliceOp
  /-- 0 normal, 1 no-allocate, 2 evict-first (R48, R311). -/
  alloc : Nat
  prio : Nat
  deriving DecidableEq, Repr

/-- What a message carries. -/
inductive Body where
  | req (r : Req)
  /-- A slice's answer to a read or an atomic, with the poisoned 64-bit words among the bytes. -/
  | data (r : Req) (bytes : List Byte) (bad : List Nat)
  /-- An acknowledgement of a write (R294) or of a delivery (R184). -/
  | ack (core uid : Nat)
  /-- A negative acknowledgement with the cause the sender's token or access takes (R287). -/
  | nak (core uid : Nat) (cause : BitVec 8)
  /-- Pushed bytes for a local address or an instruction store, and the object that counts them (R190). -/
  | push (uid : Nat) (istore : Bool) (addr : Nat) (bytes : List Byte) (bad : List Nat) (bar : Option Nat)
  /-- A packet of SNDO (R193); `bad` when its words arrive poisoned (R317); the words of it that its receiver has taken so far. -/
  | packet (uid : Nat) (hdr : Word) (words : List Word) (bad : Bool) (taken : Nat)
  /-- The place of a packet that is still open: packets and posts of its channel that come after its SNDO arrive after it (R195). -/
  | opening (uid : Nat)
  /-- A register post (R194); `bad` as for a packet. -/
  | post (uid : Nat) (ctx : Nat) (reg : Reg) (val : Word) (bad : Bool)
  /-- A Gaussian message or a mailbox packet (R211): its header, wire format and block words. -/
  | mail (uid : Nat) (wf : Nat) (hdr : BitVec 128) (blk : List Nat) (bad : Bool)
  /-- A record that a context posts to a queue of its territory (R281). -/
  | record (core ctx uid : Nat) (bytes : List Byte)
  /-- An arrival at a group, and a firing (R280). -/
  | groupArrive (gid core : Nat)
  | groupFire (gid gen : Nat)
  /-- A fault message for a die supervisor (R315). -/
  | fault (bytes : List Byte)
  /-- An upcall for a core's queue (R91). -/
  | upcall (core : Nat) (cause : BitVec 8) (eval : Word)
  /-- A TINVB invalidation (R312). -/
  | tinvb (core uid terr va mode : Nat)
  /-- A write of a memory-mapped register (R298, R338, R352, R366). -/
  | regWrite (core ctx uid : Nat) (level : Level) (terr pa n val : Nat)
  deriving DecidableEq, Repr

/-- What a message carries over the fabric (R368): the other package and its core (the receiver of an outgoing frame, the sender of an
incoming one), the core of this package, and the sender's fabric tag (Table 22.3). -/
structure Fab where
  pkg : Nat
  core : Nat
  here : Nat
  tag : Nat
  deriving DecidableEq, Repr

/-- A message under way (R287). `terr` is the sender's territory tag, or that of the receiver that admitted it from the fabric; none for
the die supervisor at level S (R340). -/
structure Msg where
  src : Agent
  dst : Agent
  vc : Nat
  terr : Option Nat
  fab : Option Fab
  body : Body
  /-- When it was sent, for the 1 ms limit of Table 22.3. -/
  sentAt : Nat
  /-- Bytes of it that have landed and are still to be counted: the object and how many (R187). -/
  due : Option (Nat × Nat) := none
  /-- A count of it has met a poisoned object (R150). -/
  failed : Bool := false
  /-- A post that its core cannot hold any more (R194): the channel waits behind it. -/
  stuck : Bool := false
  deriving DecidableEq, Repr

/-- A translation cache entry (R310). -/
structure TlbEntry where
  terr : Nat
  /-- Virtual page number at the entry's own page size. -/
  vpn : Nat
  /-- log₂ of the page size. -/
  lg : Nat
  ppn : Nat
  r : Bool
  w : Bool
  /-- Combined PBMT: 0 PMA, 1 NC, 2 IO (R311). -/
  attr : Nat
  bad : Bool
  lru : Nat
  deriving DecidableEq, Repr

/-- A walk in progress (R310), which the misses of its cluster to its page share. -/
structure Walk where
  terr : Nat
  va : Nat
  /-- 0 read, 1 write, 2 atomic (Table 17.2). -/
  acc : Nat
  /-- Walks of a pool are made in the order of these numbers. -/
  no : Nat
  /-- The commands of engines, and the words that work on a range, that share it. -/
  keys : List Nat
  deriving DecidableEq, Repr

/-- A walk that failed for one of these: who has still to hear of it, its address and access, and the reason and stage of Table 17.1. -/
structure WalkFail where
  key : Nat
  va : Nat
  acc : Nat
  cause : Nat × Nat
  deriving DecidableEq, Repr

/-- The stream head of a cluster (R226, R237). -/
structure Head where
  running : Bool
  /-- Index of the next word. -/
  idx : Nat
  /-- Beat at which a started head sends its first word; none once it has. -/
  startAt : Option Nat
  bubble : Bool
  /-- Stream time (R227). -/
  time : Nat
  /-- SKEW: the skew that the last SSTART set; words under way keep the one they were sent with. -/
  skew : Nat
  pace : Nat
  /-- Words under way with the stream time at which they were sent. -/
  flight : List (Nat × StreamWord)
  deriving DecidableEq, Repr

/-- What a matrix arrival at a bridle carries (R250), and a GANG's tag (R241). -/
structure Arrival where
  tag : Nat
  /-- K, B format, ok and cause of a matrix arrival. -/
  mat : Option (Nat × Nat × Bool × BitVec 8)
  /-- A resumed operation's next K-step (R262). -/
  step : Nat
  deriving DecidableEq, Repr

/-- One row's bridle (R238): arrivals by lx, the generation, and the result of the last firing each GANG still has to take. -/
structure Bridle where
  arrivals : KMap Arrival
  gen : BitVec 32
  results : KMap Word
  deriving DecidableEq, Repr

/-- A drift move in progress (R345 to R352). -/
inductive MovePhase where
  | proposed
  | draining
  | scrubbing
  | transfer
  deriving DecidableEq, Repr

/-- A move of a cluster (R347): phase, taker, giver, when DRAIN began, PCFG as it stood (R342), the cores that have drained,
and those whose context 0 has returned from the LOSS by UPRET.yield. -/
structure Move where
  phase : MovePhase
  taker : Nat
  from_ : Nat
  began : Nat
  pcfg : Word
  drained : List Nat
  yielded : List Nat
  /-- The save entries that its cores have written: TRANSFER settles their generation (Table 20.7). -/
  entries : List Nat
  deriving DecidableEq, Repr

/-- A gossiped view (R341): the territory, its P, W and n, and when its mooring cluster computed them. -/
structure View where
  t : Nat
  p : Nat
  w : Nat
  n : Nat
  at_ : Nat
  deriving DecidableEq, Repr

/-- A record as its queue or the dispatcher holds it (R271): its bytes, when it was posted, its pin core, and a number that no other record
has, which rises with the postings. -/
structure Record where
  bytes : List Byte
  postedAt : Nat
  pin : Option Nat
  id : Nat
  deriving DecidableEq, Repr

/-- What a dispatcher remembers of a refused head (R272). -/
structure Refused where
  rec_ : Record
  since : Nat
  deriving DecidableEq, Repr

/-- One cluster. -/
structure Cluster where
  /-- The territory that owns it; none while it is scrubbed (R337). -/
  owner : Option Nat
  sstore : KMap (BitVec 32)
  sbad : List Nat
  head : Head
  bridles : Vector Bridle 4
  tlb : List TlbEntry
  walks : List Walk
  walkFails : List WalkFail
  bucket : Int
  allow : Nat
  refused : List Refused
  tether : Bool
  frozen : Bool
  cooldown : Nat
  /-- The cluster whose proposal locked this one's window (R344). -/
  lock : Option Nat
  move : Option Move
  /-- What it holds of its own territory, and of the cluster to the north, east, south and west (0 to 3). -/
  view : View
  nviews : KMap View
  key : Nat
  hottest : Nat
  deriving DecidableEq, Repr

/-- A cache way's tag (R292) with the bytes the fill brought where writes have changed them since (the GDDR7 copy of a dirty line). -/
structure Way where
  line : Nat
  dirty : Bool
  owner : Nat
  key : Nat
  lru : Nat
  orig : List Host.Cell
  deriving DecidableEq, Repr

/-- A set whose fill is in flight (R293): the line and way, the requests held for the line, and the conflict queue. -/
structure Block where
  line : Nat
  way : Nat
  evictFirst : Bool
  terr : Nat
  key : Nat
  held : List Req
  conflict : List Req
  deriving DecidableEq, Repr

/-- A cache slice (R292, Table 16.6). -/
structure CacheSlice where
  c : Nat
  lock : Bool
  uncorr : BitVec 32
  corr : BitVec 32
  wmask : KMap (BitVec 16)
  /-- Tags by 16·set + way. -/
  ways : KMap Way
  blocks : KMap Block
  /-- The bypass queue of each bank (R292, R293), in the order in which it is served. -/
  bypass : KMap (List Req)
  /-- The territories whose OCC still reads one too high after a tag error (R318). -/
  occExtra : List Nat
  /-- Correctable 64-bit words of the slice and of its GDDR7 (R317, R325). -/
  weak : List Nat
  tick : Nat
  deriving DecidableEq, Repr

/-- A hardware slot of the mooring cluster (R355): whether it is mapped, the queue, its ageing rate, its records in order, and when the head
became head. -/
structure QSlot where
  mapped : Bool
  queue : Nat
  rho : Nat
  recs : List Record
  headSince : Nat
  deriving DecidableEq, Repr

/-- A record that a dispatcher has chosen and that has not started (R273): its cluster, the core whose slots are reserved for it (none when it
could not go back to its queue yet), the charge that the cluster's bucket gave, and how many slots it takes. -/
structure Chosen where
  cluster : Nat
  core : Option Nat
  rec_ : Record
  charge : Nat
  slots : Nat
  deriving DecidableEq, Repr

/-- A group (R279, R280): its members, generation, the cores that have arrived, and those that count in this generation. -/
structure Group where
  members : List Member
  gen : BitVec 32
  arrived : List Nat
  expected : List Nat
  deriving DecidableEq, Repr

/-- The window registers of a territory (Table 20.1, Table 22.6). -/
structure Window where
  tcfg : Word
  root1 : Word
  root2 : Word
  tsave : Word
  tfring : Word
  tfhead : Word
  tpower : Word
  tclass : Vector Word 8
  tqcb : Word
  tinit : Vector Word 4
  tfab : Word
  toff : Word
  tlast : Word
  tmig : Word
  deriving DecidableEq, Repr

/-- What a context in the save region holds beyond its entry's bytes: its task, the commands held with it in issue order (R92), and the
context, for the token counts and causes. -/
structure SavedCtx where
  /-- Where it came from: 16·core + context. -/
  home : Nat
  task : Option TaskInfo
  cmds : List Cmd
  ctx : Ctx
  /-- The core image's area of descriptors, repetition buffer and engine state (Table 9.3), its poisoned words, and the sequencer if the
  context owns it (R177). -/
  area : List Byte
  areaBad : List Nat
  seq : Option Sequencer
  deriving DecidableEq, Repr

/-- One territory. -/
structure Terr where
  win : Window
  slots : KMap QSlot
  /-- Records chosen and not started (R273), in the order of the choices. -/
  chosen : List Chosen
  gen : BitVec 32
  groups : KMap Group
  templates : List (List Byte)
  upcalls : KMap Nat
  /-- The image's region table, which every core placed starts with (R144). -/
  regions : KMap Region
  /-- Every cluster is to move to territory 0 (R339). -/
  closing : Bool
  /-- It is paused: no dispatcher of it starts anything (R374, R348). -/
  paused : Bool
  /-- The contexts held in the save region, by entry (R93, R349). -/
  saved : KMap SavedCtx
  /-- When each record in a queue's ring was posted, and its pin core (R215, R271), by 65,536·queue + its place in the ring's count. -/
  ring : KMap (Nat × Option Nat)
  deriving DecidableEq, Repr

/-- An upcall that waits for room in its core's queue (R353). -/
structure HeldUpcall where
  core : Nat
  cause : BitVec 8
  eval : Word
  deriving DecidableEq, Repr

/-- A frame that a port is writing into a mailbox, chunk by chunk (R370): the port, the mailbox and its territory, the first slot, the number
of chunks and the next of them, what Table 22.5 puts into each, the counter from which its record draws its slot, and how far it is: the writes
of the chunk still to come, and the step after them (1 its slot's descriptor, 2 its count, 3 the frame's descriptor, 4 its posting). -/
structure Inbound where
  port : Nat
  core : Nat
  box : Nat
  terr : Nat
  slot : Nat
  chunks : Nat
  next : Nat
  seq : Nat
  time : Nat
  frame : List Byte
  fcsBad : Bool
  draw : Nat
  todo : List (Nat × List Byte)
  stage : Nat
  deriving DecidableEq, Repr

/-- The I/O die (R366, R372, R377). -/
structure IoDie where
  fpcfg : Vector Word 16
  fpcnt : Vector Word 16
  /-- Frame sequence number of each ingress port (Table 22.5). -/
  fseq : Vector (BitVec 32) 16
  /-- Frames that the ports are writing into mailboxes, oldest first (R370). -/
  inbound : List Inbound
  shkey : Vector Word 16
  pkgid : Word
  pkgWritten : Bool
  /-- ROUTE entries; an unlisted one is 0. -/
  route : KMap (BitVec 16)
  tbase : Nat
  meas : Vector (BitVec 384) 16
  /-- The last signed answer to GET_MEASUREMENTS and the port it leaves by; none for DOE (R377). -/
  spdm : List (Option Nat × List (BitVec 384) × BitVec 768)
  keysLoaded : Bool
  /-- The last step of the bring-up that is complete (R359, Table 20.13). -/
  bring : Nat
  /-- Dies whose supervisor image was refused, as reported to the host (R328). -/
  bootErrors : List Nat
  /-- Thermal and power events reported on MSI-X vector 0 (R376). -/
  msix0 : Nat
  deriving DecidableEq, Repr

end Sys2Proof.Machine
end

