-- ==== Sys2Proof/Machine/State.lean ====
section
/-! DEFINITION. The state of the machine, why a step can stop, and the state after reset. -/

namespace Sys2Proof.Machine

/-- Reasons for a stop that the spec describes as one. -/
inductive Fault where
  /-- Module power has been removed (R358): nothing runs any more. Raised by `step` alone. Safe: the hardware does nothing either. -/
  | powerRemoved
  deriving DecidableEq, Repr

/-- Reasons for a refusal. -/
inductive Refusal where
  /-- An instruction without a meaning, named by its mnemonic; raised by a refused arm of `exec`. Safe: nothing is claimed of it. -/
  | notModelled (mnemonic : String)
  deriving DecidableEq, Repr

/-- What happens next: the choices the spec leaves to time and to the outside, as plain data. -/
inductive Turn where
  /-- The core issues in the next cc. -/
  | core (k : Nat)
  /-- A step of the machine beside the cores' words. -/
  | event (i : Instr)
  /-- So many cc pass in which nothing else happens. -/
  | wait (cc : Nat)
  /-- Something comes in over the fabric at port `p`, on a virtual channel (R368). -/
  | wire (p vc : Nat) (f : Fab) (b : Body)
  /-- A context fetches a word ahead of its PC (R147). -/
  | ahead (core cx : Nat)
  /-- The `i`th record that a territory's dispatchers have chosen starts (R273). -/
  | record (terr i : Nat)
  /-- The head of a bank's bypass queue proceeds (R293). -/
  | bypass (slice bank : Nat)
  /-- An engine's command is granted granule `g` next, to read or to write (R130). -/
  | grant (core : Nat) (e : Eng) (cx g : Nat) (write : Bool)
  /-- The oldest frame that an ingress port is writing takes its next step (R370). -/
  | chunk (port : Nat)
  /-- The on-module operating system writes a register of the I/O die or of a territory window: address, width in bytes, value (R338, R366). -/
  | os (pa n v : Nat)
  deriving DecidableEq, Repr

/-- The machine. `cur` names the core and context that a word's meaning acts on. -/
structure State where
  turns : List Turn
  cur : Nat × Nat
  /-- cc since power-on (R2). -/
  now : Nat
  cores : KMap Core
  stats : KMap CoreStat
  clusters : KMap Cluster
  slices : KMap CacheSlice
  terrs : KMap Terr
  gmem : Memory
  gbad : List Nat
  /-- The key under which each GDDR7 line (by PA/128) was last written to the devices (R357). -/
  gkeys : KMap Nat
  net : List Msg
  heldUpcalls : List HeldUpcall
  io : IoDie
  pcfg : Word
  /-- CRECT registers by 64·die + n (Table 17.10). -/
  crects : KMap Word
  /-- Page-table roots of each die's supervisor, first and second stage. -/
  suproots : KMap (Word × Word)
  /-- Disabled cores (R1). -/
  disabled : List Nat
  power : Bool
  /-- The next uid of a command or request, and the count of free values used. -/
  uid : Nat
  free : Nat
  deriving DecidableEq, Repr

/-! ### Reset values -/

def PtrReg.reset : PtrReg := ⟨0, 0⟩
def Tok.reset : Tok := ⟨.idle, 0, none, false⟩
def Latch.empty : Latch := ⟨0, 0, 0, none, none, none, 0⟩
def Spr.reset : Spr := ⟨0, 0, 0, .u, false, false, false, Latch.empty, 0, 0, 0, 0, 0, 0, 0⟩

/-- A context as it starts (R86, Table 5.1) at `pc`, in the given level and run state. -/
def Ctx.start (pc : Nat) (lv : Level) (run : RunSt) : Ctx where
  g := Vector.replicate 32 0
  full := BitVec.allOnes 32
  bad := 0
  p := Vector.replicate 8 PtrReg.reset
  m := (Vector.replicate 8 0).set 0 0xFFFF#16
  mbad := 0
  c := (Vector.replicate 8 GuardSt.unresolved).set 0 .yes
  t := Vector.replicate 8 Tok.reset
  pc := pc
  mode := .loc
  latch := Latch.empty
  qs := []
  qsBad := 0
  qw := []
  spr := Spr.reset
  event := false
  level := lv
  run := run
  parent := none
  pkt := none
  rep := none
  acc := none
  load := none
  waited := false
  ahead := []
  stopping := false
  burn := 0
  burnAt := 0
  task := none
  keeps := false
  slotAt := 0
  yld := false

/-- An idle engine, whose pointer stands as if context 11 had been served last (R49). -/
def Engine.reset : Engine := ⟨[], none, [], 11⟩
def Slice.reset : Slice := ⟨[], [], [], [], .none, .none, none, [], false, false, []⟩
def Sequencer.reset : Sequencer := ⟨none, [], false, 0, 0, 0, 0, 0, [], 0, Latch.empty, false, 0, 0⟩
def Rx.reset : Rx := ⟨[], [], none, [], false, [], none⟩
def CoreSpr.reset : CoreSpr := ⟨0, false, 0, false, 0, Vector.replicate 4 0, 0, 0⟩

/-- The die supervisor's position on its die (R284), for a core id {Y, X}. -/
def isSup (k : Nat) : Bool := k / 64 % 32 == 0 && k % 32 == 0

/-- A core as die reset leaves it (R328): zeroed, and, but for the supervisor, with context 0 live and halted. -/
def Core.reset (k : Nat) : Core where
  ctxs := if isSup k then [] else [(0, Ctx.start 0 .t (.stopped .halted))]
  ended := []
  rot := 11
  slots := 10
  lmem := []
  lbad := []
  weak := []
  corrected := 0
  istore := []
  ibad := []
  lines := []
  lruTick := 1
  fills := []
  regions := []
  vec := Engine.reset
  psh := Engine.reset
  mat := Engine.reset
  gau := Engine.reset
  slice := Slice.reset
  seq := Sequencer.reset
  outs := []
  aside := []
  nextFid := 0
  spr := CoreSpr.reset
  tail := ⟨[], 0⟩
  links := Vector.replicate 4 none
  upq := []
  rx := Rx.reset
  pairs := []
  stream := ⟨[], [], [], none, 0, 0⟩

def CoreStat.reset : CoreStat := ⟨false, false, false, 0, 0, false⟩
def Head.reset : Head := ⟨false, 0, none, false, 0, 0, 0, []⟩

/-- A cluster after reset (R359): in territory 0, its bucket empty (R276). -/
def Cluster.reset : Cluster where
  owner := some 0
  sstore := []
  sbad := []
  head := Head.reset
  bridles := Vector.replicate 4 ⟨[], 0, []⟩
  tlb := []
  walks := []
  walkFails := []
  bucket := 0
  allow := 0
  refused := []
  tether := false
  frozen := false
  cooldown := 0
  lock := none
  move := none
  view := ⟨0, 0, 0, 0, 0⟩
  nviews := []
  key := 0
  hottest := 0

/-- A slice after reset (Table 16.6): 8 cache ways, unlocked, every way mask 0xFFFF (an unlisted mask reads so). -/
def CacheSlice.reset : CacheSlice := ⟨8, false, 0, 0, [], [], [], [], [], [], 1⟩

def Window.reset : Window :=
  ⟨0, 0, 0, 0, 0, 0, 0, Vector.replicate 8 0, 0, Vector.replicate 4 0, 0, 0, 0, 0⟩
def Terr.reset : Terr := ⟨Window.reset, [], [], 0, [], [], [], [], false, false, [], []⟩

def IoDie.reset : IoDie where
  fpcfg := Vector.replicate 16 0
  fpcnt := Vector.replicate 16 0
  fseq := Vector.replicate 16 0
  inbound := []
  shkey := Vector.replicate 16 0
  pkgid := 0
  pkgWritten := false
  route := []
  tbase := 0
  meas := Vector.replicate 16 0
  spdm := []
  keysLoaded := false
  bring := 0
  bootErrors := []
  msix0 := 0

/-- The machine right after reset: every die reset (R328), every cluster in territory 0, PCFG at its reset value (R342). A core, cluster,
slice or territory that is not listed is as its own `reset` says. -/
def State.reset : State where
  turns := []
  cur := (0, 0)
  now := 0
  cores := []
  stats := []
  clusters := []
  slices := []
  terrs := []
  gmem := []
  gbad := []
  gkeys := []
  net := []
  heldUpcalls := []
  io := IoDie.reset
  pcfg := 0x0000_0640_320A_0040#64
  crects := []
  suproots := []
  disabled := []
  power := true
  uid := 0
  free := 0

end Sys2Proof.Machine
end

