-- ==== Sys2Proof/Machine/Ops.lean ====
section
/-! DEFINITION. The named operations over tables, memory and registers, taking and returning from an exception (R89, R90, R123), and
the shape that the meaning of every instruction word has: its checks, its body, and how it completes (R45, R54, R117). -/

namespace Sys2Proof.Machine

/-- The outcome of a meaning or a step. -/
abbrev Res := Host.Outcome State Fault Refusal

/-! ### Tables -/

/-- The entry of a key. -/
def kget {α : Type} : KMap α → Nat → Option α
  | [], _ => none
  | (j, v) :: r, k => if j = k then some v else kget r k

/-- Sets the entry of a key; keys stay in rising order. -/
def kput {α : Type} : KMap α → Nat → α → KMap α
  | [], k, v => [(k, v)]
  | (j, w) :: r, k, v => if k < j then (k, v) :: (j, w) :: r else if j = k then (k, v) :: r else (j, w) :: kput r k v

/-- Removes the entry of a key. -/
def kdel {α : Type} (m : KMap α) (k : Nat) : KMap α := m.filter (fun e => e.1 ≠ k)

/-! ### Byte memories -/

/-- One byte (R3); an unlisted address reads as 0. -/
def mget (m : Memory) (a : Nat) : Byte := (kget m a).getD 0

/-- Writes one byte. Writing what an unlisted address reads as removes the entry, so that equal memories are equal lists. -/
def mput (m : Memory) (a : Nat) (v : Byte) : Memory := if v = 0 then kdel m a else kput m a v

/-- `n` bytes from `a`. -/
def mread (m : Memory) (a : Nat) : Nat → List Byte
  | 0 => []
  | n + 1 => mget m a :: mread m (a + 1) n

/-- Writes bytes from `a` on. -/
def mwrite (m : Memory) (a : Nat) : List Byte → Memory
  | [] => m
  | b :: bs => mwrite (mput m a b) (a + 1) bs

/-- Strictly rising addresses and no entry equal to what an unlisted address reads as. -/
def Memory.wfFrom (lo : Nat) : Memory → Bool
  | [] => true
  | (a, v) :: r => lo ≤ a && v != 0 && Memory.wfFrom (a + 1) r

/-- The canonical form of a memory. -/
def Memory.wf (m : Memory) : Bool := Memory.wfFrom 0 m

/-- The number that bytes hold, little-endian (R3). -/
def leNat : List Byte → Nat
  | [] => 0
  | b :: bs => b.toNat + 256 * leNat bs

/-- `n` bytes of a number, little-endian (R3). -/
def leBytes : Nat → Nat → List Byte
  | 0, _ => []
  | n + 1, v => BitVec.ofNat 8 v :: leBytes n (v / 256)

/-- A number read from memory (R3). -/
def mnat (m : Memory) (a n : Nat) : Nat := leNat (mread m a n)

/-- A number written to memory (R3). -/
def mputNat (m : Memory) (a n v : Nat) : Memory := mwrite m a (leBytes n v)

/-- Adds to and removes from a rising list of numbers without repeats. -/
def nput : List Nat → Nat → List Nat
  | [], k => [k]
  | j :: r, k => if k < j then k :: j :: r else if j = k then j :: r else j :: nput r k
def ndel (l : List Nat) (k : Nat) : List Nat := l.filter (· ≠ k)

/-- The 64-bit words that bytes `a` to `a + n − 1` touch. -/
def wordsOf (a n : Nat) : List Nat := (List.range ((a + n + 7) / 8 - a / 8)).map (a / 8 + ·)

/-- Whether a listed poisoned word is touched (R150). -/
def touchesBad (bad : List Nat) (a n : Nat) : Bool := bad.any (fun w => a / 8 ≤ w && w * 8 < a + n)

/-- Words that the bytes cover wholly are healed by a write (R150). -/
def heal (bad : List Nat) (a n : Nat) : List Nat := bad.filter (fun w => !(a ≤ 8 * w && 8 * w + 8 ≤ a + n))

/-- A read of some words of a memory, or a write that must read them first, corrects the correctable ones (R149, R317): those that stay, and
how many are corrected. A word that a write covers wholly is not read. -/
def corrects (weak : List Nat) (a n : Nat) (write : Bool) : List Nat × Nat :=
  let met (w : Nat) : Bool := a / 8 ≤ w && w * 8 < a + n
  (weak.filter (fun w => !met w), ((if write then heal weak a n else weak).filter met).length)

/-! ### Bits of words -/

def bits (w : Word) (lo n : Nat) : Nat := w.toNat / 2 ^ lo % 2 ^ n
def wbit (w : Word) (n : Nat) : Bool := w.toNat / 2 ^ n % 2 == 1
def word (n : Nat) : Word := BitVec.ofNat 64 n
def ofBool (b : Bool) : Nat := if b then 1 else 0

/-! ### Parts of the state -/

def State.core (s : State) (k : Nat) : Core := (kget s.cores k).getD (Core.reset k)
def State.setCore (s : State) (k : Nat) (c : Core) : State := { s with cores := kput s.cores k c }
def State.stat (s : State) (k : Nat) : CoreStat := (kget s.stats k).getD CoreStat.reset
def State.setStat (s : State) (k : Nat) (c : CoreStat) : State := { s with stats := kput s.stats k c }
def State.clus (s : State) (k : Nat) : Cluster := (kget s.clusters k).getD Cluster.reset
def State.setClus (s : State) (k : Nat) (c : Cluster) : State := { s with clusters := kput s.clusters k c }
def State.slice (s : State) (k : Nat) : CacheSlice := (kget s.slices k).getD CacheSlice.reset
def State.setSlice (s : State) (k : Nat) (c : CacheSlice) : State := { s with slices := kput s.slices k c }
def State.terr (s : State) (k : Nat) : Terr := (kget s.terrs k).getD Terr.reset
def State.setTerr (s : State) (k : Nat) (c : Terr) : State := { s with terrs := kput s.terrs k c }

/-- A live context of a core; a number that is not live reads as a context just started. -/
def Core.ctx (c : Core) (x : Nat) : Ctx := (kget c.ctxs x).getD (Ctx.start 0 .u .running)
def Core.setCtx (c : Core) (x : Nat) (v : Ctx) : Core := { c with ctxs := kput c.ctxs x v }
def Core.live (c : Core) (x : Nat) : Bool := (kget c.ctxs x).isSome
def State.ctx (s : State) (k x : Nat) : Ctx := (s.core k).ctx x
def State.setCtx (s : State) (k x : Nat) (v : Ctx) : State := s.setCore k ((s.core k).setCtx x v)

/-- The executing core and context. -/
def State.me (s : State) : Core := s.core s.cur.1
def State.setMe (s : State) (c : Core) : State := s.setCore s.cur.1 c
def State.cx (s : State) : Ctx := s.ctx s.cur.1 s.cur.2
def State.setCx (s : State) (c : Ctx) : State := s.setCtx s.cur.1 s.cur.2 c

/-- The next uid. -/
def State.bump (s : State) : State := { s with uid := s.uid + 1 }

/-- Puts a message on the mesh (R287). -/
def State.send (s : State) (m : Msg) : State := { s with net := s.net ++ [m] }

/-! ### Places (R284) -/

def coreX (k : Nat) : Nat := k % 64
def coreY (k : Nat) : Nat := k / 64 % 64
def coreAt (x y : Nat) : Nat := 64 * y + x
/-- The cluster id of a core. -/
def clusOf (k : Nat) : Nat := 16 * (coreY k / 4) + coreX k / 4
/-- The die of a core. -/
def dieOf (k : Nat) : Nat := 2 * (coreY k / 32) + coreX k / 32
/-- The die of a cluster. -/
def dieOfClus (c : Nat) : Nat := 2 * (c / 16 / 8) + c % 16 / 8
/-- The supervisor core of a die. -/
def supOf (d : Nat) : Nat := coreAt (32 * (d % 2)) (32 * (d / 2))
/-- The core of a cluster at (lx, ly). -/
def coreIn (c lx ly : Nat) : Nat := coreAt (4 * (c % 16) + lx) (4 * (c / 16) + ly)
/-- The cores of a cluster by 4·ly + lx. -/
def coresOf (c : Nat) : List Nat := (List.range 16).map (fun i => coreIn c (i % 4) (i / 4))
/-- Enabled cores that take part in their cluster: not disabled, and not a die supervisor (R340). -/
def State.plain (s : State) (k : Nat) : Bool := !(s.disabled.contains k) && !isSup k
/-- A core's territory tag (R340): none on a die supervisor, or while its cluster is scrubbed. -/
def State.tagOf (s : State) (k : Nat) : Option Nat := if isSup k then none else (s.clus (clusOf k)).owner
/-- TERR as a core reads it (R337, R340). -/
def State.terrOf (s : State) (k : Nat) : Nat := (s.tagOf k).getD 0
/-- The mooring cluster of a territory (Table 20.2), and its mooring core (R337). -/
def State.moorClus (s : State) (t : Nat) : Nat := bits (s.terr t).win.tcfg 0 8
def State.moorCore (s : State) (t : Nat) : Nat :=
  ((coresOf (s.moorClus t)).find? s.plain).getD (coreIn (s.moorClus t) 0 0)

/-- CYC (R51): cc since the core's reset. -/
def State.cyc (s : State) (k : Nat) : Nat := s.now - (s.stat k).cyc0

/-- TIME for a territory (R372). -/
def State.timeFor (s : State) (t : Nat) : Word :=
  word s.io.tbase + (if t = 0 then 0 else (s.terr t).win.toff)

/-! ### Causes (Table 2.22) -/

def illegalOp : BitVec 8 := 0x01
def illegalFormat : BitVec 8 := 0x02
def misaligned : BitVec 8 := 0x03
def localBounds : BitVec 8 := 0x04
def privilege : BitVec 8 := 0x05
def translation : BitVec 8 := 0x06
def uncorrectable : BitVec 8 := 0x07
def regParity : BitVec 8 := 0x08
def streamLate : BitVec 8 := 0x09
def singularBlock : BitVec 8 := 0x0A
def barrierOverrun : BitVec 8 := 0x0B
def accChecksum : BitVec 8 := 0x0C
def pairDiverge : BitVec 8 := 0x0D
def packetAbort : BitVec 8 := 0x0E
def userTrap : BitVec 8 := 0x10
def taskCrc : BitVec 8 := 0x11
def territory : BitVec 8 := 0x12
def asyncFault : BitVec 8 := 0x13
def gainCause : BitVec 8 := 0x20
def lossCause : BitVec 8 := 0x21
def queuePending : BitVec 8 := 0x22
def neighbourFenced : BitVec 8 := 0x23

def Level.num : Level → Nat
  | .u => 0
  | .t => 1
  | .s => 2
def Level.ofNum : Nat → Level
  | 0 => .u
  | 1 => .t
  | _ => .s

/-! ### The burner (R104) -/

/-- A wait that carries idle does not age the burner. -/
def Wait.idle : Wait → Bool
  | .tokens i | .barrier i | .group i | .bridle i | .stream i => i
  | .event i _ => i
  | _ => false

/-- Whether the burner count falls in this run state. -/
def RunSt.ages : RunSt → Bool
  | .running => true
  | .parked w => !w.idle
  | .stopped _ => false

/-- The cc left of the burner count. -/
def Ctx.burnLeft (c : Ctx) (now : Nat) : Nat := if c.run.ages then c.burn - (now - c.burnAt) else c.burn

/-- Changes the run state, settling the burner count first. -/
def Ctx.setRun (c : Ctx) (now : Nat) (r : RunSt) : Ctx :=
  { c with burn := c.burnLeft now, burnAt := now, run := r }

/-- Reloads the burner count from HBTIV (R103, R104). -/
def Ctx.reload (c : Ctx) (now : Nat) : Ctx := { c with burn := 1024 * c.spr.hbtiv.toNat, burnAt := now }

/-! ### Registers (R36, R87) -/

/-- g0 reads 0. -/
def Ctx.reg (c : Ctx) (r : Reg) : Word := if r = 0 then 0 else c.g[r.toNat]
/-- g0 is always full. -/
def Ctx.isFull (c : Ctx) (r : Reg) : Bool := r == 0 || c.full.getLsbD r.toNat
/-- A register whose parity is bad (R149); g0 never is. -/
def Ctx.isBad (c : Ctx) (r : Reg) : Bool := r != 0 && c.bad.getLsbD r.toNat
/-- A value reaches a register: g0 discards it; any other takes it and is full. -/
def Ctx.putReg (c : Ctx) (r : Reg) (v : Word) : Ctx :=
  if r = 0 then c
  else { c with g := c.g.set r.toNat v, full := c.full ||| (1#32 <<< r.toNat), bad := c.bad &&& ~~~(1#32 <<< r.toNat) }
/-- An instruction writes a register: a load under way to it that issued earlier leaves the later value alone (R139). -/
def Ctx.setReg (c : Ctx) (r : Reg) (v : Word) : Ctx :=
  { c.putReg r v with load := c.load.map (fun l => if l.rd = r then { l with lost := true } else l) }
/-- The register is the destination of a load under way (R139). -/
def Ctx.loading (c : Ctx) (r : Reg) : Bool := c.load.any (fun l => l.rd == r && r != 0 && !l.lost)
/-- The emptying of a consuming read (R38). -/
def Ctx.empty (c : Ctx) (r : Reg) : Ctx := { c with full := c.full &&& ~~~(1#32 <<< r.toNat) }

/-- The mask file: m0 reads 0xFFFF (Table 5.1). -/
def Ctx.mask (c : Ctx) (m : Ptr) : BitVec 16 := if m = 0 then 0xFFFF else c.m[m.toNat]
def Ctx.maskBad (c : Ctx) (m : Ptr) : Bool := m != 0 && c.mbad.getLsbD m.toNat
def Ctx.setMask (c : Ctx) (m : Ptr) (v : BitVec 16) (bad : Bool) : Ctx :=
  if m = 0 then c
  else { c with m := c.m.set m.toNat v, mbad := if bad then c.mbad ||| (1#8 <<< m.toNat) else c.mbad &&& ~~~(1#8 <<< m.toNat) }
def Ctx.ptr (c : Ctx) (p : Ptr) : PtrReg := c.p[p.toNat]
def Ctx.setPtr (c : Ctx) (p : Ptr) (v : PtrReg) : Ctx := { c with p := c.p.set p.toNat v }
def Ctx.guard (c : Ctx) (x : Slot) : GuardSt := if x = 0 then .yes else c.c[x.toNat]
def Ctx.setGuard (c : Ctx) (x : Slot) (v : GuardSt) : Ctx := { c with c := c.c.set x.toNat v }
def Ctx.tok (c : Ctx) (x : Slot) : Tok := c.t[x.toNat]
def Ctx.setTok (c : Ctx) (x : Slot) (v : Tok) : Ctx := { c with t := c.t.set x.toNat v }

/-! ### The hint latch (Tables 2.18, 2.19) -/

def Latch.toHlatch (l : Latch) : Word :=
  word ((l.sched.getD (l.pad.extractLsb' 0 4)).toNat + 2 ^ 4 * (l.cache.getD (l.pad.extractLsb' 4 6)).toNat
    + 2 ^ 10 * (l.wait.getD (l.pad.extractLsb' 10 10)).toNat
    + 2 ^ 20 * ofBool l.sched.isSome + 2 ^ 21 * ofBool l.cache.isSome + 2 ^ 22 * ofBool l.wait.isSome + 2 ^ 23 * l.imx)
def Latch.toHimmx (l : Latch) : Word := word (l.mid.toNat + 2 ^ 26 * l.hi.toNat)
/-- HLATCH as written: reserved bits ignored, imx 3 stored as 2. The immediate bits stay. -/
def Latch.ofHlatch (l : Latch) (w : Word) : Latch :=
  { l with
    imx := if bits w 23 2 = 3 then 2 else bits w 23 2
    wait := if wbit w 22 then some (BitVec.ofNat 10 (bits w 10 10)) else none
    cache := if wbit w 21 then some (BitVec.ofNat 6 (bits w 4 6)) else none
    sched := if wbit w 20 then some (BitVec.ofNat 4 (bits w 0 4)) else none
    pad := BitVec.ofNat 20 (bits w 0 20) }
def Latch.ofHimmx (l : Latch) (w : Word) : Latch :=
  { l with mid := BitVec.ofNat 26 (bits w 0 26), hi := BitVec.ofNat 26 (bits w 26 26) }

/-! ### Tokens (R183) -/

/-- A command arms the token it names. -/
def Tok.arm (t : Tok) : Tok :=
  if t.st = .busy then { t with count := t.count + 1 } else ⟨.busy, t.count + 1, none, false⟩

/-- How a command leaves its token. -/
inductive Ending where
  | ok
  | faulted (cause : BitVec 8)
  | discarded
  deriving DecidableEq, Repr

/-- The count falls; at 0 the token takes the state its record gives. -/
def Tok.settle (t : Tok) (e : Ending) : Tok :=
  let t1 : Tok :=
    match e with
    | .ok => { t with kept := true }
    | .faulted c => { t with kept := true, cause := match t.cause with | some x => some x | none => some c }
    | .discarded => t
  let t2 := { t1 with count := t1.count - 1 }
  if t2.count = 0 ∧ t2.st = .busy then
    { t2 with st := if t2.cause.isSome then .fault else if t2.kept then .done else .dropped }
  else t2

/-- An operation of a context ends. A token of a live context settles, and leaving busy sets its event bit (R100); a failure after its
helper ended sets the status to kind 3, unless it records a fault or a kill (R96). -/
def State.settle (s : State) (k x : Nat) (t : Option Slot) (e : Ending) : State :=
  if (s.core k).live x then
    match t with
    | none => s
    | some t =>
      let c := s.ctx k x
      let t1 := (c.tok t).settle e
      s.setCtx k x { c.setTok t t1 with event := c.event || (t1.st != .busy) }
  else
    match kget (s.core k).ended x, e with
    | some d, .faulted cause =>
      if d.kind ≠ 1 ∧ d.kind ≠ 2 ∧ !d.drained then s.setCore k { s.core k with ended := kput (s.core k).ended x { d with kind := 3, cause := cause } } else s
    | _, _ => s

/-! ### Where a context stands -/

/-- The next stream index of a core (R236). -/
def Core.nextIdx (c : Core) : Nat :=
  match c.stream.buf with
  | w :: _ => w.idx
  | [] => c.stream.next

def Ctx.streamed (c : Ctx) : Bool := c.mode == .streamed

/-! ### Fault messages (Table 17.6) -/

/-- The 32 bytes of a fault message. -/
def faultBytes (time : Word) (flags terr fid reason kind ctx core : Nat) (pa va : Word) : List Byte :=
  leBytes 8 va.toNat ++ leBytes 8 pa.toNat ++ leBytes 2 core ++ leBytes 1 ctx ++ leBytes 1 kind ++ leBytes 1 reason
    ++ leBytes 1 fid ++ leBytes 1 terr ++ leBytes 1 flags ++ leBytes 8 time.toNat

/-- Sends a fault message about a core to its die supervisor (R315), on the system channel. -/
def State.report (s : State) (k : Nat) (flags fid reason kind ctx : Nat) (pa va : Word) : State :=
  s.send { src := .core k, dst := .core (supOf (dieOf k)), vc := 3, terr := s.tagOf k, fab := none,
           body := .fault (faultBytes (s.timeFor (s.terrOf k)) (flags + 1) (s.terrOf k) fid reason kind ctx k pa va), sentAt := s.now }

/-! ### Ending a helper (R96, R97) -/

/-- The commands that an engine has started and not finished, oldest first. -/
def Engine.started (e : Engine) : List Started := e.older ++ e.run.toList
/-- Every command of an engine, the started ones first. -/
def Engine.cmds (e : Engine) : List Cmd := e.started.map (·.cmd) ++ e.queue
/-- A context has a command of the engine under way. -/
def Engine.serves (e : Engine) (x : Nat) : Bool := e.started.any (fun r => r.cmd.ctx == x)
def Core.engines (c : Core) : List Engine := [c.vec, c.psh, c.mat, c.gau]

/-- What a core still has outstanding for a context: copies, stores and engine commands. -/
def Core.pending (c : Core) (x : Nat) : Bool :=
  c.outs.any (fun o => o.ctx == x && !o.wback) || c.aside.any (fun a => a.ctx == x)
    || c.engines.any (fun e => e.cmds.any (fun q => q.ctx == x)) || (c.seq.running && c.seq.owner == some x)

/-- Entries of the retirement tracker in use (R96). -/
def Core.retiring (c : Core) : Nat := (c.ended.filter (fun e => e.1 < 12 && !e.2.drained && c.pending e.1)).length

/-- The access under way has its effect on the way: nothing from outside breaks into it, and its context stands at no boundary. -/
def Ctx.committed (c : Ctx) : Bool :=
  c.acc.any (fun a => a.phase == 0 || (4 ≤ a.phase && a.phase ≤ 9 && a.phase ≠ 6 && a.phase ≠ 7) || 12 ≤ a.phase)
/-- UPRET.yield is under way: it has no boundary before its stop. -/
def phYield : Nat := 12
/-- The bridle has fired for the GANG that the context waits in, which completes before anything else (R238). -/
def phFired : Nat := 14
/-- The context is to stop, and has nothing left to do before the stop but to wait for its wide side (R92, R361). -/
def Ctx.yielding (c : Ctx) : Bool := c.stopping && c.acc.any (fun a => a.phase == phYield)
/-- A stop was asked for, and the context stands where it can take effect (R92): it issues nothing more. -/
def Ctx.halting (c : Ctx) : Bool := c.stopping && c.pkt.isNone && !c.committed && c.load.isNone

/-- A context waits in GRPBAR for a group: its access stands in the phase of group barriers, under the group's number. -/
def phGroup : Nat := 10
def Ctx.inGroup (c : Ctx) (gid : Nat) : Bool := c.acc.any (fun a => a.phase == phGroup && a.uid == gid)

/-- The arrivals of a core at the groups of its territory are withdrawn where no context of it waits there any more (R280). -/
def State.dropArrivals (s : State) (k : Nat) : State :=
  match s.tagOf k with
  | none => s
  | some t =>
    let waits (gid : Nat) : Bool := (s.core k).ctxs.any (fun c => c.2.inGroup gid)
    if (s.terr t).groups.all (fun g => !g.2.arrived.contains k || waits g.1) then s
    else s.setTerr t { s.terr t with groups := (s.terr t).groups.map (fun g =>
      if waits g.1 then g else (g.1, { g.2 with arrived := ndel g.2.arrived k })) }

/-- An open packet is given up: it holds its place on its channel no more (R195). -/
def State.dropPkt (s : State) (p : Option Pkt) : State :=
  match p with
  | some p => { s with net := s.net.filter (fun m => m.body ≠ .opening p.uid) }
  | none => s

/-- A context leaves the core (R86, R97): its children have no one left to join them, and the posts held for it and the claim of a stash
resize that it waited for go with it. -/
def Core.bury (c : Core) (x : Nat) : Core :=
  let orphan (p : Option Nat) : Option Nat := if p = some x then some 15 else p
  { c with
    ctxs := (kdel c.ctxs x).map (fun e => (e.1, { e.2 with parent := orphan e.2.parent }))
    ended := c.ended.map (fun e => (e.1, { e.2 with parent := orphan e.2.parent }))
    rx := { c.rx with posts := c.rx.posts.filter (fun p => p.ctx ≠ x) }
    spr := if (c.ctx x).acc.any (fun a => a.phase == 8) then { c.spr with stashBusy := false } else c.spr }

/-- Ends helper `x` of core `k` with a status (R97, R98). Its number stays allocated; what is outstanding drains later (R96). The open
packet, if any, is aborted and then recorded unless the status already holds a fault or a kill. A pair's record stays with its leader
(R277). -/
def State.endHelper (s : State) (k x kind : Nat) (cause : BitVec 8) : State :=
  let c := s.core k
  let h := c.ctx x
  let st : Nat × BitVec 8 := if h.pkt.isSome ∧ kind = 0 then (3, packetAbort) else (kind, cause)
  let b := c.bury x
  let c1 : Core :=
    { b with
      ended := kput b.ended x
        { kind := st.1, cause := st.2, parent := h.parent, drained := !(c.pending x) && h.parent.isSome, wide := h
          task := h.task.map (fun u => if u.pair.any (·.2) then { u with rec_ := [] } else u) } }
  let c2 : Core :=
    match h.parent with
    | some p => if c1.live p then c1.setCtx p { c1.ctx p with event := true } else c1
    | none => c1
  ((s.setCore k c2).dropPkt h.pkt).dropArrivals k

/-- What a context left outstanding goes on under another number. -/
def Core.retag (c : Core) (x y : Nat) : Core :=
  let cmd (q : Cmd) : Cmd := if q.ctx = x then { q with ctx := y } else q
  let run (r : Started) : Started := { r with cmd := cmd r.cmd }
  let eng (e : Engine) : Engine := { e with queue := e.queue.map cmd, run := e.run.map run, older := e.older.map run }
  { c with
    vec := eng c.vec, psh := eng c.psh, mat := eng c.mat, gau := eng c.gau
    outs := c.outs.map (fun o => if o.ctx = x then { o with ctx := y } else o)
    aside := c.aside.map (fun a => { a with ctx := if a.ctx = x then y else a.ctx, cmd := a.cmd.map cmd })
    seq := if c.seq.owner = some x then { c.seq with owner := some y } else c.seq }

/-- END of the ballonet (R97, R219): it returns to idle at once. What it left outstanding runs to its end under a number that no context has,
so that nothing of it reaches the next ballonet (R86). -/
def State.endBallonet (s : State) (k : Nat) : State :=
  let c := s.core k
  let h := c.ctx 11
  let b := c.bury 11
  let y := (((List.range (b.ended.length + 1)).map (23 + 12 * ·)).find? (fun y => (kget b.ended y).isNone)).getD 0
  let c1 : Core :=
    if c.pending 11 then
      { b.retag 11 y with ended := kput b.ended y { kind := 0, cause := 0, parent := none, drained := false, task := none, wide := h } }
    else b
  ((s.setCore k c1).dropPkt h.pkt).dropArrivals k

/-! ### Taking an exception (R89, R90) -/

/-- A context that traps with no enabled handler, or inside one, faults (R90). -/
def State.contextFault (s : State) (cause : BitVec 8) (eval : Word) : State :=
  let k := s.cur.1
  let x := s.cur.2
  let c := s.cx
  if 1 ≤ x ∧ x ≤ 10 then
    if (s.core k).pending x ∧ 16 ≤ (s.core k).retiring then s.setCx (c.setRun s.now (.parked .unit))
    else (s.setCx { c with spr := { c.spr with eval := eval } }).endHelper k x 1 cause
  else
    let c1 : Ctx :=
      { c.setRun s.now (.stopped .faulted) with
        spr := { c.spr with epc := word c.pc, ecause := cause, eval := eval }, rep := none, acc := none }
    (s.setCx c1).report k 0 0 cause.toNat 9 x (word c.pc) eval

/-- The context waits (R127): the instruction has had no effect and is tried again. -/
def State.park (s : State) (w : Wait) : State := s.setCx (s.cx.setRun s.now (.parked w))

/-- Trap entry (R89): the one operation by which a context takes a trap. A load under way takes effect first, so that its own trap, which
is the earlier one, comes first. -/
def State.trap (s : State) (cause : BitVec 8) (eval : Word) : State :=
  let c := s.cx
  if c.load.isSome then s.park .memory
  else if !(c.spr.tvec.getLsbD 0) || c.spr.inh then s.contextFault cause eval
  else
    s.setCx
      { c.setRun s.now .running with
        spr := { c.spr with epc := word c.pc, ecause := cause, eval := eval, hlatch := c.latch, plev := c.level, upc := false,
                            inh := true, str := c.mode != .loc }
        keeps := c.streamed
        latch := Latch.empty
        mode := .loc
        rep := none
        acc := none
        waited := false
        ahead := []
        pc := 4 * (c.spr.tvec.toNat / 4) }

/-- Resumes the stream at an index (R89, R236): words buffered before it are discarded; an index that has passed traps STREAM_LATE at entry; the
next index to come, or one not received yet, is awaited as a JOIN awaits it. Whether an index that is in the buffer no more has passed is
`late`. For ERET, R89 gives no outcome for an index not received yet nor for one above 16,383: that those act as R236 states for a restore
(LOCAL_BOUNDS, with EPC and EVAL the index) is a DESIGN CHOICE (log entry 75). -/
def State.resumeStream (s : State) (n : Nat) (late : Bool) : State :=
  let c := s.me
  let x := s.cx
  let rest := c.stream.buf.dropWhile (fun w => w.idx ≠ n)
  let s1 := s.setCx { x with mode := .streamed, pc := n }
  if n > 16383 then s1.trap localBounds (word n)
  else
    match rest with
    | _ :: _ => s1.setMe { s1.me with stream := { s1.me.stream with buf := rest } }
    | [] => if late then s1.trap streamLate (word n) else s.setCx { x with mode := .joining n, pc := n, run := .parked (.stream false) }

/-- An index that a handler returns to has left the buffer (R89): a stop has lost it, or it was received and is not the next to come. -/
def StreamBuf.left (b : StreamBuf) (n : Nat) : Bool := b.lost.contains n || (b.got.contains n && !(b.next == n && b.buf.isEmpty))

/-- The next slot is given up when the latch consumed carries HSCHED yld (R49). -/
def Ctx.gives (c : Ctx) : Bool := c.yld || (c.latch.sched.getD 0).getLsbD 3

/-- Return from an exception (R123, R361): latch and level are restored, the handler ends, and the context goes on at EPC. -/
def State.trapReturn (s : State) : State :=
  let c := s.cx.setRun s.now .running
  let c1 : Ctx :=
    { c with latch := c.spr.hlatch, level := c.spr.plev, spr := { c.spr with inh := false, upc := false }, acc := none, waited := false
             ahead := [], yld := c.gives }
  if c.spr.str then (s.setCx c1).resumeStream c.spr.epc.toNat (s.me.stream.left c.spr.epc.toNat)
  else s.setCx { c1 with pc := c.spr.epc.toNat, mode := .loc }

/-! ### How an instruction waits and completes -/

/-- The words fetched ahead that still are at most 4 words ahead of a PC (R147). -/
def Ctx.aheadOf (c : Ctx) (pc : Nat) : List (Nat × BitVec 32 × Bool) := c.ahead.filter (fun e => pc ≤ e.1 && e.1 ≤ pc + 12)

/-- What remains of the context when its instruction completes at `pc`: the latch consumed (R45), the next slot given up by HSCHED yld (R49). -/
def Ctx.complete (c : Ctx) (now pc : Nat) : Ctx :=
  { c.setRun now .running with
    pc := pc, latch := Latch.empty, acc := none, waited := false, yld := c.gives, ahead := c.aheadOf pc }

/-- The instruction completes and the next in order follows. Within REP (R117) the index register takes the next repetition's number and
the latch stays for it; in streamed mode the word leaves the buffer (R228). -/
def State.finish (s : State) : State :=
  let c := s.cx
  match c.rep with
  | some r =>
    let c1 := { c.setRun s.now .running with acc := none, waited := false, yld := c.gives }.setReg r.rd (word (r.i + 1))
    if r.i + 1 < r.n then s.setCx { c1 with rep := some { r with i := r.i + 1 } }
    else s.setCx ({ c1 with rep := none }.complete s.now (c.pc + 8))
  | none =>
    if c.streamed then
      let m := s.me
      let m1 := { m with stream := { m.stream with buf := m.stream.buf.drop 1 } }
      (s.setMe m1).setCx (c.complete s.now m1.nextIdx)
    else s.setCx (c.complete s.now (c.pc + 4))

/-- The instruction completes and control goes to `t` in local mode. -/
def State.jump (s : State) (t : Nat) : State := s.setCx (s.cx.complete s.now t)

/-- The word of an instruction, as EVAL holds it (R53). -/
def wordOf (i : Instr) : Word := word ((encodeNat i).getD 0)

/-- EVAL for an ILLEGAL_OP or PRIVILEGE trap (R53): the word, but the special register number for MFS and MTS. -/
def trapVal : Instr → Word
  | .mfs _ n | .mts _ n => n.zeroExtend 64
  | .linkRead _ l => word (20 + l.toNat)
  | .linkWrite _ l => word (24 + l.toNat)
  | .stashResize _ => 29
  | .hbtivWrite _ => 16
  | .nflagRead _ => 18
  | .illegalWord w => if w.toNat / 65536 / 1024 = 15 ∧ w.toNat / 2048 % 32 ≤ 1 then word (w.toNat % 2048) else word w.toNat
  | i => wordOf i

/-- Form I words accept an extended immediate (R46). -/
def formI : Instr → Bool
  | .addi .. | .andi .. | .ori .. | .xori .. | .shli .. | .shri .. | .srai .. | .sltsi .. | .sltni .. | .seqi .. | .muli .. | .ldi ..
  | .rep .. => true
  | _ => false

/-- The tokens that a mask selects, lowest first. -/
def tokensOf (mask : Nat) : List Slot := ((List.range 8).filter (fun k => mask / 2 ^ k % 2 = 1)).map (BitVec.ofNat 3)

/-- The completion condition of a token wait (R47, R185). -/
def Ctx.tokensDone (c : Ctx) (any : Bool) (sel : List Slot) : Bool :=
  sel.isEmpty || (if any then sel.any (fun t => (c.tok t).st != .busy) else sel.all (fun t => (c.tok t).st != .busy))

/-- The lowest selected token in fault (R185). -/
def Ctx.faultedTok (c : Ctx) (sel : List Slot) : Option Slot := sel.find? (fun t => (c.tok t).st == .fault)

/-- The HWAIT of the latch, before issue (R47): it waits for its tokens and traps on one in fault; a word that has met it goes on. -/
def State.hwait (s : State) (i : Instr) (body : State → State) : State :=
  let c := s.cx
  match c.latch.wait with
  | none => body s
  | some p =>
    let sel := tokensOf (p.toNat % 256)
    if c.waited then body s
    else if !c.tokensDone (p.getLsbD 8) sel then s.park (.tokens (p.getLsbD 9))
    else if (c.faultedTok sel).isSome then s.trap asyncFault (wordOf i)
    else body (s.setCx { c with waited := true })

/-- What every instruction word does first, in the order of R54: decode (accepted fields, a latch it can consume), the level, an address in
the core image that level U may not use (`image`, R128), and the HWAIT of its latch; then its body. While the queue that it needs is
full (`full`) the context is not ready (R127). -/
def State.issueWith (s : State) (i : Instr) (lv : Level) (full : State → Bool) (image : State → Option Nat) (body : State → State) : State :=
  let c := s.cx
  if !i.wf || (c.latch.imx != 0 && !formI i) then s.trap illegalOp (trapVal i)
  else if c.level.num < lv.num then s.trap privilege (trapVal i)
  else if full s then s.park .engine
  else
    match image s with
    | some a => s.trap privilege (word a)
    | none => s.hwait i body

/-- The same for a word that names no local address and needs no queue. -/
def State.issue (s : State) (i : Instr) (lv : Level) (body : State → State) : State :=
  s.issueWith i lv (fun _ => false) (fun _ => none) body

/-- Reads g register sources (R54 step 5, R87, R105): bad parity traps; an empty register parks, and so does one that a load is still to
write (R139). -/
def State.withRegs (s : State) (i : Instr) (rs : List Reg) (k : State → State) : State :=
  let c := s.cx
  if rs.any c.isBad then s.trap regParity (wordOf i)
  else
    match rs.find? (fun r => !c.isFull r || c.loading r) with
    | some r => s.park (if c.loading r then .memory else .reg r)
    | none => k s

/-- A scalar access waits until the context's load under way has taken effect (R139). -/
def State.afterLoad (s : State) (k : State → State) : State := if s.cx.load.isSome then s.park .memory else k s

/-- A trap whose entry writes something beside what every trap saves: nothing is written while the trap of an earlier load can still come
first. -/
def State.trapWith (s : State) (f : State → State) (cause : BitVec 8) (eval : Word) : State := s.afterLoad fun s => (f s).trap cause eval

/-- The emptying that `.take` adds when the instruction completes (R38). -/
def State.take (s : State) (w : Bool) (a : Reg) : State := if w then s.setCx (s.cx.empty a) else s

/-- Writes a destination register and completes. -/
def State.done (s : State) (d : Reg) (v : Word) : State := (s.setCx (s.cx.setReg d v)).finish

end Sys2Proof.Machine
end

