-- ==== Sys2Proof/Machine/Flags.lean ====
section
/-! DEFINITION. The scalar functions of Tables 6.2, 6.5, 6.6 and 7.9, and the sticky vector flags (Table 1.9). The scalar side sets no
flags (R105); the flags of this machine are the six bits of NFLAG. -/

namespace Sys2Proof.Machine

/-- A pattern read as signed (R107). -/
def sx (v : Word) : Int := v.toInt

/-- wrap(v, 64) (R7). -/
def wrapI (v : Int) : Word := BitVec.ofInt 64 v

/-- The functions of Table 6.2 with two sources. -/
inductive AluFn where
  | add | sub | and | or | xor | shl | shr | sra | rotl | mul | mulhs | mulhn | divs | divn | rems | remn
  | mins | minn | maxs | maxn | slts | sltn | seq | andn
  deriving DecidableEq, Repr

/-- DIVS: all ones by zero; the quotient truncated toward zero otherwise, wrapped. -/
def divS (a b : Word) : Word := if b = 0 then BitVec.allOnes 64 else wrapI ((sx a).tdiv (sx b))
/-- REMS: the dividend by zero; the remainder with the sign of the dividend otherwise. -/
def remS (a b : Word) : Word := if b = 0 then a else wrapI ((sx a).tmod (sx b))
def divN (a b : Word) : Word := if b = 0 then BitVec.allOnes 64 else word (a.toNat / b.toNat)
def remN (a b : Word) : Word := if b = 0 then a else word (a.toNat % b.toNat)

/-- Table 6.2. -/
def alu : AluFn → Word → Word → Word
  | .add, a, b => a + b
  | .sub, a, b => a - b
  | .and, a, b => a &&& b
  | .or, a, b => a ||| b
  | .xor, a, b => a ^^^ b
  | .shl, a, b => a <<< (b.toNat % 64)
  | .shr, a, b => a >>> (b.toNat % 64)
  | .sra, a, b => a.sshiftRight (b.toNat % 64)
  | .rotl, a, b => (a <<< (b.toNat % 64)) ||| (a >>> (64 - b.toNat % 64))
  | .mul, a, b => a * b
  | .mulhs, a, b => BitVec.ofInt 64 (sx a * sx b / 2 ^ 64)
  | .mulhn, a, b => word (a.toNat * b.toNat / 2 ^ 64)
  | .divs, a, b => divS a b
  | .divn, a, b => divN a b
  | .rems, a, b => remS a b
  | .remn, a, b => remN a b
  | .mins, a, b => if sx a ≤ sx b then a else b
  | .minn, a, b => if a.toNat ≤ b.toNat then a else b
  | .maxs, a, b => if sx a ≤ sx b then b else a
  | .maxn, a, b => if a.toNat ≤ b.toNat then b else a
  | .slts, a, b => if sx a < sx b then 1 else 0
  | .sltn, a, b => if a.toNat < b.toNat then 1 else 0
  | .seq, a, b => if a = b then 1 else 0
  | .andn, a, b => a &&& ~~~b

/-- One bits among the lowest `n`. -/
def popNat : Nat → Nat → Nat
  | 0, _ => 0
  | n + 1, v => v % 2 + popNat n (v / 2)
def popcount (a : Word) : Word := word (popNat 64 a.toNat)
/-- Zero bits below the lowest one, `n` when there is none. -/
def ctzNat : Nat → Nat → Nat
  | 0, _ => 0
  | n + 1, v => if v % 2 = 1 then 0 else 1 + ctzNat n (v / 2)
def ctz64 (a : Word) : Word := word (ctzNat 64 a.toNat)
/-- Zero bits above the highest one among the lowest `n`. -/
def clzNat : Nat → Nat → Nat
  | 0, _ => 0
  | n + 1, v => if v / 2 ^ n % 2 = 1 then 0 else 1 + clzNat n v
def clz64 (a : Word) : Word := word (clzNat 64 a.toNat)

/-- The functions of Table 6.5 that read a register. -/
inductive AluiFn where
  | add | and | or | xor | shl | shr | sra | slts | sltn | seq | mul
  deriving DecidableEq, Repr

/-- Table 6.5. A shift amount above 63 is refused before (R109). -/
def alui : AluiFn → Word → Word → Word
  | .add, a, i => a + i
  | .and, a, i => a &&& i
  | .or, a, i => a ||| i
  | .xor, a, i => a ^^^ i
  | .shl, a, i => a <<< i.toNat
  | .shr, a, i => a >>> i.toNat
  | .sra, a, i => a.sshiftRight i.toNat
  | .slts, a, i => if sx a < sx i then 1 else 0
  | .sltn, a, i => if a.toNat < i.toNat then 1 else 0
  | .seq, a, i => if a = i then 1 else 0
  | .mul, a, i => a * i

def AluiFn.isShift : AluiFn → Bool
  | .shl | .shr | .sra => true
  | _ => false

/-- The value conditions of Table 6.6. -/
inductive Cond where
  | eqz | nez | ltz | gez | gtz | lez
  deriving DecidableEq, Repr

def Cond.holds : Cond → Word → Bool
  | .eqz, v => sx v == 0
  | .nez, v => sx v != 0
  | .ltz, v => sx v < 0
  | .gez, v => 0 ≤ sx v
  | .gtz, v => 0 < sx v
  | .lez, v => sx v ≤ 0

/-- The atomic functions of Table 7.9. -/
inductive AmoFn where
  | add | swap | cas | mins | maxs | minn | maxn | and | or | xor
  deriving DecidableEq, Repr

/-- The codes of Table 7.9, as a request carries them. -/
def AmoFn.code : AmoFn → Nat
  | .add => 0
  | .swap => 1
  | .cas => 2
  | .mins => 3
  | .maxs => 4
  | .minn => 5
  | .maxn => 6
  | .and => 7
  | .or => 8
  | .xor => 9
def AmoFn.ofCode : Nat → AmoFn
  | 0 => .add
  | 1 => .swap
  | 2 => .cas
  | 3 => .mins
  | 4 => .maxs
  | 5 => .minn
  | 6 => .maxn
  | 7 => .and
  | 8 => .or
  | _ => .xor

/-- An `n`-byte number read as signed. -/
def signedN (n v : Nat) : Int := if v < 2 ^ (8 * n - 1) then v else (v : Int) - 2 ^ (8 * n)

/-- Table 7.9: the new value of an `n`-byte word from the old value, the operand and the compare value, each below 2^(8n). -/
def amo (f : AmoFn) (n old b cmp : Nat) : Nat :=
  match f with
  | .add => (old + b) % 2 ^ (8 * n)
  | .swap => b
  | .cas => if old = cmp then b else old
  | .mins => if signedN n old ≤ signedN n b then old else b
  | .maxs => if signedN n old ≤ signedN n b then b else old
  | .minn => min old b
  | .maxn => max old b
  | .and => old &&& b
  | .or => old ||| b
  | .xor => old ^^^ b

/-- The NFLAG bits (Table 1.9) by position. -/
def orFlags (c : Ctx) (f : BitVec 6) : Ctx := { c with spr := { c.spr with nflag := c.spr.nflag ||| f } }

end Sys2Proof.Machine
end

