-- ==== Sys2Proof/Machine/Operands.lean ====
section
/-! DEFINITION. The operand forms: immediates (R39), the steps of REP (R116), effective addresses (R40), the checks of local addresses
(R128) and of control-transfer targets (R34). -/

namespace Sys2Proof.Machine

/-- What REP adds to an immediate or an offset in the repetition under way (R116). -/
def Ctx.repDelta (c : Ctx) : Nat :=
  match c.rep with
  | some r => if r.smask.getLsbD 0 then r.step * r.i else 0
  | none => 0

/-- The immediate of a Form I word (R39) with the latch's HIMM bits, stepped by REP (R116). -/
def Ctx.imm (c : Ctx) (i : BitVec 12) : Word :=
  (if c.latch.imx = 0 then i.signExtend 64
   else if c.latch.imx = 1 then (c.latch.mid ++ i : BitVec 38).signExtend 64
   else (c.latch.hi ++ c.latch.mid ++ i : BitVec 64)) + word c.repDelta

/-- The trapping word of a Form I instruction (R53): in a repetition, the target as stepped (R117), with what its field holds of the immediate. -/
def Ctx.wordImm (c : Ctx) (i : Instr) (m : BitVec 12) : Word :=
  match c.rep with
  | none => wordOf i
  | some _ => word ((wordOf i).toNat - m.toNat + (m.toNat + c.repDelta) % 4096)

/-- The effective address of a Form M word (R40), its offset field stepped by REP (R116). -/
def Ctx.ea (c : Ctx) (b : Reg) (z : BitVec 2) (f : BitVec 11) : Word :=
  c.reg b + wrapI ((f.toInt + c.repDelta) * 2 ^ z.toNat)

/-- Bytes of an access (R40). -/
def sizeOf (z : BitVec 2) : Nat := 2 ^ z.toNat

/-- The stash's size in bytes (Table 7.3). -/
def stashBytes : Nat → Nat
  | 1 => 16384
  | 2 => 32768
  | 3 => 65536
  | 4 => 131072
  | _ => 0
def Core.stashBase (c : Core) : Nat := 0x60000 - stashBytes c.spr.stash.toNat
/-- Sets of the stash (Table 7.3). -/
def Core.stashSets (c : Core) : Nat := stashBytes c.spr.stash.toNat / 512

/-- Whether bytes a to a + n − 1 touch the core image (Table 7.2). -/
def inImage (a n : Nat) : Bool := a < 0x20000 && 0x1E000 < a + n

/-- The check of a local extent of `n` bytes aligned to `al` (R128, R54): the first failing cause, or none. -/
def Core.localCheck (c : Core) (lv : Level) (a n al : Nat) : Option (BitVec 8) :=
  if inImage a 1 && lv == .u then some privilege
  else if a % al ≠ 0 then some misaligned
  else if inImage a n && lv == .u then some privilege
  else if c.stashBase < a + n then some localBounds
  else none

/-- The check of an object address (R186, R188): the core image traps LOCAL_BOUNDS at every level. -/
def Core.objectCheck (c : Core) (a : Nat) : Option (BitVec 8) :=
  if a % 16 ≠ 0 then some misaligned
  else if inImage a 16 || c.stashBase < a + 16 then some localBounds
  else none

/-- The check of a control-transfer target (R34). -/
def targetCheck (t : Nat) : Option (BitVec 8) :=
  if t % 4 ≠ 0 then some misaligned else if 0x8000 ≤ t then some localBounds else none

/-- Goes to a target after its check (R34); EVAL holds the target. -/
def State.transfer (s : State) (t : Word) (k : State → State) : State :=
  match targetCheck t.toNat with
  | some c => s.trap c t
  | none => k s

/-- A PC-relative target (R110, R112): the address of the word plus four times the offset, modulo 2^64. -/
def relTarget (pc : Nat) (off : Int) : Word := wrapI (pc + 4 * off)

/-- The local extent lies in the core image and the level may not use it (R128): the address that EVAL then holds. -/
def Ctx.imageAt (c : Ctx) (a n : Nat) : Option Nat := if c.level == .u && inImage a n then some a else none

/-- A word that names a local address in registers: its rights in the core image are checked before its HWAIT (R47, R54), once the registers
that give the address hold their values. -/
def State.issueLocal (s : State) (i : Instr) (lv : Level) (rs : List Reg) (at_ : Ctx → List Nat) (body : State → State) : State :=
  s.issueWith i lv (fun _ => false)
    (fun s => if rs.all (fun r => s.cx.isFull r && !s.cx.isBad r && !s.cx.loading r) then (at_ s.cx).findSome? (fun a => s.cx.imageAt a 1)
      else none) body

/-- The words that are no part of a stream (R114, R117, R147, R196, R240). -/
def State.notStreamed (s : State) (i : Instr) (k : State → State) : State :=
  if s.cx.streamed then s.trap illegalOp (wordOf i) else k s

/-- The register sources of a word that is no part of a stream: bad parity ranks first (R54), and a streamed context does not wait for an empty
register. -/
def State.withLocalRegs (s : State) (i : Instr) (rs : List Reg) (k : State → State) : State :=
  if rs.any s.cx.isBad then s.trap regParity (wordOf i) else s.notStreamed i fun s => s.withRegs i rs k

end Sys2Proof.Machine
end

