-- ==== Sys2Proof/Machine/Rep.lean ====
section
/-! DEFINITION. REP (R115 to R118): it checks its target and leaves the repetition in the context; each later slot of the context runs the
target once, stepped, until the count is reached. -/

namespace Sys2Proof.Machine

/-- The slots of Table 6.12 whose fields an instruction's entry uses: slots 1 to 4, then the immediate, as in Table 6.11. -/
def repSlots : Instr → BitVec 5
  | .sel .. | .madd .. | .vadd .. | .vsub .. | .vmul .. | .vfma .. | .vmin .. | .vmax .. | .vand .. | .vor .. | .vxor ..
  | .vshl .. | .vshr .. | .vsra .. | .vcvt .. | .vsel .. | .vadds .. | .vsubs .. | .vmulh .. | .vceq .. | .vcne .. | .vclt ..
  | .vcle .. | .vcgt .. | .vcge .. | .vcun .. | .vperm .. | .vgath .. | .vscat .. | .push .. | .pushg .. | .pushs .. | .pushl ..
  | .rpost .. | .mma .. | .mmag .. | .mdrain .. | .gacc .. | .gsub .. | .gdamp .. => 0b11110
  | .add .. | .sub .. | .andR .. | .orR .. | .xorR .. | .shl .. | .shr .. | .sra .. | .rotl .. | .mul .. | .mulhs .. | .mulhn ..
  | .divs .. | .divn .. | .rems .. | .remn .. | .mins .. | .minn .. | .maxs .. | .maxn .. | .slts .. | .sltn .. | .seq ..
  | .andn .. | .aadd .. | .aswap .. | .acas .. | .amins .. | .amaxs .. | .aminn .. | .amaxn .. | .aand .. | .aor .. | .axor ..
  | .aaddg .. | .aswapg .. | .acasg .. | .aminsg .. | .amaxsg .. | .aminng .. | .amaxng .. | .aandg .. | .aorg .. | .axorg ..
  | .sbind .. | .mand .. | .mor .. | .mxor .. | .pset .. => 0b11100
  | .vabs .. | .vneg .. | .vrcp .. | .vrsq .. | .vexp2 .. | .vlog2 .. | .vmov .. | .vclamp .. | .vcomp .. | .barwait ..
  | .sndo .. | .gelim .. | .gmean .. | .greg .. | .gcopy .. => 0b11010
  | .addi .. | .andi .. | .ori .. | .xori .. | .shli .. | .shri .. | .srai .. | .sltsi .. | .sltni .. | .seqi .. | .muli ..
  | .ld .. | .st .. | .ldg .. | .stg .. | .mbpop .. | .mbpopSpill .. | .grpbar .. | .tkey .. => 0b11001
  | .clz .. | .ctz .. | .popc .. | .sunbind .. | .mnot .. | .mset .. | .pget .. | .padd .. | .pstep .. | .bartest .. | .mbpeek ..
  | .mbcnt .. | .lbk .. | .grpinfo .. | .post .. => 0b11000
  | .tdset .. | .tdget .. | .tdstate .. | .tdbind .. => 0b10100
  | .vsplat .. | .mldb .. => 0b10010
  | .ldi .. | .mfs .. | .linkRead .. | .nflagRead .. => 0b10001
  | .qpop .. | .qcnt .. | .tddrop .. | .ttest .. | .sndw .. => 0b10000
  | .mprog .. | .gresid .. => 0b01110
  | .sflush .. | .sinval .. | .barinit .. | .barexp .. | .baradd .. => 0b01100
  | .vred .. | .mzero .. | .mchk .. | .gsend .. => 0b01010
  | .mts .. | .linkWrite .. | .stashResize .. | .hbtivWrite .. => 0b01001
  | .acquire .. | .release .. | .mpop .. | .many .. | .mall .. | .mget .. | .qpush .. => 0b01000
  | .gdset .. | .gdwait .. => 0b00100
  | .twait .. | .tclr .. => 0b00001
  | _ => 0

/-- The slots that a form has (Table 6.12), by major. A target whose major has no form, 0x26 to 0x2F or 0x34 to 0x3F, or whose func no entry has, lacks
none of slots 1 to 4, so that repetition 0 traps and EPC is that of REP (DESIGN CHOICE, log entry 98). -/
def formSlots (major : Nat) : BitVec 5 :=
  if major = 0x01 || (0x08 ≤ major && major ≤ 0x0B) || major = 0x0F || major = 0x18 || (0x1C ≤ major && major ≤ 0x1F) then 0b11001
  else if 0x0C ≤ major && major ≤ 0x0E then 0b11100
  else 0b11110

/-- The bits of a word that select its entry (R35, R41). -/
def entryBits (major : Nat) : Nat :=
  0xFC000000 + (if major = 0x01 then 0xF000 else if 0x0C ≤ major && major ≤ 0x0E then 0x780
    else if major = 0x0F || major = 0x18 || (0x1C ≤ major && major ≤ 0x1F) then 0xF800
    else if major = 0x16 || major = 0x17 || major = 0x1A || major = 0x1B || major = 0x22 || major = 0x23 then 0x1F
    else if 0x08 ≤ major && major ≤ 0x0B then 0 else 0x3E0)

/-- The slots that a target's entry uses (R117), also where a reserved field keeps the word from decoding. -/
def targetSlots (w : BitVec 32) : BitVec 5 :=
  let major := w.toNat / 67108864
  match decode w with
  | some x => repSlots x
  | none =>
    match decode (w &&& BitVec.ofNat 32 (entryBits major)) with
    | some x => repSlots x
    | none => formSlots major

/-- The majors that REP refuses as a target (R117). -/
def repRefuses (major : Nat) : Bool :=
  (0x02 ≤ major && major ≤ 0x07) || major == 0x1E || major == 0x20 || major == 0x21 || major == 0x24 || major == 0x25
    || (0x30 ≤ major && major ≤ 0x33)

/-- A field of a word replaced by (f + add) modulo `md` (R116): `lo` and `wd` place it. -/
def stepField (w lo wd md add : Nat) : Nat :=
  let f := w / 2 ^ lo % 2 ^ wd
  w - f * 2 ^ lo + (f + add) % md * 2 ^ lo

/-- Where slot `j` (1 to 4) of a major lies and the size of the file it names (Tables 2.1 to 2.13, R36). -/
def slotPlace (major func j : Nat) : Nat × Nat × Nat :=
  if 0x10 ≤ major && major ≤ 0x12 then
    (if j = 1 then 23 else if j = 2 then 20 else if j = 3 then 17 else 14, 3, 8)
  else if major = 0x23 then
    (if j = 1 then 23 else if j = 2 then 20 else if j = 3 then 17 else 8, 3, 8)
  else if j = 4 then (if major = 0x00 || (0x13 ≤ major && major ≤ 0x15) || major = 0x19 then (0, 5, 32) else (8, 3, 8))
  else
    let lo := if j = 1 then 21 else if j = 2 then 16 else 11
    -- mask fields of MASK but for MSET's ra, and pointer fields of PTR
    let small := (major == 0x13 && !(func == 7 && j == 2)) || (major == 0x14 && (if func = 1 then j == 2 else j == 1))
    (lo, 5, if small then 8 else 32)

/-- The target as repetition `r.i` runs it (R116): register fields stepped in the word, and the immediate of Form Z. The immediate of
Form I and the offset of Form M, which the word cannot hold, are stepped where they are read (`Ctx.imm`, `Ctx.ea`). -/
def stepWord (r : RepSt) : BitVec 32 :=
  let w := r.word.toNat
  let major := w / 67108864
  let func := w / 32 % 32
  let add := r.step * r.i
  let one (w j : Nat) : Nat :=
    if r.smask.getLsbD (5 - j) then
      let p := slotPlace major func j
      stepField w p.1 p.2.1 p.2.2 add
    else w
  let w4 := one (one (one (one w 1) 2) 3) 4
  let z := major = 0x0F || major = 0x18 || (0x1C ≤ major && major ≤ 0x1F)
  BitVec.ofNat 32 (if z && r.smask.getLsbD 0 then stepField w4 0 11 2048 add else w4)

/-- The repetition's Form Z immediate outgrew its field: no entry accepts it (R116). -/
def RepSt.overflows (r : RepSt) : Bool :=
  let major := r.word.toNat / 67108864
  (major == 0x0F || major == 0x18 || (0x1C ≤ major && major ≤ 0x1F)) && r.smask.getLsbD 0
    && 2047 < r.word.toNat % 2048 + r.step * r.i

/-- The instruction that a context with a repetition in progress runs next. -/
def RepSt.instr (r : RepSt) : Instr := if r.overflows then .illegalWord (stepWord r) else decodeOr (stepWord r)

/-- A word of the instruction store (R33). -/
def Core.fetch (c : Core) (a : Nat) : BitVec 32 := BitVec.ofNat 32 (mnat c.istore a 4)

/-- The word that a context fetches at an address, and whether it is uncorrectable: as it was fetched ahead (R147), or as the store holds it. -/
def State.wordAt (s : State) (a : Nat) : BitVec 32 × Bool := (kget s.cx.ahead a).getD (s.me.fetch a, s.me.ibad.contains (a / 4))

/-- Reads the word at a local address in instruction order (R34, R149): past the store it traps LOCAL_BOUNDS at 0x8000, and an
uncorrectable word traps UNCORRECTABLE at its own address. -/
def State.fetchAt (s : State) (a : Nat) (k : BitVec 32 → State → State) : State :=
  let here (s : State) : State := s.setCx { s.cx with pc := a }
  if 0x8000 ≤ a then s.trapWith here localBounds (word a)
  else if (s.wordAt a).2 then s.trapWith here uncorrectable (word a)
  else k (s.wordAt a).1 s

/-- REP (R117). It does not consume the latch (R50), so it does not wait for a latched HWAIT. -/
def execRep (d a m : BitVec 5) (t : BitVec 4) (s : State) : Res :=
  let i : Instr := .rep d a m t
  .next (
    if !i.wf then s.trap illegalOp (wordOf i)
    else s.withLocalRegs i [a, d] fun s =>
      let n := (s.cx.reg a).toNat
      let j := (s.cx.reg d).toNat
      s.fetchAt (s.cx.pc + 4) fun w s =>
        if n ≤ j then s.setCx ({ s.cx with latch := Latch.empty }.complete s.now (s.cx.pc + 8))
        else
          if repRefuses (w.toNat / 67108864) || m &&& ~~~(targetSlots w) != 0 then
            s.trapWith (fun s => s.setCx { s.cx with pc := s.cx.pc + 4 }) illegalOp (word w.toNat)
          else
            s.setCx { s.cx.setRun s.now .running with
                      rep := some { word := w, smask := m, step := t.toNat, rd := d, n := n, i := j } })

end Sys2Proof.Machine
end

