-- ==== Sys2Proof/Machine/Wide.lean ====
section
/-! DEFINITION. Issuing wide-side commands (R173): which engine takes a word, what it captures and checks at issue (R152, R153, R178, R179,
R189, R190, R203, R254, R255, R257, R259), its token and guard (R42), its place in the queue, and the granules it touches (R132). -/

namespace Sys2Proof.Machine

/-! ### Tensor descriptors (Table 9.4) -/

/-- Element bits of a format code (Table 1.1). -/
def fmtBits (f : Nat) : Nat :=
  if f ≤ 1 then 32
  else if f = 2 ∨ f = 3 ∨ f = 10 then 16
  else if f = 7 ∨ f = 8 ∨ f = 21 ∨ f = 22 then 6
  else if f = 9 ∨ f = 13 ∨ f = 14 ∨ f = 17 ∨ f = 23 ∨ f = 24 ∨ f = 26 then 4
  else if f = 15 ∨ f = 16 ∨ f = 18 ∨ f = 27 then 2
  else 8

/-- The column multiple of a format (Table 1.2). -/
def fmtCols (f : Nat) : Nat :=
  if f = 9 ∨ f = 13 ∨ f = 14 ∨ f = 17 then 2
  else if f = 7 ∨ f = 8 ∨ f = 15 ∨ f = 16 then 4
  else if f = 24 then 64
  else if 18 ≤ f ∧ f ≤ 27 then 32
  else 1

/-- Scale record size, block and base alignment (Table 1.3); block 0 for a format without block scales. -/
def fmtScale (f : Nat) : Nat × Nat × Nat :=
  if f = 24 then (4, 64, 4)
  else if f = 26 then (4, 32, 4)
  else if f = 27 then (2, 32, 4)
  else if 18 ≤ f ∧ f ≤ 25 then (1, 32, 4)
  else if f = 17 then (32, 0, 32)
  else (0, 0, 1)

abbrev TDesc := BitVec 256
def TDesc.f (d : TDesc) (lo n : Nat) : Nat := d.toNat / 2 ^ lo % 2 ^ n
def TDesc.base (d : TDesc) : Nat := d.f 0 64
def TDesc.sbase (d : TDesc) : Nat := d.f 64 48
def TDesc.rows (d : TDesc) : Nat := d.f 112 16
def TDesc.list (d : TDesc) : Nat := d.f 128 48
def TDesc.cols (d : TDesc) : Nat := d.f 176 16
def TDesc.stride (d : TDesc) : Nat := d.f 192 32
def TDesc.bar (d : TDesc) : Nat := 16 * d.f 226 16
def TDesc.fmt (d : TDesc) : Nat := d.f 242 5
def TDesc.loc (d : TDesc) : Bool := d.f 247 1 == 1
def TDesc.sloc (d : TDesc) : Bool := d.f 248 1 == 1
def TDesc.lloc (d : TDesc) : Bool := d.f 249 1 == 1
def TDesc.bk (d : TDesc) : Nat := d.f 250 3
def TDesc.bnd (d : TDesc) : Bool := d.f 253 1 == 1
/-- 0 empty, 1 filling, 2 ready, 3 draining. -/
def TDesc.st (d : TDesc) : Nat := d.f 254 2
/-- Bytes of a row (R178). -/
def TDesc.rowBytes (d : TDesc) : Nat := d.cols * fmtBits d.fmt / 8
/-- The span from base to the last byte (R178). -/
def TDesc.span (d : TDesc) : Nat := (d.rows - 1) * d.stride + d.rowBytes
/-- Bytes of scale records (R16). -/
def TDesc.scaleSpan (d : TDesc) : Nat :=
  let sc := fmtScale d.fmt
  if sc.2.1 = 0 then sc.1 else d.rows * (d.cols / sc.2.1) * sc.1
/-- With its state bits set. -/
def TDesc.withSt (d : TDesc) (st : Nat) : TDesc := BitVec.ofNat 256 (d.toNat % 2 ^ 254 + st * 2 ^ 254)

/-- Descriptor k stands in the core image (Table 9.3). -/
def Core.td (c : Core) (k : Nat) : TDesc := BitVec.ofNat 256 (mnat c.lmem (0x1E000 + 32 * k) 32)
/-- Its state bits change; poison stays, since no word is written whole. -/
def Core.setTdSt (c : Core) (k st : Nat) : Core := { c with lmem := mputNat c.lmem (0x1E000 + 32 * k) 32 ((c.td k).withSt st).toNat }
/-- It is written whole, which heals its words (R150). -/
def Core.setTd (c : Core) (k : Nat) (d : TDesc) : Core :=
  { c with lmem := mputNat c.lmem (0x1E000 + 32 * k) 32 d.toNat, lbad := heal c.lbad (0x1E000 + 32 * k) 32 }
/-- A word of it is poisoned. -/
def Core.tdBad (c : Core) (k : Nat) : Bool := touchesBad c.lbad (0x1E000 + 32 * k) 32

/-- The local extents of a descriptor: address, length. -/
def TDesc.locals (d : TDesc) : List (Nat × Nat) :=
  (if d.loc then [(d.base, d.span)] else []) ++ (if d.sloc && d.scaleSpan != 0 then [(d.sbase, d.scaleSpan)] else [])
    ++ (if d.lloc && d.list != 0 then [(d.list, 64)] else [])

/-- A local extent clears the stash (R178). -/
def Core.clearsStash (c : Core) (d : TDesc) : Bool := d.locals.all (fun e => e.1 + e.2 ≤ c.stashBase)

/-! ### Vector operands (Table 8.1) -/

/-- Bytes of a vector element (R20): i8, n8, i16, n16, i32, n32, f16, bf16, f32, e4m3, e5m2. -/
def tyBytes (t : Nat) : Nat :=
  if t = 0 ∨ t = 1 ∨ t = 9 ∨ t = 10 then 1 else if t = 4 ∨ t = 5 ∨ t = 8 then 4 else 2

/-- A use of a pointer by a command: the pointer, the extent's length and alignment, whether it is written, and whether it is read. -/
structure PtrUse where
  p : Ptr
  len : Nat
  al : Nat
  wr : Bool
  deriving DecidableEq, Repr

/-- An element vector of a type (Table 8.1). -/
def vecUse (p : Ptr) (t : BitVec 4) (wr : Bool) : PtrUse := ⟨p, 16 * tyBytes t.toNat, 16 * tyBytes t.toNat, wr⟩

/-- Bytes of a Gaussian block of dimension n (R201). -/
def blockBytes (n : Nat) : Nat := 4 * n + 2 * n * (n + 1)
def blockUse (p : Ptr) (n : Nat) (wr : Bool) : PtrUse := ⟨p, blockBytes n, 16, wr⟩

/-- The pointers a vector or Gaussian command uses, in the order pd, pa, pb (R153, R203). -/
def ptrUses : Instr → List PtrUse
  | .vadd d a b _ t _ _ | .vsub d a b _ t _ _ | .vmul d a b _ t _ _ | .vfma d a b _ t _ _ | .vmin d a b _ t _ _
  | .vmax d a b _ t _ _ | .vand d a b _ t _ _ | .vor d a b _ t _ _ | .vxor d a b _ t _ _ | .vshl d a b _ t _ _
  | .vshr d a b _ t _ _ | .vsra d a b _ t _ _ | .vadds d a b _ t _ _ | .vsubs d a b _ t _ _ | .vmulh d a b _ t _ _
  | .vperm d a b _ t _ _ => [vecUse d t true, vecUse a t false, vecUse b t false]
  | .vsel d a b _ t _ => [vecUse d t true, vecUse a t false, vecUse b t false]
  | .vabs d a _ t _ _ | .vneg d a _ t _ _ | .vrcp d a _ t _ _ | .vrsq d a _ t _ _ | .vexp2 d a _ t _ _ | .vlog2 d a _ t _ _
  | .vmov d a _ t _ _ | .vclamp d a _ t _ _ => [vecUse d t true, vecUse a t false]
  | .vcomp d a _ t _ _ _ => [vecUse d t true, vecUse a t false]
  | .vcvt d a u _ t _ _ v _ => [vecUse d (u ++ BitVec.ofBool v) true, vecUse a t false]
  | .vsplat d _ t _ _ => [vecUse d t true]
  | .vceq _ a b _ t _ _ | .vcne _ a b _ t _ _ | .vclt _ a b _ t _ _ | .vcle _ a b _ t _ _ | .vcgt _ a b _ t _ _
  | .vcge _ a b _ t _ _ | .vcun _ a b _ t _ _ => [vecUse a t false, vecUse b t false]
  | .vred a _ t _ _ => [vecUse a t false]
  | .vgath d a b _ t _ _ =>
    [vecUse d t true, ⟨a, 4096 * tyBytes t.toNat, tyBytes t.toNat, false⟩, ⟨b, 32, 32, false⟩]
  | .vscat d a b _ t _ =>
    [⟨d, 4096 * tyBytes t.toNat, tyBytes t.toNat, true⟩, vecUse a t false, ⟨b, 32, 32, false⟩]
  | .gacc d a b n _ _ | .gsub d a b n _ _ | .gdamp d a b n _ _ =>
    [blockUse d (n.toNat + 1) true, blockUse a (n.toNat + 1) false, blockUse b (n.toNat + 1) false]
  | .gelim d a k e _ _ => [blockUse d (k.toNat + 1) true, blockUse a (k.toNat + e.toNat + 2) false]
  | .gmean d a n _ _ => [⟨d, 4 * (n.toNat + 1), 16, true⟩, blockUse a (n.toNat + 1) false]
  | .gresid a b n _ _ => [blockUse a (n.toNat + 1) false, blockUse b (n.toNat + 1) false]
  | .greg d a n _ _ | .gcopy d a n _ _ => [blockUse d (n.toNat + 1) true, blockUse a (n.toNat + 1) false]
  | .gsend a n _ _ => [blockUse a (n.toNat + 1) false]
  | _ => []

/-- Post-increment (R152). -/
def incOf : Instr → Bool
  | .vadd _ _ _ _ _ i _ | .vsub _ _ _ _ _ i _ | .vmul _ _ _ _ _ i _ | .vfma _ _ _ _ _ i _ | .vmin _ _ _ _ _ i _
  | .vmax _ _ _ _ _ i _ | .vand _ _ _ _ _ i _ | .vor _ _ _ _ _ i _ | .vxor _ _ _ _ _ i _ | .vshl _ _ _ _ _ i _
  | .vshr _ _ _ _ _ i _ | .vsra _ _ _ _ _ i _ | .vadds _ _ _ _ _ i _ | .vsubs _ _ _ _ _ i _ | .vmulh _ _ _ _ _ i _
  | .vperm _ _ _ _ _ i _ | .vgath _ _ _ _ _ i _ => i
  | .vsel _ _ _ _ _ i | .vscat _ _ _ _ _ i => i
  | .vabs _ _ _ _ i _ | .vneg _ _ _ _ i _ | .vrcp _ _ _ _ i _ | .vrsq _ _ _ _ i _ | .vexp2 _ _ _ _ i _ | .vlog2 _ _ _ _ i _
  | .vmov _ _ _ _ i _ | .vclamp _ _ _ _ i _ => i
  | .vcomp _ _ _ _ i _ _ => i
  | .vcvt _ _ _ _ _ i _ _ _ => i
  | .vsplat _ _ _ i _ => i
  | .vceq _ _ _ _ _ i _ | .vcne _ _ _ _ _ i _ | .vclt _ _ _ _ _ i _ | .vcle _ _ _ _ _ i _ | .vcgt _ _ _ _ _ i _
  | .vcge _ _ _ _ _ i _ | .vcun _ _ _ _ _ i _ => i
  | .vred _ _ _ i _ => i
  | _ => false

/-! ### What a command names -/

/-- The engine of a wide-side word (R173). -/
def engOf : Instr → Eng
  | .push .. | .pushg .. | .pushs .. | .pushl .. => .push
  | .mma .. | .mmag .. | .mzero .. | .mdrain .. | .mldb .. | .mprog .. | .mchk .. => .mat
  | .gacc .. | .gsub .. | .gelim .. | .gdamp .. | .gmean .. | .gresid .. | .greg .. | .gsend .. | .gcopy .. => .gau
  | _ => .vec

/-- A captured hint word (R50): it places no command. -/
def Cmd.hint (q : Cmd) : Bool := match q.instr with | .hwait .. | .hcache .. | .hsched .. => true | _ => false

/-- The token a command arms (R42). Vector and mask commands arm none (R174). -/
def tokOf : Instr → Option Slot
  | .push _ _ _ t _ | .pushg _ _ _ t _ | .pushs _ _ _ t _ | .pushl _ _ _ t _ => some t
  | .mma _ _ _ _ _ t _ | .mmag _ _ _ _ _ t _ => some t
  | .mzero _ t _ | .mchk _ t _ => some t
  | .mdrain _ _ _ t _ => some t
  | .mldb _ t _ => some t
  | .mprog _ _ t _ => some t
  | .gacc _ _ _ _ t _ | .gsub _ _ _ _ t _ | .gdamp _ _ _ _ t _ => some t
  | .gelim _ _ _ _ t _ => some t
  | .gmean _ _ _ t _ | .gresid _ _ _ t _ | .greg _ _ _ t _ | .gcopy _ _ _ t _ => some t
  | .gsend _ _ t _ => some t
  | _ => none

/-- The guard slot a command is queued under (R42); 0 is c0. -/
def guardOf : Instr → Slot
  | .push _ _ _ _ c | .pushg _ _ _ _ c | .pushs _ _ _ _ c | .pushl _ _ _ _ c => c
  | .mma _ _ _ _ _ _ u | .mmag _ _ _ _ _ _ u => u
  | .mzero _ _ u | .mchk _ _ u => u
  | .mdrain _ _ _ _ u => u
  | .mldb _ _ u => u
  | .mprog _ _ _ u => u
  | .gacc _ _ _ _ _ u | .gsub _ _ _ _ _ u | .gdamp _ _ _ _ _ u => u
  | .gelim _ _ _ _ _ u => u
  | .gmean _ _ _ _ u | .gresid _ _ _ _ u | .greg _ _ _ _ u | .gcopy _ _ _ _ u => u
  | .gsend _ _ _ u => u
  | _ => 0

/-- The descriptor a command names and whether it names it as written (R179). -/
def tdOf : Instr → Option (Nat × Bool)
  | .push a _ _ _ _ | .pushg a _ _ _ _ | .pushs a _ _ _ _ | .pushl a _ _ _ _ => some (a.toNat, false)
  | .mma a _ _ _ _ _ _ | .mmag a _ _ _ _ _ _ => some (a.toNat, false)
  | .mldb a _ _ => some (a.toNat, false)
  | .mdrain a _ _ _ _ => some (a.toNat, true)
  | _ => none

/-- The g registers a wide-side word reads at issue, in field order (R167, R189, R246). -/
def cmdRegs : Instr → List Reg
  | .mset _ a _ => [a]
  | .push _ _ g _ _ | .pushg _ _ g _ _ | .pushl _ _ g _ _ => [g, g + 1]
  | .pushs _ _ g _ _ => [g]
  | .mma _ _ _ _ c _ _ | .mmag _ _ _ _ c _ _ => [c]
  | .mdrain _ _ c _ _ => [c]
  | .mprog _ c _ _ => [c]
  | _ => []

/-- QS entries a command takes when it starts (R161, R165, Table 10.2). -/
def qsTakes : Instr → Nat
  | .vsplat .. | .vclamp .. | .vpref .. | .gdamp .. | .greg .. => 1
  | .gsend .. => 3
  | _ => 0

/-- Whether a command delivers a QW entry (R166, R206). -/
def qwGives : Instr → Bool
  | .vred .. | .mpop .. | .many .. | .mall .. | .mget .. | .gresid .. => true
  | .vcomp _ _ _ _ _ _ c => c
  | _ => false

/-- The unguarded commands whose context waits for a verdict (R209, R258). -/
def verdictKind : Instr → Bool
  | .gelim .. | .gmean .. | .mdrain .. | .mchk .. => true
  | _ => false

/-! ### The checks at issue -/

/-- The outcome of the checks. -/
inductive Chk where
  | ok
  | wait (w : Wait)
  | trap (cause : BitVec 8) (eval : Word)
  deriving DecidableEq, Repr

/-- The first check that fails, in order. -/
def firstFail : List (Bool × Chk) → Chk
  | [] => .ok
  | (b, c) :: r => if b then c else firstFail r

/-- R153, R203: the checks of every extent in the order of R54; EVAL is the address of the first pointer that fails. -/
def Core.ptrCheck (c : Core) (lv : Level) (us : List (PtrUse × Nat)) : Chk :=
  match us.find? (fun u => inImage u.2 u.1.len && lv == .u) with
  | some u => .trap privilege (word u.2)
  | none =>
    match us.find? (fun u => u.2 % u.1.al != 0) with
    | some u => .trap misaligned (word u.2)
    | none =>
      match us.find? (fun u => c.stashBase < u.2 + u.1.len) with
      | some u => .trap localBounds (word u.2)
      | none => .ok

/-- A descriptor's own checks for a command (R178, R179): its state, then its local extents; waiting comes first, since a context that
waits has not issued, but for one that is poisoned, whose state says nothing. -/
def Core.tdWaits (c : Core) (k : Nat) : Bool := (c.td k).st == 1 || (c.td k).st == 3

/-- Table 9.14: the wire formats that a source format allows. -/
def wireOk (fmt w : Nat) : Bool :=
  w == 0 || ((w == 10 || w == 11) && (fmt == w || fmt == 0)) || ((w == 2 || w == 3 || w == 4 || w == 5) && fmt == 0)

/-- The checks of the push family (R189 to R191, R331). Register operands that the sequencer takes later (R197) are not there yet, and
what depends on them is checked when the command starts. -/
def State.pushCheck (s : State) (k : Nat) (lv : Level) (i : Instr) (kind : Nat) (td : Nat) (vals : List Word) : Chk :=
  let c := s.core k
  let d := c.td td
  let known := !vals.isEmpty
  let v0 := vals.headD 0
  let v1 := (vals.drop 1).headD 0
  let dst := bits v1 0 20
  let len := d.rows * d.rowBytes
  let wf := bits v1 45 5
  let boot := isSup k && lv == .s && wbit c.spr.bgtab 20
  if c.tdWaits td && !c.tdBad td then .wait .desc
  else firstFail
    [(d.st = 0, .trap illegalFormat (word td)),
     (known && kind ≠ 2 && (!wireOk d.fmt wf || (kind = 3 && wf ≠ 0)), .trap illegalFormat (wordOf i)),
     (known && kind ≠ 2 && dst % 4 ≠ 0, .trap misaligned (word dst)),
     (!c.clearsStash d, .trap localBounds (word td)),
     (known && (kind = 0 || kind = 1) && (inImage dst len || 0x60000 < dst + len), .trap localBounds (word dst)),
     (known && kind = 3 && 0x8000 < dst + len, .trap localBounds (word dst)),
     (c.tdBad td, .trap uncorrectable (word (0x1E000 + 32 * td))),
     (d.loc != (kind != 1), .trap illegalOp (wordOf i)),
     (known && kind ≠ 2 && bits v1 51 13 ≠ 0, .trap illegalOp (wordOf i)),
     (known && kind ≠ 2 && wbit v1 50 && bits v0 28 36 ≠ 0, .trap illegalOp (wordOf i)),
     (known && kind ≠ 2 && !wbit v1 50 && boot && bits c.spr.bgtab 21 8 < bits v1 37 8, .trap illegalOp (wordOf i))]

/-- A format is of the microprogram's type class (R254). -/
def progClass (i32 : Bool) (f : Nat) : Bool := if i32 then 10 ≤ f && f ≤ 16 else f ≤ 9

/-- MMA and MMAG at issue (R254). -/
def State.mmaCheck (s : State) (k : Nat) (i : Instr) (td : Nat) (prog gang gather : Bool) (vals : List Word) : Chk :=
  let c := s.core k
  let d := c.td td
  let ctl := vals.headD 0
  let v := bits ctl 0 6
  if c.tdWaits td && !c.tdBad td then .wait .desc
  else firstFail
    [(d.st = 0, .trap illegalFormat (word td)),
     (!gather && d.rows < v, .trap illegalFormat (wordOf i)),
     (gather && (d.list = 0 || !d.lloc || d.list % 32 ≠ 0), .trap illegalFormat (wordOf i)),
     (prog && !progClass c.slice.progI32 d.fmt, .trap illegalFormat (wordOf i)),
     (!c.clearsStash d, .trap localBounds (word td)),
     (c.tdBad td, .trap uncorrectable (word (0x1E000 + 32 * td))),
     (bits ctl 6 58 ≠ 0 || 32 < v, .trap illegalOp (wordOf i)),
     (gang && isSup k, .trap illegalOp (wordOf i)),
     (!d.loc, .trap illegalOp (wordOf i)),
     (prog && c.slice.prog.isEmpty, .trap illegalOp (wordOf i))]

/-- MDRAIN at issue (R257). -/
def State.drainCheck (s : State) (k : Nat) (i : Instr) (td : Nat) (vals : List Word) : Chk :=
  let c := s.core k
  let d := c.td td
  let ctl := vals.headD 0
  if c.tdWaits td && !c.tdBad td then .wait .desc
  else firstFail
    [(d.st = 0, .trap illegalFormat (word td)),
     (d.cols ≠ 32 && d.cols ≠ 128, .trap illegalFormat (wordOf i)),
     (d.list ≠ 0 && (!d.lloc || d.list % 32 ≠ 0), .trap illegalFormat (wordOf i)),
     (!c.clearsStash d, .trap localBounds (word td)),
     (c.tdBad td, .trap uncorrectable (word (0x1E000 + 32 * td))),
     (bits ctl 4 60 ≠ 0, .trap illegalOp (wordOf i)),
     (!d.loc, .trap illegalOp (wordOf i))]

/-- MLDB at issue (R255). -/
def State.mldbCheck (s : State) (k : Nat) (i : Instr) (td : Nat) : Chk :=
  let c := s.core k
  let d := c.td td
  if c.tdWaits td && !c.tdBad td then .wait .desc
  else firstFail
    [(d.st = 0, .trap illegalFormat (word td)), (!c.clearsStash d, .trap localBounds (word td)),
     (c.tdBad td, .trap uncorrectable (word (0x1E000 + 32 * td))),
     (!d.loc, .trap illegalOp (wordOf i))]

/-- The micro-operation words of a microprogram, operation 0 first (R259). -/
def microOps (w : Word) : List (BitVec 16) := [w.extractLsb' 0 16, w.extractLsb' 16 16, w.extractLsb' 32 16, w.extractLsb' 48 16]
/-- Those before the first END. -/
def microProg (w : Word) : List (BitVec 16) := (microOps w).takeWhile (fun m => m.toNat / 4096 ≠ 15)
/-- A micro-operation that Table 13.8 accepts. -/
def microOk (m : BitVec 16) : Bool :=
  let v := m.toNat
  let op := v / 4096
  op ≤ 9 && v / 1024 % 4 ≤ 2 && v / 128 % 8 ≤ 4 && v / 16 % 8 ≤ 4 && v / 2 % 8 ≤ 4 && v % 2 == 0
    && (op == 9 || v / 2 % 8 == 0) && (op != 8 || v / 16 % 8 == 0)
/-- MPROG accepts the word (R259). -/
def progOk (w : Word) : Bool :=
  let p := microProg w
  !p.isEmpty && p.all microOk && ((microOps w).drop p.length).all (fun m => m == 0xF000#16)

/-- What issue checks beyond the word and its sources: one function for a context's slot and for the sequencer (R173, R198). -/
def State.cmdCheck (s : State) (k : Nat) (lv : Level) (addrs : List Nat) (vals : List Word) (i : Instr) : Chk :=
  match i with
  | .push a _ _ _ _ => s.pushCheck k lv i 0 a.toNat vals
  | .pushg a _ _ _ _ => s.pushCheck k lv i 1 a.toNat vals
  | .pushs a _ _ _ _ => s.pushCheck k lv i 2 a.toNat vals
  | .pushl a _ _ _ _ => s.pushCheck k lv i 3 a.toNat vals
  | .mma a p _ g _ _ _ => s.mmaCheck k i a.toNat p g false vals
  | .mmag a p _ g _ _ _ => s.mmaCheck k i a.toNat p g true vals
  | .mdrain a _ _ _ _ => s.drainCheck k i a.toNat vals
  | .mldb a _ _ => s.mldbCheck k i a.toNat
  | .mprog _ _ _ _ => if vals.isEmpty || progOk (vals.headD 0) then .ok else .trap illegalOp (wordOf i)
  | _ => (s.core k).ptrCheck lv ((ptrUses i).zip addrs)

/-! ### Queues -/

def Core.eng (c : Core) : Eng → Engine
  | .vec => c.vec
  | .push => c.psh
  | .mat => c.mat
  | .gau => c.gau
def Core.setEng (c : Core) (e : Eng) (v : Engine) : Core :=
  match e with
  | .vec => { c with vec := v }
  | .push => { c with psh := v }
  | .mat => { c with mat := v }
  | .gau => { c with gau := v }

/-- Entries of a context's queue for an engine (R173). -/
def Eng.room : Eng → Nat
  | .vec => 8
  | _ => 4
def Core.queued (c : Core) (e : Eng) (x : Nat) : Nat := ((c.eng e).queue.filter (fun q => q.ctx == x)).length

/-- The context waits for the verdict of this command (R209, R258). -/
def Core.awaitsVerdict (c : Core) (q : Cmd) : Bool :=
  q.seq.isNone && verdictKind q.instr && guardOf q.instr == 0 && (c.ctx q.ctx).acc == some ⟨0, q.uid, none⟩

/-- Counts reserved on a token by a command that waits for its verdict (R209, R258). -/
def Core.reserved (c : Core) (x : Nat) (t : Slot) : Nat :=
  ((c.gau.cmds ++ c.mat.cmds).filter (fun q => q.ctx == x && tokOf q.instr == some t && c.awaitsVerdict q)).length

/-- Appends a command. -/
def State.enqueue (s : State) (k : Nat) (q : Cmd) : State :=
  let c := s.core k
  let e := engOf q.instr
  ({ s with uid := s.uid + 1 }).setCore k (c.setEng e { c.eng e with queue := (c.eng e).queue ++ [q] })

/-- A descriptor named as written goes from ready to draining at issue (R179). -/
def Core.markDrain (c : Core) (i : Instr) : Core :=
  match tdOf i with
  | some (k, true) => c.setTdSt k 3
  | _ => c

/-- A pointer advances by its step (R152). -/
def PtrReg.advance (p : PtrReg) : PtrReg := { p with addr := p.addr + p.step.signExtend 20 }

/-- Each pointer that the word names advances once (R152). -/
def advanced (ps : Vector PtrReg 8) (us : List PtrUse) : Vector PtrReg 8 :=
  ((us.map (·.p)).eraseDups).foldl (fun v p => v.set p.toNat (v[p.toNat]).advance) ps

/-- A wide-side word in its context's slot: its checks (R54, R173), then its token armed, its operands captured, its place in the queue, its
pointers advanced. An unguarded command with a verdict keeps its context until the verdict (R209, R258). -/
def wideIssue (i : Instr) (w : Bool) (s : State) : State :=
  let full (s : State) : Bool := s.cx.acc.isNone && (engOf i).room ≤ s.me.queued (engOf i) s.cur.2
  let image (s : State) : Option Nat :=
    if s.cx.acc.isSome then none else (ptrUses i).findSome? (fun u => s.cx.imageAt (s.cx.ptr u.p).addr.toNat u.len)
  s.issueWith i .u full image fun s => s.withRegs i (cmdRegs i) fun s =>
    let k := s.cur.1
    let x := s.cur.2
    let c := s.cx
    let vals := (cmdRegs i).map c.reg
    let us := ptrUses i
    let addrs := us.map (fun u => (c.ptr u.p).addr.toNat)
    let holds := verdictKind i && guardOf i == 0
    match c.acc with
    | some a =>
      -- a command of this word waits for its verdict, or has it
      match a.ans with
      | none => s.park .wide
      | some r => match r.cause with
        | some cs => s.trap cs (word r.val)
        | none => s.finish
    | none =>
      match s.cmdCheck k c.level addrs vals i with
      | .trap cs v => s.trap cs v
      | .wait r => s.park r
      | .ok =>
        if (match tokOf i with | some t => decide (255 ≤ (c.tok t).count + (s.core k).reserved x t) | none => false) then
          s.park (.tokens false)
        else
          let q : Cmd := { uid := s.uid, ctx := x, instr := i, prio := (c.latch.sched.getD 0).toNat % 8, cache := c.latch.cache.getD 0,
                           ptr := addrs, vals := vals, gthr := c.spr.gthr, level := c.level, seq := none, pos := 0, dests := [], decided := false }
          let s1 := (s.setMe (s.me.markDrain i)).enqueue k q
          let c1 := s1.cx
          let c2 := if incOf i then { c1 with p := advanced c1.p us } else c1
          if holds then s1.setCx { c2.setRun s.now (.parked .wide) with acc := some ⟨0, q.uid, none⟩ }
          else
            let c3 := match tokOf i with | some t => c2.setTok t (c2.tok t).arm | none => c2
            ((s1.setCx c3).take w ((cmdRegs i).headD 0)).finish

/-! ### Heads of queues (R181) -/

/-- The registers that a context's wide-side commands use: the live context's, or what an ended one left. -/
def Core.wctx (c : Core) (x : Nat) : Ctx :=
  match kget c.ctxs x with
  | some h => h
  | none => match kget c.ended x with
    | some d => d.wide
    | none => c.ctx x
def Core.setWctx (c : Core) (x : Nat) (h : Ctx) : Core :=
  if c.live x then c.setCtx x h
  else match kget c.ended x with
    | some d => { c with ended := kput c.ended x { d with wide := h } }
    | none => c

/-- A copy of the context is set aside from the same engine (R314). -/
def Core.asideBefore (c : Core) (q : Cmd) : Bool := c.aside.any (fun a => a.ctx == q.ctx && a.cmd.any (fun p => engOf p.instr == engOf q.instr))
/-- A command issued after RPBGO queues behind the last repetition (R197). -/
def Core.behindSeq (c : Core) (q : Cmd) : Bool := c.seq.running && c.seq.owner == some q.ctx && q.seq.isNone && c.seq.base ≤ q.uid
/-- The command stands at the head of its context's queue for its engine. -/
def Core.atHead (c : Core) (q : Cmd) : Bool :=
  ((c.eng (engOf q.instr)).queue.find? (fun p => p.ctx == q.ctx)).any (fun p => p.uid == q.uid) && !c.asideBefore q && !c.behindSeq q
/-- The guard that decides a command: true for one that was decided so at the head. -/
def Core.guardFor (c : Core) (q : Cmd) : GuardSt := if q.decided then .yes else (c.wctx q.ctx).guard (guardOf q.instr)
/-- The heads that the slot lets start are decided, whatever becomes of the slot (R181, R182). -/
def Core.decideHeads (c : Core) (x : Nat) (g : Slot) : Core :=
  let mark (e : Engine) : Engine :=
    { e with queue := e.queue.map (fun q => if q.ctx == x && guardOf q.instr == g && c.atHead q && c.guardFor q == .yes then { q with decided := true } else q) }
  { c with vec := mark c.vec, psh := mark c.psh, mat := mark c.mat, gau := mark c.gau }

/-! ### Granules (R132) -/

/-- The descriptors that can be an MMA's B: the one it started with; else the one that the last MLDB ahead of it in its context binds, or,
where a guard may discard that MLDB, also what the ones before it bind, down to the present one; and what another context's MLDB may bind
in between (R255). -/
def Core.bindsOf (c : Core) (q : Cmd) : List TDesc :=
  match (c.mat.started.find? (fun r => r.cmd.uid == q.uid)).bind (·.mat) with
  | some m => [m.b]
  | none =>
    let loads := c.mat.cmds.filterMap (fun p => match p.instr with | .mldb a _ u => some (p, a.toNat, u) | _ => none)
    let own := (loads.filter (fun l => l.1.ctx == q.ctx && l.1.uid < q.uid)).reverse
    let sure (l : Cmd × Nat × Slot) : Bool := l.1.decided || (c.wctx q.ctx).guard l.2.2 == .yes
    let last := own.takeWhile (fun l => !sure l) ++ (own.dropWhile (fun l => !sure l)).take 1
    (if own.any sure then [] else c.slice.bind.toList) ++ (last ++ loads.filter (fun l => l.1.ctx != q.ctx)).map (fun l => c.td l.2.1)

/-- The local bytes a command reads or writes: address, length, written. -/
def Core.ranges (c : Core) (q : Cmd) : List (Nat × Nat × Bool) :=
  let desc (n : Nat) (wr : Bool) : List (Nat × Nat × Bool) :=
    (if (c.td n).loc then [((c.td n).base, (c.td n).span, wr)] else [])
      ++ (((c.td n).locals.drop (if (c.td n).loc then 1 else 0)).map (fun e => (e.1, e.2, false)))
  let bind : List (Nat × Nat × Bool) := (c.bindsOf q).flatMap (fun b => b.locals.map (fun e => (e.1, e.2, false)))
  match q.instr with
  | .push a _ _ _ _ | .pushs a _ _ _ _ | .pushl a _ _ _ _ => desc a.toNat false
  | .mma a _ _ _ _ _ _ | .mmag a _ _ _ _ _ _ => desc a.toNat false ++ bind
  | .mdrain a _ _ _ _ => desc a.toNat true
  | i => ((ptrUses i).zip q.ptr).map (fun u => (u.2, u.1.len, u.1.wr))

/-! ### The repetition sequencer (R196, R197) -/

/-- Captured word `j` stands in the core image (Table 9.3). -/
def Core.captured (c : Core) (j : Nat) : BitVec 32 := BitVec.ofNat 32 (mnat c.lmem (0x1E400 + 4 * j) 4)

/-- A captured word as repetition `i` places it: descriptor fields stepped modulo 32, pointer fields modulo 8; the mask of VCMP and the type
bits of VCVT stay. -/
def Sequencer.stepped (q : Sequencer) (i : Nat) (w : BitVec 32) : BitVec 32 :=
  let major := w.toNat / 67108864
  match decode w with
  | none => w
  | some x =>
    if (tdOf x).isSome then BitVec.ofNat 32 (stepField w.toNat 21 5 32 (q.st * i))
    else if (0x10 ≤ major && major ≤ 0x12) || major == 0x23 then
      let keep (j : Nat) : Bool :=
        !((repSlots x).getLsbD (5 - j))
          || (match x with
              | .vceq .. | .vcne .. | .vclt .. | .vcle .. | .vcgt .. | .vcge .. | .vcun .. => j == 1
              | .vcvt .. => j == 3
              | _ => false)
      let one (w j lo : Nat) : Nat := if keep j then w else stepField w lo 3 8 (q.sp * i)
      BitVec.ofNat 32 (one (one (one w.toNat 1 23) 2 20) 3 17)
    else w

/-- The sequencer's pointer copy. -/
def Sequencer.ptr (q : Sequencer) (p : Ptr) : PtrReg := q.ptrs.getD p.toNat ⟨0, 0⟩
def Sequencer.ptrVec (q : Sequencer) : Vector PtrReg 8 := Vector.ofFn (fun i => q.ptrs.getD i ⟨0, 0⟩)

/-- The sequencer past its present word: the next one, or the first of the next repetition, or idle. Hint words act within one repetition
(R50). -/
def Sequencer.next (q : Sequencer) : Sequencer :=
  if q.idx + 1 < q.words.length then { q with idx := q.idx + 1 }
  else { q with idx := 0, rep := q.rep + 1, done := q.done + 1, latch := Latch.empty, running := decide (q.rep + 1 < q.count) && !q.stop }

/-- The command a placement makes, at its addresses. -/
def Core.seqCmd (c : Core) (q : Sequencer) (x : Nat) : Cmd :=
  let i := decodeOr (q.stepped q.rep (c.captured q.idx))
  { uid := q.base + q.rep * q.words.length + q.idx, ctx := x, instr := i, prio := 0, cache := 0
    ptr := (ptrUses i).map (fun u => (q.ptr u.p).addr.toNat), vals := [], gthr := 0, level := .u, seq := some (q.rep, q.idx), pos := 0, dests := [], decided := false }

/-- Words still to place (R197). -/
def Sequencer.left (q : Sequencer) : Nat := if q.running then (q.count - q.rep) * q.words.length - q.idx else 0

/-- Some command among the next `n` to place satisfies `p`. -/
def Core.seqAny (c : Core) (x : Nat) (p : Cmd → Bool) : Nat → Sequencer → Bool
  | 0, _ => false
  | n + 1, q =>
    q.running &&
      (let m := c.seqCmd q x
       p m || c.seqAny x p n (if incOf m.instr then { q with ptrs := (advanced q.ptrVec (ptrUses m.instr)).toList } else q).next)
/-- Some command that the sequencer has still to place for a context satisfies `p`: it counts as issued at RPBGO (R197). -/
def Core.toPlace (c : Core) (x : Nat) (p : Cmd → Bool) : Bool := c.seq.owner == some x && c.seqAny x p c.seq.left c.seq

/-- Some command of the context guarded by the slot is not decided yet: it is not at its head, or waits there, or has still to be discarded, or
the sequencer has still to place it. -/
def Core.undecided (c : Core) (x : Nat) (g : Slot) : Bool :=
  c.engines.any (fun e => e.queue.any (fun q => q.ctx == x && guardOf q.instr == g && !(q.decided || (c.atHead q && c.guardFor q == .yes))))
    || c.toPlace x (fun q => guardOf q.instr == g && (tokOf q.instr).isSome)

/-- Two byte ranges share a 64 B granule. -/
def sharesGranule (a n b m : Nat) : Bool := n != 0 && m != 0 && a / 64 ≤ (b + m - 1) / 64 && b / 64 ≤ (a + n - 1) / 64

/-- The commands of a context that have not finished: started, queued, and set aside (R314). -/
def Core.cmdsOf (c : Core) (x : Nat) : List Cmd :=
  (c.engines.flatMap (·.cmds) ++ c.aside.filterMap (·.cmd)).filter (fun q => q.ctx == x)

/-- The granules of an extent. -/
def granules (a n : Nat) : List Nat := if n = 0 then [] else (List.range ((a + n - 1) / 64 - a / 64 + 1)).map (a / 64 + ·)

/-- The fields of a matrix word: descriptor, microprogram mode, accumulator, gang. -/
def matParts : Instr → Option (Nat × Bool × Bool × Bool)
  | .mma a p x g _ _ _ => some (a.toNat, p, x, g)
  | .mmag a p x g _ _ _ => some (a.toNat, p, x, g)
  | _ => none

/-- The accumulator row and A row of each row that accumulates (R247, R252). -/
def MatRun.rows (m : MatRun) (q : Cmd) : List (Nat × Nat) :=
  let v := bits (q.vals.headD 0) 0 6
  match q.instr with
  | .mmag .. => (List.range v).filterMap (fun r => if m.list.getD r 0 = 0xFFFF then none else some (r, m.list.getD r 0))
  | _ => (List.range v).map (fun r => (r, r))

/-- The granules of its local operands that a core reads for a K-step (R264): A, then B, each row's bytes and its local scale record. -/
def MatRun.needs (m : MatRun) (q : Cmd) (st : Nat) : List Nat :=
  let of (d : TDesc) (rs : List Nat) : List Nat :=
    let sc := fmtScale d.fmt
    rs.flatMap (fun r =>
      granules (d.base + r * d.stride + 4 * fmtBits d.fmt * st) ((fmtBits d.fmt * min 32 (d.cols - 32 * st) + 7) / 8)
        ++ (if sc.2.1 = 0 || !d.sloc then [] else granules (d.sbase + sc.1 * (r * (d.cols / sc.2.1) + 32 * st / sc.2.1)) sc.1))
  of m.a ((m.rows q).map (·.2)) ++ of m.b (List.range 32)

/-- A started command, with what it has read and what it has still to write. -/
def Core.startedOf (c : Core) (q : Cmd) : Option Started := (c.engines.flatMap (·.started)).find? (fun r => r.cmd.uid == q.uid)

/-- The local bytes of a push's source from byte `p` on. -/
def TDesc.rowsFrom (d : TDesc) (p : Nat) : List (Nat × Nat × Bool) :=
  (List.range d.rows).filterMap (fun i =>
    let o := p - i * d.rowBytes
    if d.rowBytes ≤ o then none else some (d.base + i * d.stride + o, d.rowBytes - o, false))

/-- The addresses of the lanes of VGATH or VSCAT, at a window and by indices that the command has read. -/
def Started.laneRanges (r : Started) (window idx w : Nat) (act : BitVec 16) (wr : Bool) : List (Nat × Nat × Bool) :=
  ((List.range 16).filter act.getLsbD).map (fun j => (window + w * (mnat r.snap (idx + 2 * j) 2 % 4096), w, wr))

/-- The local bytes that a vector command which the unit reads for has still to read or to write. -/
def Core.vecLeft (c : Core) (r : Started) : List (Nat × Nat × Bool) :=
  let q := r.cmd
  let h := c.wctx q.ctx
  let p (n : Nat) : Nat := q.ptr.getD n 0
  let unread (u : Nat × Nat × Bool) : List (Nat × Nat × Bool) :=
    if u.2.2 then [u] else ((granules u.1 u.2.1).filter (fun g => !r.got.contains g)).map (fun g => (64 * g, 64, false))
  let act (m : Ptr) : BitVec 16 := if h.maskBad m then 0xFFFF else h.mask m
  let read := (granules (p 2) 32).all r.got.contains
  let all := c.ranges q
  let others (n : Nat) : List (Nat × Nat × Bool) := (((List.range all.length).filter (· != n)).map (fun i => all.getD i (0, 0, false))).flatMap unread
  match q.instr, read with
  | .vgath _ _ _ m t _ _, true => others 1 ++ (r.laneRanges (p 1) (p 2) (tyBytes t.toNat) (act m) false).flatMap unread
  | .vscat _ _ _ m t _, true => others 0 ++ r.laneRanges (p 0) (p 2) (tyBytes t.toNat) (act m) true
  | _, _ => all.flatMap unread

/-- The local bytes that a command has still to read or to write: of a started one what its grants have left (R130, R132). Until VGATH and VSCAT have
read their indices they may touch all of their window (DEDUCED, log entry 15). -/
def Core.left (c : Core) (q : Cmd) : List (Nat × Nat × Bool) :=
  match c.startedOf q with
  | none => c.ranges q
  | some r =>
    let writes := r.writes.map (fun w => (w.1, w.2.length, true))
    match engOf q.instr, q.instr with
    | .vec, _ => if c.vec.run.any (fun o => o.cmd.uid == q.uid) then c.vecLeft r else writes
    | .gau, _ => if r.phase = 0 then c.vecLeft r else writes
    | .push, .pushs a _ _ _ _ => (c.td a.toNat).rowsFrom (r.cmd.pos + (r.writes.headD (0, [])).2.length)
    | .push, .push a _ _ _ _ => (c.td a.toNat).rowsFrom r.cmd.pos
    | .push, .pushl a _ _ _ _ => (c.td a.toNat).rowsFrom r.cmd.pos
    | .push, _ => []
    | .mat, .mdrain .. => if r.phase = 7 then c.ranges q else writes
    | .mat, _ =>
      match r.mat with
      | none => c.ranges q
      | some m =>
        let steps := (TDesc.cols m.a + 31) / 32
        (((List.range steps).drop r.pos).flatMap (fun st => (m.needs r.cmd st).filter (fun g => st != r.pos || !r.got.contains g))).map (fun g => (64 * g, 64, false))

/-- An earlier wide-side command of the context has still to touch a granule of these bytes (R132). -/
def Core.wideTouches (c : Core) (x a n : Nat) : Bool :=
  let hits (rs : List (Nat × Nat × Bool)) : Bool := rs.any (fun r => sharesGranule r.1 r.2.1 a n)
  (c.cmdsOf x).any (fun q => hits (c.left q)) || c.toPlace x (fun q => hits (c.ranges q))

/-- Two commands conflict: the earlier one has still to touch a granule that the other touches too, and one of them writes it (R173). -/
def Core.conflicts (c : Core) (p q : Cmd) : Bool :=
  (c.left p).any (fun r => (c.ranges q).any (fun t => (r.2.2 || t.2.2) && sharesGranule r.1 r.2.1 t.1 t.2.1))

/-- The wide side of a context is idle for a fence (R143): nothing of it is queued or started, save what a guard still holds back. -/
def Core.wideIdle (c : Core) (x : Nat) : Bool :=
  let h := c.ctx x
  let free (e : Engine) : Bool :=
    !e.serves x &&
      (match e.queue.filter (fun q => q.ctx == x) with
       | [] => true
       | q :: _ => !q.decided && h.guard (guardOf q.instr) == .unresolved)
  free c.vec && free c.psh && free c.mat && free c.gau && !(c.outs.any (fun o => o.ctx == x && o.sending))
    && !(c.seq.running && c.seq.owner == some x)

end Sys2Proof.Machine
end

