-- ==== Sys2Proof/Machine/Translate.lean ====
section
/-! DEFINITION. Physical addresses and their homes (R288 to R290), two-stage translation (R306, R307, R310), and the rights that depend on
a physical address (R298, R338, R352, R366). -/

namespace Sys2Proof.Machine

/-! ### The physical map (Table 16.2) -/

def isGddr (pa : Nat) : Bool := pa < 0x2000000000
def isBase (pa : Nat) : Bool := 0x4000000000 ≤ pa && pa < 0x4200000000
/-- The supervisor registers and the I/O range. -/
def isReg (pa : Nat) : Bool := 0x8000000000 ≤ pa && pa < 0x10000000000
def inMap (pa : Nat) : Bool := isGddr pa || isBase pa || isReg pa

/-- The home slice of a storage address (R289, R290), numbered 64·die + slice. -/
def homeOf (pa : Nat) : Nat :=
  if isBase pa then
    let ba := pa - 0x4000000000
    64 * (ba / 2 ^ 31 % 4) + ba / 2 ^ 25 % 64
  else
    let x := pa / 128 % 2 ^ 25
    64 * (pa / 4096 % 4) + ((x % 64) ^^^ (x / 64 % 64) ^^^ (x / 4096 % 64) ^^^ (x / 262144 % 64) ^^^ (x / 2 ^ 24 % 2))

/-- The cluster above a slice (R284). -/
def clusOfSlice (h : Nat) : Nat :=
  let d := h / 64
  let k := h % 64
  16 * (8 * (d / 2) + k / 8) + 8 * (d % 2) + k % 8

/-- A base offset that names a cache way names no storage (R290). -/
def State.noStorage (s : State) (pa : Nat) : Bool :=
  isBase pa && 16 - (s.slice (homeOf pa)).c ≤ (pa - 0x4000000000) / 2 ^ 21 % 16

/-- The key index of a request for a territory (R357, R367). -/
def State.keyOf (s : State) (terr pa : Nat) : Nat :=
  if !isGddr pa then 0
  else
    let hit (w : Word) : Bool :=
      let base := 4096 * bits w 12 40 % 2 ^ 40
      wbit w 0 && base ≤ pa && pa < base + 4096 * (bits w 1 11 + 1)
    match s.io.shkey.toList.find? hit with
    | some w => bits w 56 8
    | none => terr

/-! ### Lines of GDDR7 and their keys (R292, R357) -/

def setOf (pa : Nat) : Nat := pa / 2 ^ 14 % 16384
def CacheSlice.wayAt (c : CacheSlice) (set w : Nat) : Option Way := kget c.ways (16 * set + w)
/-- The cache way that holds a line. -/
def CacheSlice.holds (c : CacheSlice) (pa : Nat) : Option Nat :=
  (List.range c.c).find? (fun w => (c.wayAt (setOf pa) w).any (fun y => y.line == pa / 128))

/-- The bytes of a line of GDDR7 as a key reads them from the devices, where it was written there under another one. -/
def State.crypt (s : State) (key line : Nat) : Option (List Byte) :=
  match kget s.gkeys line with
  | none => none
  | some k =>
    if k = key then none
    else some ((List.range 8).flatMap (fun i =>
      leBytes 16 (Config.recrypt k key (8 * line + i) (BitVec.ofNat 128 (mnat s.gmem (128 * line + 16 * i) 16))).toNat))

/-- The line stands in its slice, where every key reads the same bytes (R293, R357). -/
def State.cached (s : State) (pa : Nat) : Bool := ((s.slice (homeOf pa)).holds pa).isSome

/-- `n` bytes of storage as a request with a key reads them. -/
def State.gseen (s : State) (key pa n : Nat) : List Byte :=
  if !isGddr pa then mread s.gmem pa n
  else (List.range n).map (fun i =>
    match if s.cached (pa + i) then none else s.crypt key ((pa + i) / 128) with
    | some bs => bs.getD ((pa + i) % 128) 0
    | none => mget s.gmem (pa + i))

/-- A line in its cache way is written: it is dirty, and the bytes behind it in GDDR7 are kept while it can still be lost (R318). -/
def State.keepOrig (s : State) (pa : Nat) (cells : List Host.Cell) : State :=
  let h := homeOf pa
  let sl := s.slice h
  match sl.holds pa with
  | none => s
  | some w =>
    let i := 16 * setOf pa + w
    match kget sl.ways i with
    | none => s
    | some y =>
      let orig := cells.foldl (fun o c => if (kget o c.1).isSome then o else kput o c.1 (mget s.gmem c.1)) y.orig
      s.setSlice h { sl with ways := kput sl.ways i { y with dirty := true, orig := orig } }

/-- The bytes that a key reads from the devices take the place of a line's bytes. -/
def State.decrypt (s : State) (key line : Nat) : State :=
  match s.crypt key line with
  | some bs => { s with gmem := mwrite s.gmem (128 * line) bs }
  | none => s

/-- A write or an atomic meets the line at `pa` under a key (R293, R357): in its way, or, without one, in GDDR7, which is read and written back
under that key. -/
def State.openLine (s : State) (key pa : Nat) (cells : List Host.Cell) : State :=
  if !isGddr pa then s
  else if s.cached pa then s.keepOrig pa cells
  else let s1 := s.decrypt key (pa / 128); { s1 with gkeys := kput s1.gkeys (pa / 128) key }

/-- The masked bytes of a write within one line are applied; a 64-bit word is healed when the write covers all of it, and poisoned when it
arrives so. -/
def State.applyWrite (s : State) (key pa : Nat) (cells : List Host.Cell) (bad : List Nat) : State :=
  let s1 := s.openLine key pa cells
  let whole (w : Nat) : Bool := (List.range 8).all (fun j => cells.any (fun c => c.1 == 8 * w + j))
  { s1 with gmem := cells.foldl (fun m c => mput m c.1 c.2) s1.gmem
            gbad := bad.foldl nput (s1.gbad.filter (fun w => !whole w)) }

/-- The lines of an extent: address and bytes. -/
def linesOf (a n : Nat) : List (Nat × Nat) :=
  if n = 0 then []
  else (List.range ((a + n - 1) / 128 - a / 128 + 1)).map (fun i =>
    let lo := max a (128 * (a / 128 + i))
    (lo, min (a + n) (128 * (a / 128 + i + 1)) - lo))

/-- Writes of the units in global memory, with a key, line by line. -/
def State.gput (s : State) (key a : Nat) (bs : List Byte) : State :=
  (linesOf a bs.length).foldl (fun s l =>
    s.applyWrite key l.1 ((List.range l.2).map (fun i => (l.1 + i, bs.getD (l.1 - a + i) 0))) []) s

/-! ### Two-stage walks -/

/-- A leaf's result: the address, log₂ of the page size, rights, and PBMT. -/
structure Leaf where
  pa : Nat
  lg : Nat
  r : Bool
  w : Bool
  attr : Nat
  deriving DecidableEq, Repr

/-- A walker's 8 B read (R310), under its territory's key (R357): none when it meets an uncorrectable word or names no storage. -/
def State.pteAt (s : State) (terr a : Nat) : Option Nat :=
  if !(isGddr a || isBase a) || s.noStorage a || s.gbad.contains (a / 8) then none else some (leNat (s.gseen (s.keyOf terr a) a 8))

def pteBit (e n : Nat) : Bool := e / 2 ^ n % 2 == 1
def ptePpn (e : Nat) : Nat := e / 1024 % 2 ^ 44
/-- Leaves have R set; an entry of the last level is one in any case. -/
def pteLeaf (e lvl : Nat) : Bool := pteBit e 1 || lvl == 0

/-- Table 17.1, the checks of one entry in order. `acc` is 0 read, 1 write, 2 both. -/
def pteFault (e acc lvl : Nat) : Option Nat :=
  let leaf := pteLeaf e lvl
  if !pteBit e 0 || (!pteBit e 1 && pteBit e 2) || e / 2 ^ 54 % 128 ≠ 0 then some 1
  else if leaf && (!pteBit e 4 || (acc ≠ 1 && !pteBit e 1) || (acc ≠ 0 && !pteBit e 2)) then some 2
  else if leaf && (!pteBit e 6 || (acc ≠ 0 && !pteBit e 7)) then some 3
  else if pteBit e 63 || e / 2 ^ 61 % 4 = 3 then some 4
  else none

/-- The leaf of an entry for an address. -/
def pteResult (e a lvl : Nat) : Leaf :=
  let lg := 12 + 9 * lvl
  { pa := ptePpn e * 4096 / 2 ^ lg * 2 ^ lg + a % 2 ^ lg, lg := lg, r := pteBit e 1, w := pteBit e 2 && pteBit e 7, attr := e / 2 ^ 61 % 4 }

/-- Second-stage walk over the levels left, from a table (Sv48x4). Errors are (reason, stage). -/
def State.stage2Go (s : State) (terr acc gpa : Nat) : List Nat → Nat → Except (Nat × Nat) Leaf
  | [], _ => .error (1, 1)
  | l :: ls, t =>
    let idx := if l = 3 then gpa / 2 ^ 39 % 2048 else gpa / 2 ^ (12 + 9 * l) % 512
    match s.pteAt terr (t * 4096 + idx * 8) with
    | none => .error (7, 1)
    | some e =>
      match pteFault e acc l with
      | some r => .error (r, 1)
      | none => if pteLeaf e l then .ok (pteResult e gpa l) else s.stage2Go terr acc gpa ls (ptePpn e)

/-- Whether a root's MODE is 0, the RISC-V Bare mode. -/
def bare (root : Word) : Bool := bits root 60 4 == 0

/-- The second stage of a guest physical address. -/
def State.stage2 (s : State) (terr : Nat) (root : Word) (acc gpa : Nat) : Except (Nat × Nat) Leaf :=
  if 2 ^ 50 ≤ gpa then .error (6, 1)
  else if bare root then .ok ⟨gpa, 39, true, true, 0⟩
  else s.stage2Go terr acc gpa [3, 2, 1, 0] (bits root 0 44)

/-- First-stage walk (Sv48): each table address goes through the second stage as a read. -/
def State.stage1Go (s : State) (terr : Nat) (root2 : Word) (acc va : Nat) : List Nat → Nat → Except (Nat × Nat) Leaf
  | [], _ => .error (1, 0)
  | l :: ls, t =>
    match s.stage2 terr root2 0 (t * 4096 + va / 2 ^ (12 + 9 * l) % 512 * 8) with
    | .error f => .error f
    | .ok lf =>
      match s.pteAt terr lf.pa with
      | none => .error (7, 0)
      | some e =>
        match pteFault e acc l with
        | some r => .error (r, 0)
        | none => if pteLeaf e l then .ok (pteResult e va l) else s.stage1Go terr root2 acc va ls (ptePpn e)

/-- The id under which a core's translations are kept: its territory, or a die supervisor of its own. -/
def State.trId (s : State) (k : Nat) : Nat := if isSup k then 256 + dieOf k else s.terrOf k

/-- The two roots of a translation id (R306). -/
def State.roots (s : State) (id : Nat) : Word × Word :=
  if 256 ≤ id then (kget s.suproots (id - 256)).getD (0, 0) else ((s.terr id).win.root1, (s.terr id).win.root2)

/-- A whole walk (R306, R307): the combined leaf, or the reason and stage. -/
def State.walk (s : State) (id acc va : Nat) : Except (Nat × Nat) Leaf :=
  let rt := s.roots id
  let terr := if 256 ≤ id then 0 else id
  let top := va / 2 ^ 47
  if top ≠ 0 ∧ top ≠ 2 ^ 17 - 1 then .error (6, 0)
  else
    let first : Except (Nat × Nat) Leaf :=
      if bare rt.1 then .ok ⟨va % 2 ^ 47, 39, true, true, 0⟩ else s.stage1Go terr rt.2 acc va [3, 2, 1, 0] (bits rt.1 0 44)
    match first with
    | .error f => .error f
    | .ok a =>
      match s.stage2 terr rt.2 acc a.pa with
      | .error f => .error f
      | .ok b => if !inMap b.pa then .error (5, 1) else .ok ⟨b.pa, min a.lg b.lg, a.r && b.r, a.w && b.w, max a.attr b.attr⟩

/-! ### The translation cache (R310) -/

/-- An entry that covers an address with the rights of the access; a parity error reads as a miss. -/
def TlbEntry.covers (e : TlbEntry) (id va acc : Nat) : Bool :=
  e.terr == id && e.vpn == va / 2 ^ e.lg && !e.bad && (acc == 1 || e.r) && (acc == 0 || e.w)

/-- An entry that maps the page of an address, whatever its rights. -/
def TlbEntry.maps (e : TlbEntry) (id va : Nat) : Bool := e.terr == id && e.vpn == va / 2 ^ e.lg

def Cluster.lookup (c : Cluster) (id va acc : Nat) : Option TlbEntry := c.tlb.find? (fun e => e.covers id va acc)

/-- The set of an entry: 128 sets of 8 ways (R310). -/
def TlbEntry.set (e : TlbEntry) : Nat := Config.tlbSet e.terr e.vpn e.lg % 128
/-- A parity error invalidates the entry that an access meets (R310). -/
def Cluster.expire (c : Cluster) (id va : Nat) : Cluster := { c with tlb := c.tlb.filter (fun e => !(e.bad && e.maps id va)) }
/-- The first `n` entries that satisfy `p`, and all the others. -/
def keepFirst {α : Type} (p : α → Bool) : Nat → List α → List α
  | _, [] => []
  | n, e :: r => if p e then (match n with | 0 => keepFirst p 0 r | m + 1 => e :: keepFirst p m r) else e :: keepFirst p n r
/-- An entry enters as the most recently used; the seven of its set that were used last stay beside it. -/
def Cluster.fill (c : Cluster) (e : TlbEntry) (va : Nat) : Cluster :=
  { c with tlb := e :: keepFirst (fun o => o.set == e.set) 7 (c.tlb.filter (fun o => !(o.maps e.terr va))) }
/-- A hit makes its entry the most recently used. -/
def Cluster.touch (c : Cluster) (e : TlbEntry) : Cluster := { c with tlb := e :: c.tlb.filter (· != e) }

/-- The entry of a successful walk. -/
def Leaf.entry (l : Leaf) (id va : Nat) : TlbEntry :=
  { terr := id, vpn := va / 2 ^ l.lg, lg := l.lg, ppn := l.pa / 2 ^ l.lg, r := l.r, w := l.w, attr := l.attr, bad := false, lru := 0 }

/-- The physical address of a hit, and its attribute: register ranges are always IO (R311). -/
def TlbEntry.result (e : TlbEntry) (va : Nat) : Nat × Nat :=
  let pa := e.ppn * 2 ^ e.lg + va % 2 ^ e.lg
  (pa, if isReg pa then 2 else e.attr)

/-- Translation for a command of an engine, or a word that works on a range (R309, R310), which `key` names. A hit answers at once, and one whose
address lies in no row of Table 16.2 is refused (R288). A miss asks for a walk of the cluster's pool, or shares one, and has no answer yet; a walk
that has failed answers when its key asks again. -/
def State.engineTranslate (s : State) (k acc va key : Nat) : State × Option (Except (Nat × Nat) (Nat × Nat)) :=
  let id := s.trId k
  let q := clusOf k
  let c := s.clus q
  match c.walkFails.find? (fun f => f.key == key && f.va / 4096 == va / 4096 && f.acc == acc) with
  | some f => (s.setClus q { c with walkFails := c.walkFails.filter (· != f) }, some (.error f.cause))
  | none =>
    match c.lookup id va acc with
    | some e =>
      let r := e.result va
      (s.setClus q (c.touch e), some (if inMap r.1 then .ok r else .error (5, 1)))
    | none =>
      let c1 := c.expire id va
      let same (w : Walk) : Bool := w.terr == id && w.va / 4096 == va / 4096
      if c1.walks.any same then
        (s.setClus q { c1 with walks := c1.walks.map (fun w => if same w && w.acc == acc then { w with keys := nput w.keys key } else w) }, none)
      else (s.bump.setClus q { c1 with walks := c1.walks ++ [⟨id, va, acc, s.uid, [key]⟩] }, none)

/-! ### Rights at a physical address (R54 step 9) -/

/-- The territory whose window holds an address, and the offset (Table 20.1). -/
def windowOf (pa : Nat) : Option (Nat × Nat) :=
  if 0x8120000000 ≤ pa && pa < 0x8120100000 then some ((pa - 0x8120000000) / 4096, pa % 4096) else none
def isAperture (pa : Nat) : Bool := 0x8100000000 ≤ pa && pa < 0x8120000000

/-- Window fields that level T writes (Tables 20.1, 22.6): TFHEAD, TCLASS, TQCB, the first and second words of TSLOT. -/
def windowT (o : Nat) : Bool := o == 0x028 || (0x040 ≤ o && o < 0x080) || o == 0x080 || (0x100 ≤ o && o < 0x200)
/-- Window fields that level S writes: TCFG, TROOT1, TROOT2, TSAVE, TFRING, TPOWER, TINIT, TFAB, TOFF, TMIG. -/
def windowS (o : Nat) : Bool :=
  o == 0 || o == 8 || o == 0x10 || o == 0x18 || o == 0x20 || o == 0x30 || (0x220 ≤ o && o < 0x240) || o == 0x300 || o == 0x308 || o == 0x318
/-- Window offsets that exist (each 8 B aligned). -/
def windowHas (o : Nat) : Bool := o % 8 == 0 && (windowT o || windowS o || o == 0x200 || o == 0x310)

/-- The PRIVILEGE trap that a translated access takes (R298, R338, R352, R366). -/
def State.paPrivilege (s : State) (k : Nat) (lv : Level) (pa : Nat) (write : Bool) : Bool :=
  if !isReg pa || lv == .s then false
  else if pa < 0x8100000000 then true
  else if isAperture pa then write && lv == .u
  else
    match windowOf pa with
    | some (t, o) =>
      if t = 0 || (s.tagOf k != some t) then false
      else if write then windowS (o / 8 * 8) || (lv == .u && windowT (o / 8 * 8))
      else lv == .u
    | none => true

end Sys2Proof.Machine
end

