-- ==== Sys2Proof/Machine/Registers.lean ====
section
/-! DEFINITION. What a read of a memory-mapped register returns (Tables 16.6, 17.10, 20.1, 22.1, 22.2, 22.6), and the pressure that TSTAT
shows (R341). Writes are steps of their own. -/

namespace Sys2Proof.Machine

/-- Clusters that a territory owns. -/
def State.clustersOf (s : State) (t : Nat) : List Nat := (List.range 256).filter (fun c => (s.clus c).owner == some t)

/-- Table 20.2. -/
def State.tlive (s : State) (t : Nat) : Bool := wbit (s.terr t).win.tcfg 29

/-! ### The save region and the control blocks -/

/-- What a unit of territory `t` reads in global memory (R357). -/
def State.gread (s : State) (t a n : Nat) : List Byte := s.gseen (s.keyOf t a) a n
def State.gnat (s : State) (t a n : Nat) : Nat := leNat (s.gread t a n)

def tsaveBase (w : Word) : Nat := 4096 * bits w 12 28
def tsaveEntries (w : Word) : Nat := bits w 52 12
/-- The state byte of save entry `i` (Table 20.7). -/
def State.saveState (s : State) (t i : Nat) : Nat := s.gnat t (tsaveBase (s.terr t).win.tsave + 17408 * i) 1
def State.saveWith (s : State) (t v : Nat) : List Nat :=
  (List.range (tsaveEntries (s.terr t).win.tsave)).filter (fun i => s.saveState t i == v)

/-- A queue's control block (Table 20.12). -/
def State.qcbAt (s : State) (t q : Nat) : Nat := 64 * bits (s.terr t).win.tqcb 6 34 + 64 * q
def State.qcount (s : State) (t : Nat) : Nat := bits (s.terr t).win.tqcb 40 16
/-- The 128-bit control word: ring address, lg, head, tail, pend. -/
def State.qcb (s : State) (t q : Nat) : Nat := s.gnat t (s.qcbAt t q) 16
def qcbRing (v : Nat) : Nat := 64 * (v / 2 ^ 6 % 2 ^ 40)
def qcbLg (v : Nat) : Nat := v / 2 ^ 84 % 16
def qcbHead (v : Nat) : Nat := v / 2 ^ 88 % 65536
def qcbTail (v : Nat) : Nat := v / 2 ^ 104 % 65536
def qcbPend (v : Nat) : Bool := v / 2 ^ 120 % 2 == 1
/-- Records in a ring. -/
def qcbHeld (v : Nat) : Nat := (qcbTail v + 65536 - qcbHead v) % 65536
/-- The control word with another head, tail and pend; its reserved bits are written as 0 (R4). -/
def qcbWith (v head tail : Nat) (pend : Bool) : Nat :=
  v / 2 ^ 6 % 2 ^ 40 * 2 ^ 6 + qcbLg v * 2 ^ 84 + head % 65536 * 2 ^ 88 + tail % 65536 * 2 ^ 104 + ofBool pend * 2 ^ 120

/-- The slot that maps a queue (R355). -/
def Terr.slotOf (t : Terr) (q : Nat) : Option Nat := (t.slots.find? (fun e => e.2.mapped && e.2.queue == q)).map (·.1)

/-- Helpers started by dispatch or restore that have not ended, on one core. -/
def Core.taskHelpers (c : Core) : Nat := (c.ctxs.filter (fun e => 1 ≤ e.1 && e.1 ≤ 10 && e.2.task.any (·.own))).length

/-- W of R341. -/
def State.work (s : State) (t : Nat) : Nat :=
  ((s.terr t).slots.map (fun e => e.2.recs.length)).sum
    + ((List.range (s.qcount t)).map (fun q => qcbHeld (s.qcb t q))).sum
    + (s.saveWith t 1).length
    + ((s.clustersOf t).map (fun c => ((coresOf c).map (fun k => (s.core k).taskHelpers)).sum)).sum

/-- P, W and n of R341, exactly; all 0 for territory 0. -/
def State.pressure (s : State) (t : Nat) : View :=
  if t = 0 then ⟨0, 0, 0, 0, s.now⟩
  else
    let n := (s.clustersOf t).length
    let w := s.work t
    ⟨t, min 0xFFFF (256 * w / n), w, n, s.now⟩

/-- TSTAT and PRESS mode 0. -/
def View.word (v : View) : Word := Machine.word (v.p * 2 ^ 48 + v.n * 2 ^ 39 + v.w % 2 ^ 32)

/-! ### Reads -/

/-- OCC[t] (R297); after a tag error it can read one too high (R318). -/
def CacheSlice.occ (c : CacheSlice) (t : Nat) : Nat :=
  (c.ways.filter (fun e => e.2.owner == t)).length + ofBool (c.occExtra.contains t)

def CacheSlice.mask (c : CacheSlice) (t : Nat) : BitVec 16 := (kget c.wmask t).getD 0xFFFF

/-- A register block of a slice (Table 16.6): offset, width. -/
def CacheSlice.regRead (c : CacheSlice) (o n : Nat) : Option Nat :=
  if o = 0 ∧ n = 8 then some (c.c + 256 * ofBool c.lock)
  else if o = 8 ∧ n = 8 then some (c.uncorr.toNat * 2 ^ 32 + c.corr.toNat)
  else if 0x200 ≤ o ∧ o < 0x400 ∧ n = 2 ∧ o % 2 = 0 then some (c.mask ((o - 0x200) / 2)).toNat
  else if 0x400 ≤ o ∧ o < 0x800 ∧ n = 4 ∧ o % 4 = 0 then some (c.occ ((o - 0x400) / 4))
  else none

/-- A containment rectangle as it reads (Table 17.10): kill reads 0, and a rectangle over the supervisor core is disabled. -/
def State.crect (s : State) (d n : Nat) : Word :=
  let w := (kget s.crects (64 * d + n)).getD 0 &&& 0x01FFFFE1#64
  if bits w 5 5 = 0 ∧ bits w 10 5 = 0 then w &&& ~~~1#64 else w

/-- A field of a territory's window (Tables 20.1, 22.6). -/
def State.windowRead (s : State) (t o : Nat) : Option Nat :=
  let w := (s.terr t).win
  if !windowHas o then none
  else if o = 0 then some w.tcfg.toNat
  else if o = 8 then some w.root1.toNat
  else if o = 0x10 then some w.root2.toNat
  else if o = 0x18 then some w.tsave.toNat
  else if o = 0x20 then some w.tfring.toNat
  else if o = 0x28 then some w.tfhead.toNat
  else if o = 0x30 then some w.tpower.toNat
  else if o < 0x80 then some (w.tclass.toList.getD ((o - 0x40) / 8) 0).toNat
  else if o = 0x80 then some w.tqcb.toNat
  else if o < 0x200 then
    match kget (s.terr t).slots ((o - 0x100) / 16) with
    | none => some 0
    | some q => some (if o % 16 = 0 then ofBool q.mapped * 2 ^ 32 + q.rho * 65536 + q.queue else q.recs.length)
  else if o = 0x200 then some (s.pressure t).word.toNat
  else if o < 0x240 then some (w.tinit.toList.getD ((o - 0x220) / 8) 0).toNat
  else if o = 0x300 then some w.tfab.toNat
  else if o = 0x308 then some w.toff.toNat
  else if o = 0x310 then some w.tlast.toNat
  else some w.tmig.toNat

/-- An I/O die register (Table 22.1): offset from 0x80_0400_0000, width. -/
def IoDie.regRead (d : IoDie) (o n : Nat) : Option Nat :=
  if 0x10000 ≤ o ∧ o < 0x30000 then
    if n = 2 ∧ o % 2 = 0 then some ((kget d.route ((o - 0x10000) / 2)).getD 0).toNat else none
  else if n ≠ 8 then none
  else if o < 0x1000 ∧ o % 256 = 0 then some (d.fpcfg.toList.getD (o / 256) 0).toNat
  else if o < 0x1000 ∧ o % 256 = 8 then some (d.fpcnt.toList.getD (o / 256) 0).toNat
  else if 0x1000 ≤ o ∧ o < 0x1080 ∧ o % 8 = 0 then some (d.shkey.toList.getD ((o - 0x1000) / 8) 0).toNat
  else if o = 0x1100 then some d.pkgid.toNat
  else if o = 0x1108 then some (d.tbase % 2 ^ 64)
  else none

/-- A read of a register by core `k` at a level that R54 step 9 lets through: none is a refusal, which traps TRANSLATION. -/
def State.regRead (s : State) (k : Nat) (lv : Level) (pa n : Nat) : Option Nat :=
  if pa < 0x8004000000 then
    let d := (pa - 0x8000000000) / 0x1000000
    let o := pa % 0x1000000
    if o < 0x40000 then (s.slice (64 * d + o / 0x1000)).regRead (o % 0x1000) n
    else if 0x40000 ≤ o ∧ o < 0x40200 ∧ n = 8 ∧ o % 8 = 0 then some (s.crect d ((o - 0x40000) / 8)).toNat
    else none
  else if pa < 0x8100000000 then s.io.regRead (pa - 0x8004000000) n
  else
    match windowOf pa with
    | some (t, o) => if n ≠ 8 ∨ t = 0 ∨ (lv ≠ .s ∧ s.tagOf k ≠ some t) then none else s.windowRead t o
    | none => none

end Sys2Proof.Machine
end

