-- ==== Sys2Proof/Machine/Glob.lean ====
section
/-! DEFINITION. Global accesses of a context: translation and its waits (R309, R310, R374), the stash (R134, R135), requests to the home
slices (R291, R293), write-backs and fences (R143), and local accesses with poison (R150). -/

namespace Sys2Proof.Machine

/-! ### Local bytes (R130, R150) -/

def Core.poisoned (c : Core) (a n : Nat) : Bool := touchesBad c.lbad a n
/-- A write that covers part of a poisoned word fails, because it must read it first. -/
def Core.writePoisoned (c : Core) (a n : Nat) : Bool := touchesBad (heal c.lbad a n) a n
def Core.lread (c : Core) (a n : Nat) : List Byte := mread c.lmem a n
/-- An access to the banks corrects the correctable words that it reads (R149). -/
def Core.mend (c : Core) (a n : Nat) (write : Bool) : Core :=
  if c.weak.isEmpty then c else { c with weak := (corrects c.weak a n write).1, corrected := c.corrected + (corrects c.weak a n write).2 }
/-- Bytes as local memory takes them: the reserved bits of a descriptor (Table 9.4) ignore what is written to them (R4). -/
def tdBytes (a : Nat) (bs : List Byte) : List Byte :=
  if a + bs.length ≤ 0x1E000 || 0x1E400 ≤ a then bs
  else (List.range bs.length).zipWith (fun i b => if 0x1E000 ≤ a + i && a + i < 0x1E400 && (a + i) % 32 == 28 then b &&& 0xFC#8 else b) bs
def Core.lwrite (c : Core) (a : Nat) (bs : List Byte) : Core :=
  { c.mend a bs.length true with lmem := mwrite c.lmem a (tdBytes a bs), lbad := heal c.lbad a bs.length }
def State.mend (s : State) (k a n : Nat) (write : Bool) : State :=
  if (s.core k).weak.isEmpty then s else s.setCore k ((s.core k).mend a n write)
/-- Marks 64-bit words poisoned. -/
def Core.poison (c : Core) (ws : List Nat) : Core := { c with lbad := ws.foldl nput c.lbad }

/-- A scalar access to a local extent: its checks (R128), the interlock with the wide side (R132), and poison on a read (R150). -/
def State.localAccess (s : State) (a n al : Nat) (write : Bool) (k : State → State) : State :=
  let c := s.me
  match c.localCheck s.cx.level a n al with
  | some cs => s.trap cs (word a)
  | none =>
    if s.cx.load.isSome then s.park .memory
    else if c.wideTouches s.cur.2 a n then s.park .wide
    else if (if write then c.writePoisoned a n else c.poisoned a n) then s.trap uncorrectable (word a)
    else k (s.mend s.cur.1 a n write)

/-! ### The phases of an access in progress (`Acc.phase`) -/

def phVerdict : Nat := 0
/-- A walk is under way. -/
def phWalk : Nat := 1
/-- A line fill is awaited. -/
def phFill : Nat := 2
/-- A fence waits for acknowledgements older than `uid`. -/
def phFence : Nat := 3
/-- A write awaits its acknowledgement. -/
def phWrite : Nat := 4
/-- An atomic awaits its answer. -/
def phAtomic : Nat := 5
/-- A read at the home slice awaits its answer. -/
def phRead : Nat := 6
/-- The access is set aside under TMIG.pull (R374). -/
def phPull : Nat := 7
/-- The stash is being resized (R133). -/
def phResize : Nat := 8

def State.setAcc (s : State) (a : Option Acc) : State := s.setCx { s.cx with acc := a }
/-- The phase of the word under way, past its walk. -/
def Ctx.phase (c : Ctx) : Option Nat := c.acc.map (·.phase)

/-! ### Translation of a synchronous access -/

def accKind (acc : Nat) : BitVec 8 := BitVec.ofNat 8 acc

/-- A TRANSLATION trap writes TINFO (R308). -/
def State.translationTrap (s : State) (va : Word) (reason stage acc : Nat) : State :=
  (s.setCx { s.cx with spr := { s.cx.spr with tinfo := BitVec.ofNat 8 (16 * reason + 8 * stage + acc) } }).trap translation va

/-- A refused access traps; TRANSLATION with no reason of Table 17.1 (R290, R298). -/
def State.refusedTrap (s : State) (va : Word) (acc : Nat) (cause : BitVec 8) : State :=
  if cause = translation then s.translationTrap va 0 0 acc else s.trap cause va

/-- Translates (R309, R310): a miss asks for a walk and waits; then the rights of R54 step 9 are checked. -/
def State.translate (s : State) (va : Word) (acc : Nat) (k : Nat → Nat → State → State) : State :=
  let q := clusOf s.cur.1
  let id := s.trId s.cur.1
  let go (s : State) : State :=
    match (s.clus q).lookup id va.toNat acc with
    | some e =>
      let r := e.result va.toNat
      let s1 := (s.setClus q ((s.clus q).touch e))
      let s2 := if s.cx.phase = some phWalk then s1.setAcc none else s1
      if !inMap r.1 then s2.translationTrap va 5 1 acc
      else if s.paPrivilege s.cur.1 s.cx.level r.1 (acc ≠ 0) then s2.trap privilege va else k r.1 r.2 s2
    | none =>
      let c := (s.clus q).expire id va.toNat
      let s0 := s.setClus q c
      -- misses of one cluster to one page share one walk
      let s1 := if c.walks.any (fun w => w.terr == id && w.va / 4096 == va.toNat / 4096) then s0
        else s0.bump.setClus q { c with walks := c.walks ++ [⟨id, va.toNat, acc, s.uid, []⟩] }
      (s1.setAcc (some ⟨phWalk, 4 * va.toNat + acc, none⟩)).park .memory
  match s.cx.acc with
  | some ⟨1, _, some a⟩ => s.translationTrap va (a.val / 8) (a.val % 8) acc
  | some ⟨7, _, none⟩ => s.park .memory
  | some ⟨7, _, some a⟩ =>
    match a.cause with
    | some cs => if cs = translation then s.translationTrap va 1 1 acc else s.trap cs va
    | none => go (s.setAcc none)
  | _ => go s

/-! ### Requests -/

/-- Sends a request from core `k` to the home slice of `pa` (R291). `cache` is the HCACHE payload. -/
def State.request (s : State) (k x uid pa : Nat) (op : SliceOp) (cache : BitVec 6) (attr : Nat) : State :=
  let t := s.terrOf k
  s.send { src := .core k, dst := .slice (homeOf pa), vc := 0, terr := s.tagOf k, fab := none, sentAt := s.now,
           body := .req { core := k, ctx := x, uid := uid, terr := t, key := s.keyOf t pa, pa := pa, op := op,
                          alloc := if attr ≠ 0 then 1 else cache.toNat / 4 % 4, prio := cache.toNat / 16 } }

def State.addOut (s : State) (k : Nat) (o : Out) : State := s.setCore k { s.core k with outs := (s.core k).outs ++ [o] }

/-- Writes bytes at the home slice; the write is outstanding until its acknowledgement (R136). -/
def State.writeThrough (s : State) (k x pa : Nat) (bs : List Byte) (cache : BitVec 6) (attr : Nat) : State :=
  let cells := (List.range bs.length).zipWith (fun i b => (pa + i, b)) bs
  (({ s with uid := s.uid + 1 }).addOut k ⟨s.uid, x, none, 1, false, false, false, none, none, true, false, false⟩).request k x s.uid pa (.write cells []) cache attr

/-- Writes a register (R298): a message that its own step consumes. -/
def State.registerWrite (s : State) (k x pa n v : Nat) : State :=
  ({ s with uid := s.uid + 1 }).send
    { src := .core k, dst := .io, vc := 0, terr := s.tagOf k, fab := none, sentAt := s.now,
      body := .regWrite k x s.uid (s.ctx k x).level (s.terrOf k) pa n v }

/-! ### The stash (R134, R135) -/

/-- The 32-bit words of its line that an access touches. -/
def lineMask (pa n : Nat) : BitVec 16 :=
  BitVec.ofNat 16 (2 ^ ((pa % 64 + n + 3) / 4) - 2 ^ (pa % 64 / 4))

/-- The way that holds a line: its index 8·set + way. -/
def Core.findLine (c : Core) (pa : Nat) : Option (Nat × Line) :=
  if c.stashSets = 0 then none
  else
    let set := pa / 64 % c.stashSets
    ((List.range 8).filterMap (fun w => (kget c.lines (8 * set + w)).map (fun l => (8 * set + w, l)))).find? (fun e => e.2.tag == pa / 64)

/-- Where a line's data stands (R134). -/
def Core.lineData (c : Core) (i : Nat) : Nat := c.stashBase + 64 * i
def Core.setLine (c : Core) (i : Nat) (l : Line) : Core := { c with lines := kput c.lines i l }
/-- A line becomes the most recently used. -/
def Core.touchLine (c : Core) (i : Nat) : Core :=
  match kget c.lines i with
  | some l => { c.setLine i { l with lru := c.lruTick } with lruTick := c.lruTick + 1 }
  | none => c
/-- A line becomes its set's least recently used (evict-first, R48). -/
def Core.coolLine (c : Core) (i : Nat) : Core :=
  { c with
    lines := c.lines.map (fun e => if e.1 = i then (e.1, { e.2 with lru := 1 }) else if e.1 / 8 = i / 8 then (e.1, { e.2 with lru := e.2.lru + 1 }) else e)
    lruTick := c.lruTick + 1 }

/-- The region of a virtual address (R144). -/
def Core.regionOf (c : Core) (va : Nat) : Option Nat := (c.regions.find? (fun e => e.2.base ≤ va && va < e.2.base + e.2.size)).map (·.1)

/-- The bytes of the 32-bit words that a mask selects, as cells at `pa` (64 B aligned), read from `a`. -/
def maskedCells (m : Memory) (a pa : Nat) (d : BitVec 16) : List Host.Cell :=
  (List.range 64).filterMap (fun i => if d.getLsbD (i / 4) then some (pa + i, mget m (a + i)) else none)

/-- Poisoned 64-bit words of a line that a mask touches, as global word addresses. -/
def Core.lineBad (c : Core) (i pa : Nat) (d : BitVec 16) : List Nat :=
  (List.range 8).filterMap (fun w =>
    if (d.getLsbD (2 * w) || d.getLsbD (2 * w + 1)) && c.lbad.contains (c.lineData i / 8 + w) then some (pa / 8 + w) else none)

/-- Writes back a line's dirty words to their home slice with a word mask; the words become clean (R135). -/
def State.writeBack (s : State) (k x i : Nat) : State :=
  let c := s.core k
  match kget c.lines i with
  | none => s
  | some l =>
    if l.d = 0 then s
    else
      let pa := 64 * l.tag
      let c1 := (c.setLine i { l with d := 0 }).mend (c.lineData i) 64 false
      let op : SliceOp := .write (maskedCells c.lmem (c.lineData i) pa l.d) (c.lineBad i pa l.d)
      ((({ s with uid := s.uid + 1 }).setCore k c1).addOut k ⟨s.uid, x, none, 1, false, true, false, none, none, true, false, false⟩).request
        k x s.uid pa op 0 0

/-- Writes back every line that `p` selects. -/
def State.writeBacks (s : State) (k x : Nat) (p : Line → Bool) : State :=
  (((s.core k).lines.filter (fun e => p e.2 && e.2.d != 0)).map (·.1)).foldl (fun s i => s.writeBack k x i) s

/-- The fills under way of the lines that `p` selects validate none of the words in `m` any more. -/
def Core.spoilFills (c : Core) (p : Nat → Bool) (m : BitVec 16) : Core :=
  { c with fills := c.fills.map (fun f => if p f.line then { f with mask := f.mask &&& ~~~m } else f) }

/-- Asks for a line's merging fill (R135); `cool` when the line was allocated evict-first (R48). -/
def State.askFill (s : State) (k x pa : Nat) (cache : BitVec 6) (cool : Bool) : State :=
  let c := s.core k
  let f : Fill := { uid := s.uid, line := pa / 64, mask := 0xFFFF, cool := cool }
  (({ s with uid := s.uid + 1 }).setCore k { c with fills := c.fills ++ [f] }).request
    k x s.uid (pa / 64 * 64) .fill cache 0

/-- Allocates a line for `pa`: the least recently used way of its set, ties to the lowest, its dirty words written back (R135). -/
def State.allocLine (s : State) (k x va pa : Nat) (cool : Bool) : State × Nat :=
  let c := s.core k
  let set := pa / 64 % c.stashSets
  let age (w : Nat) : Nat := match kget c.lines (8 * set + w) with | some l => l.lru | none => 0
  let w := (List.range 8).foldl (fun b w => if age w < age b then w else b) 0
  let i := 8 * set + w
  let s1 := s.writeBack k x i
  let gone (t : Nat) : Bool := (kget c.lines i).any (fun l => l.tag == t)
  let c1 := ((s1.core k).spoilFills gone 0xFFFF).setLine i { tag := pa / 64, v := 0, d := 0, region := c.regionOf va, lru := 0 }
  (s1.setCore k (if cool then c1.coolLine i else c1.touchLine i), i)

/-- The merging fill's end (R135): the words with V = 0 take the line's bytes, and their V is set, but for words that an acquire or an atomic
has invalidated since the fill was asked for. `bad` lists the poisoned words. -/
def Core.mergeFill (c : Core) (f : Fill) (pa : Nat) (bs : List Byte) (bad : List Nat) : Core :=
  match c.findLine pa with
  | none => c
  | some (i, l) =>
    let a := c.lineData i
    let new := f.mask &&& ~~~l.v
    let put (m : Memory) (j : Nat) : Memory := if new.getLsbD (j / 4) then mput m (a + j) (bs.getD j 0) else m
    let whole (w : Nat) : Bool := new.getLsbD (2 * w) && new.getLsbD (2 * w + 1)
    -- a word that the fill covers wholly is healed, and takes what poison the line brings
    let c1 : Core := { c with lmem := (List.range 64).foldl put c.lmem, lbad := c.lbad.filter (fun x => !(x / 8 == a / 64 && whole (x % 8))) }
    let bw := (List.range 8).filterMap (fun w =>
      if bad.contains (pa / 64 * 8 + w) && (new.getLsbD (2 * w) || new.getLsbD (2 * w + 1)) then some (a / 8 + w) else none)
    let c2 := (c1.poison bw).setLine i { l with v := l.v ||| f.mask }
    if f.cool then c2.coolLine i else c2.touchLine i

/-- Writes bytes into a line and marks their words valid and dirty. -/
def Core.lineStore (c : Core) (i pa : Nat) (bs : List Byte) (dirty : Bool) : Core :=
  match kget c.lines i with
  | none => c
  | some l =>
    let m := lineMask pa bs.length
    (c.lwrite (c.lineData i + pa % 64) bs).setLine i { l with v := l.v ||| m, d := if dirty then l.d ||| m else l.d }

/-- Clears V of every clean word of the lines that `p` selects (R143, R145); what their fills under way bring is older, and validates none. -/
def Core.dropClean (c : Core) (p : Line → Bool) : Core :=
  { c.spoilFills (fun t => c.lines.any (fun e => e.2.tag == t && p e.2)) 0xFFFF with
    lines := c.lines.map (fun e => if p e.2 then (e.1, { e.2 with v := e.2.v &&& e.2.d }) else e) }

/-! ### Fences (R143) -/

/-- A write-through store (R136): neither a push nor a write-back, and on no token. -/
def Out.stored (o : Out) : Bool := o.tok.isNone && o.dlv && !o.wback

/-- Writes that a release waits for: every write-back of the core, and the context's own write-throughs, older than `uid`. -/
def Core.owesAcks (c : Core) (x uid : Nat) : Bool :=
  c.outs.any (fun o => o.uid < uid && (o.wback || (o.ctx == x && o.stored)))
/-- A scalar access of the context has still to take effect (R136, R139): its load, or a write-through. -/
def State.scalarBusy (s : State) : Bool :=
  s.cx.load.isSome || s.me.outs.any (fun o => o.ctx == s.cur.2 && o.stored)
/-- Waits until every earlier scalar access of the context has taken effect (R139, R143). -/
def State.settled (s : State) (k : State → State) : State := if s.scalarBusy then s.park .memory else k s

/-- Pushes to other packages not yet delivered. -/
def Core.owesFabric (c : Core) (x uid : Nat) : Bool := c.outs.any (fun o => o.uid < uid && o.fab && o.ctx == x)

/-- The release part of a fence at a scope (0 core to 4 fab), its write-back restricted to the lines that `p` selects; then `k`. -/
def State.fenceRel (s : State) (scope : Nat) (p : Line → Bool) (k : State → State) : State :=
  let core := s.cur.1
  let x := s.cur.2
  let waitFor (s : State) (uid : Nat) : State :=
    if (1 ≤ scope && s.me.owesAcks x uid) || (scope == 4 && s.me.owesFabric x uid) then s.park .memory else k (s.setAcc none)
  match s.cx.acc with
  | some ⟨3, uid, _⟩ => waitFor s uid
  | _ => s.settled fun s =>
    if !s.me.wideIdle x then s.park .wide
    else
      let s1 := if 1 ≤ scope then s.writeBacks core x p else s
      waitFor (s1.setAcc (some ⟨phFence, s1.uid, none⟩)) s1.uid

/-- The acquire part at a scope: clean words of the stash are invalidated. -/
def State.fenceAcq (s : State) (scope : Nat) : State := if 1 ≤ scope then s.setMe (s.me.dropClean (fun _ => true)) else s

/-- The part of a store's or an atomic's release that has no scope (Table 7.6): the context's earlier scalar accesses, and the local accesses
of its earlier wide-side commands. -/
def State.released (s : State) (k : State → State) : State :=
  s.settled fun s => if s.me.wideIdle s.cur.2 then k s else s.park .wide

/-- An LDG or AMOG goes on beside its context (R139): the word completes as far as issue goes, and its answer writes `rd` when it comes. In a
repetition of REP the context keeps to it, as the next repetition would be another access. -/
def State.detach (s : State) (i : Instr) (va : Word) (rd : Reg) (phase uid : Nat) : State :=
  let c := s.cx
  if c.rep.isSome then (s.setAcc (some ⟨phase, uid, none⟩)).park .memory
  else
    let l : Load := { instr := i, va := va, pc := c.pc, streamed := c.streamed, latch := c.latch, rd := rd, phase := phase, uid := uid
                      ans := none, lost := false }
    (s.setCx { c with load := some l }).finish

/-- The release that an ord value asks for before an access (Table 7.6): 0 plain, 1 acq, 2 rel, 3 ar. -/
def ordRel (o : BitVec 2) : Bool := o.getLsbD 1
def ordAcq (o : BitVec 2) : Bool := o.getLsbD 0

end Sys2Proof.Machine
end

