-- ==== Sys2Proof/Machine/Memory.lean ====
section
/-! DEFINITION. LD, ST, LDG and STG (R137 to R139). -/

namespace Sys2Proof.Machine

/-- A loaded value (R138): zero-extended, or sign-extended from its `n` bytes. -/
def loaded (n : Nat) (x : Bool) (v : Nat) : Word := if x then BitVec.ofInt 64 (signedN n v) else word v

/-- The bytes of the sequencer and engine state in the core image (Table 9.3), whose content is not architectural (R177). -/
def inEngineState (a : Nat) : Bool := 0x1E440 ≤ a && a < 0x1E800

/-- The bytes a local load returns: free values in the engine state, memory elsewhere. -/
def State.localValue (s : State) (a n : Nat) : State × Nat :=
  if inEngineState a then ({ s with free := s.free + n }, leNat ((List.range n).map (fun i => Config.freeByte (s.free + i))))
  else (s, mnat s.me.lmem a n)

/-- LD (R138). -/
def execLd (d b : Reg) (z : BitVec 2) (x : Bool) (o : BitVec 2) (f : BitVec 11) (s : State) : Res :=
  let i : Instr := .ld d b z x o f
  .next (s.issueLocal i .u [b] (fun c => [(c.ea b z f).toNat]) fun s => s.withRegs i [b] fun s =>
    let a := (s.cx.ea b z f).toNat
    let n := sizeOf z
    s.localAccess a n n false fun s =>
      let r := s.localValue a n
      r.1.done d (loaded n x r.2))

/-- ST (R138): a releasing store waits for what comes before it (R139). -/
def execSt (d b : Reg) (z : BitVec 2) (o : BitVec 2) (f : BitVec 11) (s : State) : Res :=
  let i : Instr := .st d b z o f
  .next (s.issueLocal i .u [b] (fun c => [(c.ea b z f).toNat]) fun s => s.withRegs i [b, d] fun s =>
    let a := (s.cx.ea b z f).toNat
    let n := sizeOf z
    let store (s : State) : State := (s.setMe (s.me.lwrite a (leBytes n (s.cx.reg d).toNat))).finish
    s.localAccess a n n true fun s => if ordRel o then s.released store else store s)

/-- A load's end: poison traps, and LDG.acq adds FENCE.acq.terr, which waits for the context's earlier accesses, and after which no clean
word of the stash is valid. -/
def ldgDone (d : Reg) (z : BitVec 2) (x : Bool) (o : BitVec 2) (va : Word) (v : Nat) (bad : Bool) (s : State) : State :=
  if bad then s.trap uncorrectable va
  else if ordAcq o then s.settled fun s => (s.fenceAcq 2).done d (loaded (sizeOf z) x v)
  else s.done d (loaded (sizeOf z) x v)

/-- Asks the home slice for `n` bytes. -/
def State.sliceRead (s : State) (pa n attr : Nat) : State :=
  ({ s with uid := s.uid + 1 }).request s.cur.1 s.cur.2 s.uid pa (.read n) (s.cx.latch.cache.getD 0) attr
/-- The word waits for the answer of this phase to the request just sent. -/
def State.await (s : State) (phase uid : Nat) : State := (s.setAcc (some ⟨phase, uid, none⟩)).park .memory

/-- Asks for a line's merging fill (R135). -/
def State.lineFill (s : State) (pa : Nat) (cool : Bool) : State := s.askFill s.cur.1 s.cur.2 pa (s.cx.latch.cache.getD 0) cool

/-- The stash hint of the latch (Table 2.16). -/
def Ctx.stashHint (c : Ctx) : Nat := (c.latch.cache.getD 0).toNat % 4

/-- The access of LDG once translated (R135, R136, R138): a plain one that must ask goes on beside its context (R139). -/
def ldgAt (i : Instr) (d : Reg) (z : BitVec 2) (x : Bool) (o : BitVec 2) (va : Word) (pa attr : Nat) (s : State) : State :=
  let n := sizeOf z
  let core := s.cur.1
  if isReg pa then
    match s.regRead core s.cx.level pa n with
    | none => s.refusedTrap va 0 translation
    | some v => ldgDone d z x o va v false s
  else if s.noStorage pa then s.refusedTrap va 0 translation
  else if ordAcq o then
    let s1 := match s.me.findLine pa with
      | some (j, _) => if attr = 0 then s.writeBack core s.cur.2 j else s
      | none => s
    (s1.sliceRead pa n attr).await phRead s1.uid
  else if attr ≠ 0 || s.me.stashSets = 0 then (s.sliceRead pa n attr).detach i va d phRead s.uid
  else
    match s.me.findLine pa with
    | some (j, l) =>
      if lineMask pa n &&& ~~~l.v = 0 then
        let a := s.me.lineData j + pa % 64
        ldgDone d z x o va (mnat s.me.lmem a n) (s.me.poisoned a n) (s.setMe ((s.me.mend a n false).touchLine j))
      else (s.lineFill pa false).detach i va d phFill s.uid
    | none =>
      if s.cx.stashHint = 1 then (s.sliceRead pa n attr).detach i va d phRead s.uid
      else
        let t := (s.allocLine core s.cur.2 va.toNat pa (s.cx.stashHint = 2)).1
        (t.lineFill pa (s.cx.stashHint = 2)).detach i va d phFill t.uid

/-- A load's bytes and poison in a line that came: 512 bits of data, then a poison bit for each 64-bit word, then the line. -/
def Ans.inLine (a : Ans) (va : Word) (n : Nat) : Nat × Bool :=
  (a.val / 2 ^ (8 * (va.toNat % 64)) % 2 ^ (8 * n), a.val / 2 ^ (512 + va.toNat % 64 / 8) % 2 == 1)

/-- The physical address of an access to `va` whose line came: the answer to a fill names its line above the data and the poison. -/
def Ans.fillPa (a : Ans) (va : Word) : Nat := 64 * (a.val / 2 ^ 520) + va.toNat % 64

/-- LDG (R138). -/
def execLdg (d b : Reg) (z : BitVec 2) (x : Bool) (o : BitVec 2) (f : BitVec 11) (s : State) : Res :=
  let i : Instr := .ldg d b z x o f
  .next (s.issue i .u fun s => s.withRegs i [b] fun s =>
    let va := s.cx.ea b z f
    let n := sizeOf z
    if va.toNat % n ≠ 0 then s.trap misaligned va
    else
      match s.cx.acc with
      | some ⟨2, _, some a⟩ =>
        match a.cause with
        | some c => s.refusedTrap va 0 c
        | none => ldgDone d z x o va (a.inLine va n).1 (a.inLine va n).2 s
      | some ⟨6, _, some a⟩ =>
        match a.cause with
        | some c => s.refusedTrap va 0 c
        | none => ldgDone d z x o va a.val a.poison s
      | some ⟨2, _, none⟩ | some ⟨6, _, none⟩ => s.park .memory
      | _ => s.afterLoad fun s =>
        if s.me.spr.stashBusy then s.park .memory
        else s.translate va 0 fun pa attr s => ldgAt i d z x o va pa attr s)

/-- Sends a store to its home slice and keeps the context until it is acknowledged (R138, R311). -/
def State.storeAndWait (s : State) (pa : Nat) (bs : List Byte) (attr : Nat) : State :=
  let u := s.uid
  let s1 := s.writeThrough s.cur.1 s.cur.2 pa bs (s.cx.latch.cache.getD 0) attr
  (s1.setAcc (some ⟨phWrite, u, none⟩)).park .memory

/-- The access of STG once translated and, for STG.rel, fenced. -/
def stgAt (z : BitVec 2) (o : BitVec 2) (va : Word) (v : Nat) (pa attr : Nat) (s : State) : State :=
  let n := sizeOf z
  let core := s.cur.1
  let x := s.cur.2
  let bs := leBytes n v
  let hint := s.cx.latch.cache.getD 0
  if isReg pa then
    let u := s.uid
    ((s.registerWrite core x pa n (leNat bs)).setAcc (some ⟨phWrite, u, none⟩)).park .memory
  else if s.noStorage pa then s.refusedTrap va 1 translation
  else if ordRel o then
    match s.me.findLine pa with
    | some (i, l) =>
      -- a part of a word that the stash does not hold stays out of it
      if attr ≠ 0 || (n < 4 && lineMask pa n &&& l.v = 0) then
        -- and no fill under way brings it as it was before the store (R300)
        (s.setMe (s.me.spoilFills (· == l.tag) (lineMask pa n))).storeAndWait pa bs attr
      else if s.me.writePoisoned (s.me.lineData i + pa % 64) n then s.trap uncorrectable va
      else (s.setMe (s.me.lineStore i pa bs false)).storeAndWait pa bs attr
    | none => s.storeAndWait pa bs attr
  else if attr = 2 then s.storeAndWait pa bs attr
  else if attr = 1 || s.me.stashSets = 0 then (s.writeThrough core x pa bs hint attr).finish
  else
    match s.me.findLine pa with
    | none =>
      if s.cx.stashHint = 1 then (s.writeThrough core x pa bs hint attr).finish
      else
        let r := s.allocLine core x va.toNat pa (s.cx.stashHint = 2)
        if n < 4 then (r.1.lineFill pa (s.cx.stashHint = 2)).await phFill r.1.uid
        else if r.1.me.writePoisoned (r.1.me.lineData r.2 + pa % 64) n then r.1.trap uncorrectable va
        else (r.1.setMe (r.1.me.lineStore r.2 pa bs true)).finish
    | some (i, l) =>
      if n < 4 && lineMask pa n &&& l.v = 0 then (s.lineFill pa false).await phFill s.uid
      else if s.me.writePoisoned (s.me.lineData i + pa % 64) n then s.trap uncorrectable va
      else (s.setMe ((s.me.lineStore i pa bs true).touchLine i)).finish

/-- A store into part of a word ends when its line's fill has come (R135): the fill has made the line the most recently used, or under
evict-first the next victim (R48). A line that has left the stash again is asked for again. -/
def stgFilled (va : Word) (n v : Nat) (a : Ans) (again : State → State) (s : State) : State :=
  let pa := a.fillPa va
  match s.me.findLine pa with
  | none => again s
  | some (i, l) =>
    if lineMask pa n &&& l.v = 0 then again s
    else if s.me.writePoisoned (s.me.lineData i + pa % 64) n then s.trap uncorrectable va
    else (s.setMe (s.me.lineStore i pa (leBytes n v) true)).finish

/-- STG (R138). -/
def execStg (d b : Reg) (z : BitVec 2) (o : BitVec 2) (f : BitVec 11) (s : State) : Res :=
  let i : Instr := .stg d b z o f
  .next (s.issue i .u fun s => s.withRegs i [b, d] fun s =>
    let va := s.cx.ea b z f
    let n := sizeOf z
    let go (s : State) : State := s.afterLoad fun s =>
      if s.me.spr.stashBusy then s.park .memory
      else s.translate va 1 fun pa attr s =>
        if ordRel o then s.fenceRel 2 (fun _ => true) fun s => stgAt z o va (s.cx.reg d).toNat pa attr s
        else stgAt z o va (s.cx.reg d).toNat pa attr s
    if va.toNat % n ≠ 0 then s.trap misaligned va
    else
      match s.cx.acc with
      | some ⟨4, _, some a⟩ =>
        match a.cause with
        | some c => s.refusedTrap va 1 c
        | none => s.finish
      | some ⟨2, _, some a⟩ =>
        match a.cause with
        | some c => s.refusedTrap va 1 c
        | none => stgFilled va n (s.cx.reg d).toNat a (fun s => go (s.setAcc none)) s
      | some ⟨4, _, none⟩ | some ⟨2, _, none⟩ => s.park .memory
      | _ => go s)

end Sys2Proof.Machine
end

