-- ==== Sys2Proof/Machine/Atomic.lean ====
section
/-! DEFINITION. AMO and AMOG (R140, R141). -/

namespace Sys2Proof.Machine

/-- The old value as the destination takes it (R141). -/
def oldValue (n old : Nat) : Word := if n = 4 then BitVec.ofInt 64 (signedN 4 old) else word old

/-- A local atomic (R141): one read-modify-write of `2^z` bytes. -/
def amoWord (i : Instr) (fn : AmoFn) (d a b : Reg) (z o : BitVec 2) (s : State) : State :=
  s.issueLocal i .u [a] (fun c => [(c.reg a).toNat]) fun s => s.withRegs i [a, d, b] fun s =>
    let at_ := (s.cx.reg a).toNat
    let n := sizeOf z
    let go (s : State) : State :=
      let old := mnat s.me.lmem at_ n
      let new := amo fn n old ((s.cx.reg b).toNat % 2 ^ (8 * n)) ((s.cx.reg d).toNat % 2 ^ (8 * n))
      (s.setMe (s.me.lwrite at_ (leBytes n new))).done d (oldValue n old)
    s.localAccess at_ n n false fun s => if ordRel o then s.released go else go s

/-- A global atomic once translated and, with a release part, fenced; a plain one goes on beside its context (R139). -/
def amogAt (i : Instr) (fn : AmoFn) (d b : Reg) (n : Nat) (o : BitVec 2) (va : Word) (pa attr : Nat) (s : State) : State :=
  let core := s.cur.1
  let x := s.cur.2
  let s1 : State :=
    match s.me.findLine pa with
    | some (j, l) =>
      if attr ≠ 0 then s
      else
        let t := s.writeBack core x j
        t.setMe ((t.me.spoilFills (· == l.tag) (lineMask pa n)).setLine j { l with v := l.v &&& ~~~(lineMask pa n), d := 0 })
    | none => s
  let op : SliceOp := .atomic fn.code n ((s.cx.reg b).toNat % 2 ^ (8 * n)) ((s.cx.reg d).toNat % 2 ^ (8 * n))
  let s2 := ({ s1 with uid := s1.uid + 1 }).request core x s1.uid pa op (s.cx.latch.cache.getD 0) attr
  if o = 0 then s2.detach i va d phAtomic s1.uid else s2.await phAtomic s1.uid

/-- A global atomic (R141): release part, the stash steps, the atomic at the home slice, acquire part. -/
def amogWord (i : Instr) (fn : AmoFn) (d a b : Reg) (z o : BitVec 2) (sc : BitVec 3) (s : State) : State :=
  s.issue i .u fun s => s.withRegs i [a, d, b] fun s =>
    let va := s.cx.reg a
    let n := sizeOf z
    if va.toNat % n ≠ 0 then s.trap misaligned va
    else
      match s.cx.acc with
      | some ⟨5, _, some r⟩ =>
        match r.cause with
        | some c => s.refusedTrap va 2 c
        | none =>
          if r.poison then s.trap uncorrectable va
          else if ordAcq o then s.settled fun s => (s.fenceAcq sc.toNat).done d (oldValue n r.val)
          else s.done d (oldValue n r.val)
      | some ⟨5, _, none⟩ => s.park .memory
      | _ => s.afterLoad fun s =>
        if s.me.spr.stashBusy then s.park .memory
        else s.translate va 2 fun pa attr s =>
          if attr = 2 || s.noStorage pa then s.refusedTrap va 2 translation
          else if ordRel o then s.fenceRel sc.toNat (fun _ => true) fun s => amogAt i fn d b n o va pa attr s
          else amogAt i fn d b n o va pa attr s

/-! ### The end of an access beside its context (R139) -/

/-- Bytes of the access that a load makes, and the value that its answer gives. -/
def Load.value (l : Load) (a : Ans) : Word :=
  match l.instr with
  | .ldg _ _ z x _ _ => loaded (sizeOf z) x (if l.phase = phFill then (a.inLine l.va (sizeOf z)).1 else a.val)
  | .aaddg _ _ _ z .. | .aswapg _ _ _ z .. | .acasg _ _ _ z .. | .aminsg _ _ _ z .. | .amaxsg _ _ _ z .. | .aminng _ _ _ z ..
  | .amaxng _ _ _ z .. | .aandg _ _ _ z .. | .aorg _ _ _ z .. | .axorg _ _ _ z .. => oldValue (sizeOf z) a.val
  | _ => 0
/-- The cause with which an answer makes the access trap, if it does. -/
def Load.failure (l : Load) (a : Ans) : Option (BitVec 8) :=
  match a.cause with
  | some c => some c
  | none =>
    let bad : Bool := match l.instr with
      | .ldg _ _ z _ _ _ => if l.phase = phFill then (a.inLine l.va (sizeOf z)).2 else a.poison
      | _ => a.poison
    if bad then some uncorrectable else none

/-- The answer of the load under way: it writes its destination, unless a later word has; one that fails stays for the trap. -/
def Ctx.loadAnswer (c : Ctx) (l : Load) (a : Ans) : Ctx :=
  if (l.failure a).isSome then { c with load := some { l with ans := some a } }
  else if l.lost then { c with load := none }
  else { c.putReg l.rd (l.value a) with load := none }

/-- The trap of a load that failed (R139): the context stands at its word again. Effects of words issued after it remain: the spec does not
say what becomes of them (DESIGN CHOICE, log entry 76). -/
def State.loadTrap (s : State) (l : Load) (a : Ans) : State :=
  let s1 := s.setCx { s.cx with load := none, pc := l.pc, mode := if l.streamed then .streamed else .loc, latch := l.latch, acc := none, waited := false }
  s1.refusedTrap l.va (if l.phase = phAtomic then 2 else 0) ((l.failure a).getD uncorrectable)

/-- AADD (R141, Table 7.9). -/
def execAadd (d a b : Reg) (z o : BitVec 2) (s : State) : Res := .next (amoWord (.aadd d a b z o) .add d a b z o s)
/-- ASWAP (R141, Table 7.9). -/
def execAswap (d a b : Reg) (z o : BitVec 2) (s : State) : Res := .next (amoWord (.aswap d a b z o) .swap d a b z o s)
/-- ACAS (R141, Table 7.9). -/
def execAcas (d a b : Reg) (z o : BitVec 2) (s : State) : Res := .next (amoWord (.acas d a b z o) .cas d a b z o s)
/-- AMINS (R141, Table 7.9). -/
def execAmins (d a b : Reg) (z o : BitVec 2) (s : State) : Res := .next (amoWord (.amins d a b z o) .mins d a b z o s)
/-- AMAXS (R141, Table 7.9). -/
def execAmaxs (d a b : Reg) (z o : BitVec 2) (s : State) : Res := .next (amoWord (.amaxs d a b z o) .maxs d a b z o s)
/-- AMINN (R141, Table 7.9). -/
def execAminn (d a b : Reg) (z o : BitVec 2) (s : State) : Res := .next (amoWord (.aminn d a b z o) .minn d a b z o s)
/-- AMAXN (R141, Table 7.9). -/
def execAmaxn (d a b : Reg) (z o : BitVec 2) (s : State) : Res := .next (amoWord (.amaxn d a b z o) .maxn d a b z o s)
/-- AAND (R141, Table 7.9). -/
def execAand (d a b : Reg) (z o : BitVec 2) (s : State) : Res := .next (amoWord (.aand d a b z o) .and d a b z o s)
/-- AOR (R141, Table 7.9). -/
def execAor (d a b : Reg) (z o : BitVec 2) (s : State) : Res := .next (amoWord (.aor d a b z o) .or d a b z o s)
/-- AXOR (R141, Table 7.9). -/
def execAxor (d a b : Reg) (z o : BitVec 2) (s : State) : Res := .next (amoWord (.axor d a b z o) .xor d a b z o s)
/-- AADDG (R141, Table 7.9). -/
def execAaddg (d a b : Reg) (z o : BitVec 2) (xs : BitVec 3) (s : State) : Res := .next (amogWord (.aaddg d a b z o xs) .add d a b z o xs s)
/-- ASWAPG (R141, Table 7.9). -/
def execAswapg (d a b : Reg) (z o : BitVec 2) (xs : BitVec 3) (s : State) : Res := .next (amogWord (.aswapg d a b z o xs) .swap d a b z o xs s)
/-- ACASG (R141, Table 7.9). -/
def execAcasg (d a b : Reg) (z o : BitVec 2) (xs : BitVec 3) (s : State) : Res := .next (amogWord (.acasg d a b z o xs) .cas d a b z o xs s)
/-- AMINSG (R141, Table 7.9). -/
def execAminsg (d a b : Reg) (z o : BitVec 2) (xs : BitVec 3) (s : State) : Res := .next (amogWord (.aminsg d a b z o xs) .mins d a b z o xs s)
/-- AMAXSG (R141, Table 7.9). -/
def execAmaxsg (d a b : Reg) (z o : BitVec 2) (xs : BitVec 3) (s : State) : Res := .next (amogWord (.amaxsg d a b z o xs) .maxs d a b z o xs s)
/-- AMINNG (R141, Table 7.9). -/
def execAminng (d a b : Reg) (z o : BitVec 2) (xs : BitVec 3) (s : State) : Res := .next (amogWord (.aminng d a b z o xs) .minn d a b z o xs s)
/-- AMAXNG (R141, Table 7.9). -/
def execAmaxng (d a b : Reg) (z o : BitVec 2) (xs : BitVec 3) (s : State) : Res := .next (amogWord (.amaxng d a b z o xs) .maxn d a b z o xs s)
/-- AANDG (R141, Table 7.9). -/
def execAandg (d a b : Reg) (z o : BitVec 2) (xs : BitVec 3) (s : State) : Res := .next (amogWord (.aandg d a b z o xs) .and d a b z o xs s)
/-- AORG (R141, Table 7.9). -/
def execAorg (d a b : Reg) (z o : BitVec 2) (xs : BitVec 3) (s : State) : Res := .next (amogWord (.aorg d a b z o xs) .or d a b z o xs s)
/-- AXORG (R141, Table 7.9). -/
def execAxorg (d a b : Reg) (z o : BitVec 2) (xs : BitVec 3) (s : State) : Res := .next (amogWord (.axorg d a b z o xs) .xor d a b z o xs s)

end Sys2Proof.Machine
end

