-- ==== Sys2Proof/Machine/Alu.lean ====
section
/-! DEFINITION. ALU and ALUI (R105 to R109). -/

namespace Sys2Proof.Machine

/-- An ALU word with two sources (R105, R107). -/
def aluWord (i : Instr) (f : AluFn) (d a b : Reg) (w : Bool) (s : State) : State :=
  s.issue i .u fun s => s.withRegs i [a, b] fun s => (s.take w a).done d (alu f (s.cx.reg a) (s.cx.reg b))

/-- An ALU word with one source. -/
def aluWord1 (i : Instr) (f : Word → Word) (d a : Reg) (w : Bool) (s : State) : State :=
  s.issue i .u fun s => s.withRegs i [a] fun s => (s.take w a).done d (f (s.cx.reg a))

/-- An ALU word with three sources (SEL, MADD). -/
def aluWord3 (i : Instr) (f : Word → Word → Word → Word) (d a b c : Reg) (w : Bool) (s : State) : State :=
  s.issue i .u fun s => s.withRegs i [a, b, c] fun s =>
    (s.take w a).done d (f (s.cx.reg a) (s.cx.reg b) (s.cx.reg c))

/-- An ALUI word (R109): a shift accepts an immediate of 0 to 63 only, checked at decode. -/
def aluiWord (i : Instr) (f : AluiFn) (d a : Reg) (m : BitVec 12) (s : State) : State :=
  if f.isShift && 63 < (s.cx.imm m).toNat then s.trap illegalOp (s.cx.wordImm i m)
  else s.issue i .u fun s => s.withRegs i [a] fun s => s.done d (alui f (s.cx.reg a) (s.cx.imm m))

/-- ADD (R107, Table 6.2). -/
def execAdd (d a b : Reg) (w : Bool) (s : State) : Res := .next (aluWord (.add d a b w) .add d a b w s)

/-- SUB (R107, Table 6.2). -/
def execSub (d a b : Reg) (w : Bool) (s : State) : Res := .next (aluWord (.sub d a b w) .sub d a b w s)

/-- AND (R107, Table 6.2). -/
def execAndR (d a b : Reg) (w : Bool) (s : State) : Res := .next (aluWord (.andR d a b w) .and d a b w s)

/-- OR (R107, Table 6.2). -/
def execOrR (d a b : Reg) (w : Bool) (s : State) : Res := .next (aluWord (.orR d a b w) .or d a b w s)

/-- XOR (R107, Table 6.2). -/
def execXorR (d a b : Reg) (w : Bool) (s : State) : Res := .next (aluWord (.xorR d a b w) .xor d a b w s)

/-- SHL (R107, Table 6.2). -/
def execShl (d a b : Reg) (w : Bool) (s : State) : Res := .next (aluWord (.shl d a b w) .shl d a b w s)

/-- SHR (R107, Table 6.2). -/
def execShr (d a b : Reg) (w : Bool) (s : State) : Res := .next (aluWord (.shr d a b w) .shr d a b w s)

/-- SRA (R107, Table 6.2). -/
def execSra (d a b : Reg) (w : Bool) (s : State) : Res := .next (aluWord (.sra d a b w) .sra d a b w s)

/-- ROTL (R107, Table 6.2). -/
def execRotl (d a b : Reg) (w : Bool) (s : State) : Res := .next (aluWord (.rotl d a b w) .rotl d a b w s)

/-- MUL (R107, Table 6.2). -/
def execMul (d a b : Reg) (w : Bool) (s : State) : Res := .next (aluWord (.mul d a b w) .mul d a b w s)

/-- MULHS (R107, Table 6.2). -/
def execMulhs (d a b : Reg) (w : Bool) (s : State) : Res := .next (aluWord (.mulhs d a b w) .mulhs d a b w s)

/-- MULHN (R107, Table 6.2). -/
def execMulhn (d a b : Reg) (w : Bool) (s : State) : Res := .next (aluWord (.mulhn d a b w) .mulhn d a b w s)

/-- DIVS (R107, Table 6.2). -/
def execDivs (d a b : Reg) (w : Bool) (s : State) : Res := .next (aluWord (.divs d a b w) .divs d a b w s)

/-- DIVN (R107, Table 6.2). -/
def execDivn (d a b : Reg) (w : Bool) (s : State) : Res := .next (aluWord (.divn d a b w) .divn d a b w s)

/-- REMS (R107, Table 6.2). -/
def execRems (d a b : Reg) (w : Bool) (s : State) : Res := .next (aluWord (.rems d a b w) .rems d a b w s)

/-- REMN (R107, Table 6.2). -/
def execRemn (d a b : Reg) (w : Bool) (s : State) : Res := .next (aluWord (.remn d a b w) .remn d a b w s)

/-- MINS (R107, Table 6.2). -/
def execMins (d a b : Reg) (w : Bool) (s : State) : Res := .next (aluWord (.mins d a b w) .mins d a b w s)

/-- MINN (R107, Table 6.2). -/
def execMinn (d a b : Reg) (w : Bool) (s : State) : Res := .next (aluWord (.minn d a b w) .minn d a b w s)

/-- MAXS (R107, Table 6.2). -/
def execMaxs (d a b : Reg) (w : Bool) (s : State) : Res := .next (aluWord (.maxs d a b w) .maxs d a b w s)

/-- MAXN (R107, Table 6.2). -/
def execMaxn (d a b : Reg) (w : Bool) (s : State) : Res := .next (aluWord (.maxn d a b w) .maxn d a b w s)

/-- SLTS (R107, Table 6.2). -/
def execSlts (d a b : Reg) (w : Bool) (s : State) : Res := .next (aluWord (.slts d a b w) .slts d a b w s)

/-- SLTN (R107, Table 6.2). -/
def execSltn (d a b : Reg) (w : Bool) (s : State) : Res := .next (aluWord (.sltn d a b w) .sltn d a b w s)

/-- SEQ (R107, Table 6.2). -/
def execSeq (d a b : Reg) (w : Bool) (s : State) : Res := .next (aluWord (.seq d a b w) .seq d a b w s)

/-- ANDN (R107, Table 6.2). -/
def execAndn (d a b : Reg) (w : Bool) (s : State) : Res := .next (aluWord (.andn d a b w) .andn d a b w s)

/-- CLZ (R107, Table 6.2). -/
def execClz (d a : Reg) (w : Bool) (s : State) : Res := .next (aluWord1 (.clz d a w) clz64 d a w s)

/-- CTZ (R107, Table 6.2). -/
def execCtz (d a : Reg) (w : Bool) (s : State) : Res := .next (aluWord1 (.ctz d a w) ctz64 d a w s)

/-- POPC (R107, Table 6.2). -/
def execPopc (d a : Reg) (w : Bool) (s : State) : Res := .next (aluWord1 (.popc d a w) popcount d a w s)

/-- SEL (R107, Table 6.2). -/
def execSel (d a b : Reg) (w : Bool) (c : Reg) (s : State) : Res :=
  .next (aluWord3 (.sel d a b w c) (fun x y z => if z ≠ 0 then x else y) d a b c w s)

/-- MADD (R107, Table 6.2). -/
def execMadd (d a b : Reg) (w : Bool) (c : Reg) (s : State) : Res :=
  .next (aluWord3 (.madd d a b w c) (fun x y z => x * y + z) d a b c w s)

/-- ADDI (R109, Table 6.5). -/
def execAddi (d a : Reg) (i : BitVec 12) (s : State) : Res := .next (aluiWord (.addi d a i) .add d a i s)

/-- ANDI (R109, Table 6.5). -/
def execAndi (d a : Reg) (i : BitVec 12) (s : State) : Res := .next (aluiWord (.andi d a i) .and d a i s)

/-- ORI (R109, Table 6.5). -/
def execOri (d a : Reg) (i : BitVec 12) (s : State) : Res := .next (aluiWord (.ori d a i) .or d a i s)

/-- XORI (R109, Table 6.5). -/
def execXori (d a : Reg) (i : BitVec 12) (s : State) : Res := .next (aluiWord (.xori d a i) .xor d a i s)

/-- SHLI (R109, Table 6.5). -/
def execShli (d a : Reg) (i : BitVec 12) (s : State) : Res := .next (aluiWord (.shli d a i) .shl d a i s)

/-- SHRI (R109, Table 6.5). -/
def execShri (d a : Reg) (i : BitVec 12) (s : State) : Res := .next (aluiWord (.shri d a i) .shr d a i s)

/-- SRAI (R109, Table 6.5). -/
def execSrai (d a : Reg) (i : BitVec 12) (s : State) : Res := .next (aluiWord (.srai d a i) .sra d a i s)

/-- SLTSI (R109, Table 6.5). -/
def execSltsi (d a : Reg) (i : BitVec 12) (s : State) : Res := .next (aluiWord (.sltsi d a i) .slts d a i s)

/-- SLTNI (R109, Table 6.5). -/
def execSltni (d a : Reg) (i : BitVec 12) (s : State) : Res := .next (aluiWord (.sltni d a i) .sltn d a i s)

/-- SEQI (R109, Table 6.5). -/
def execSeqi (d a : Reg) (i : BitVec 12) (s : State) : Res := .next (aluiWord (.seqi d a i) .seq d a i s)

/-- MULI (R109, Table 6.5). -/
def execMuli (d a : Reg) (i : BitVec 12) (s : State) : Res := .next (aluiWord (.muli d a i) .mul d a i s)

/-- LDI (R109, Table 6.5): it reads no register. -/
def execLdi (d : Reg) (i : BitVec 12) (s : State) : Res :=
  .next (s.issue (.ldi d i) .u fun s => s.done d (s.cx.imm i))

end Sys2Proof.Machine
end

