-- ==== Sys2Proof/Machine/Engine.lean ====
section
/-! DEFINITION. What the four engines share: whose command is next (R49, R173), when it can start (R175, R181), how it is discarded, and how a
command reads its operands and takes effect one granule at a time (R130). -/

namespace Sys2Proof.Machine

/-- Commands of a context that are queued, over every engine. -/
def Core.queuedOf (c : Core) (x : Nat) : List Cmd := (c.engines.flatMap (·.queue)).filter (fun q => q.ctx == x)

/-- QS entries that a captured word takes for its register operands (R197): a push takes two. -/
def seqTakes : Instr → Nat
  | .pushs .. => 2
  | i => (cmdRegs i).length
/-- QS entries that a command takes when it starts (R175): its own, and those that stand for the register operands of a captured word. -/
def Cmd.qsNeeds (q : Cmd) : Nat := (if q.seq.isSome && q.vals.isEmpty then seqTakes q.instr else 0) + qsTakes q.instr

/-- QS entries in program order (R175): every earlier command that takes one has taken it, and the entries are there. -/
def Core.qsReady (c : Core) (q : Cmd) : Bool :=
  q.qsNeeds == 0 || (!(c.queuedOf q.ctx).any (fun p => p.uid < q.uid && p.qsNeeds != 0) && q.qsNeeds ≤ (c.wctx q.ctx).qs.length)

/-- QW slots in program order (R175). -/
def Core.qwReady (c : Core) (q : Cmd) : Bool :=
  !qwGives q.instr || (!(c.queuedOf q.ctx).any (fun p => p.uid < q.uid && qwGives p.instr) && (c.wctx q.ctx).qw.length < 8)

/-- No earlier command of the context that is still to finish conflicts with it over a granule (R173). -/
def Core.granulesFree (c : Core) (q : Cmd) : Bool := !(c.cmdsOf q.ctx).any (fun p => p.uid < q.uid && c.conflicts p q)

/-- No command of the context still to finish writes a mask: the vector unit's commands of one context take effect in order (R151), and one
that starts reads its masks as the earlier ones leave them. -/
def Core.masksFree (c : Core) (q : Cmd) : Bool :=
  engOf q.instr != .vec || !c.vec.started.any (fun r => r.cmd.ctx == q.ctx && (r.mask.isSome || r.phase == 0))

/-- The core's units work: it is neither fenced nor killed nor disabled. -/
def State.works (s : State) (k : Nat) : Bool := !(s.stat k).fenced && !(s.stat k).killed && !s.disabled.contains k

/-- The head of a context's queue can go (R181), unless the context is stopped and what it holds with it (R92): a false guard discards it; a
true one lets it start when its operands are there. An MMA or MMAG of a context that is to stop stays held (R262). A prefetch waits while the stash is resized, as an LDG does (R133). -/
def Core.canStart (c : Core) (q : Cmd) : Bool :=
  (c.wctx q.ctx).run != .stopped .saved && c.atHead q
    && !(((c.wctx q.ctx).halting || (c.wctx q.ctx).yielding) && (match q.instr with | .mma .. | .mmag .. => true | _ => false)) &&
    (match c.guardFor q with
     | .unresolved => false
     | .no => true
     | .yes => c.qsReady q && c.qwReady q && c.granulesFree q && c.masksFree q
         && !((match q.instr with | .vpref _ => true | _ => false) && c.spr.stashBusy))

/-- The first queued command of each context. -/
def headsOf : List Cmd → List Nat → List Cmd
  | [], _ => []
  | q :: r, seen => if seen.contains q.ctx then headsOf r seen else q :: headsOf r (q.ctx :: seen)

/-- The command that an engine takes next (R49): the highest priority, ties in cyclic order after the context served last. -/
def Engine.next (e : Engine) (ok : Cmd → Bool) : Option Cmd :=
  ((headsOf e.queue []).filter ok).foldl (fun b q =>
    match b with
    | none => some q
    | some p =>
      let far (q : Cmd) : Nat := (q.ctx + 11 - e.last) % 12
      if p.prio < q.prio || (p.prio == q.prio && far q < far p) then some q else some p) none

/-- The command leaves its queue. -/
def Core.unqueue (c : Core) (q : Cmd) : Core :=
  let e := c.eng (engOf q.instr)
  c.setEng (engOf q.instr) { e with queue := e.queue.filter (fun p => p.uid ≠ q.uid) }
/-- The command leaves its queue to start: its context is the one served last (R49). -/
def Core.dequeue (c : Core) (q : Cmd) : Core :=
  let c1 := c.unqueue q
  c1.setEng (engOf q.instr) { c1.eng (engOf q.instr) with last := q.ctx % 12 }

/-- A descriptor named as written is ready again (R179). -/
def Core.undrain (c : Core) (q : Cmd) : Core :=
  match tdOf q.instr with
  | some (k, true) => c.setTdSt k 2
  | _ => c

/-- The token that a command settles when it ends: none for an unguarded command whose context waited for its verdict and did not get past it. -/
def State.endCmd (s : State) (k : Nat) (q : Cmd) (e : Ending) : State := (s.setCore k ((s.core k).undrain q)).settle k q.ctx (tokOf q.instr) e

/-- A discarded command (R181). -/
def State.discardCmd (s : State) (k : Nat) (q : Cmd) : State := (s.setCore k ((s.core k).unqueue q)).endCmd k q .discarded

/-- Claims a QW slot (R175). -/
def Core.claim (c : Core) (q : Cmd) : Core :=
  if qwGives q.instr then let h := c.wctx q.ctx; c.setWctx q.ctx { h with qw := h.qw ++ [⟨q.uid, none⟩] } else c
/-- Releases the slot of a command that ends without a result. -/
def Core.unclaim (c : Core) (q : Cmd) : Core := let h := c.wctx q.ctx; c.setWctx q.ctx { h with qw := h.qw.filter (fun e => e.uid ≠ q.uid) }
/-- Delivers a QW entry, and sets the event bit (R100). -/
def Core.deliver (c : Core) (q : Cmd) (v : Word × Bool) : Core :=
  let h := c.wctx q.ctx
  c.setWctx q.ctx { h with qw := h.qw.map (fun e => if e.uid = q.uid then { e with val := some v } else e), event := true }
/-- Takes the first `n` QS entries. -/
def Core.takeQs (c : Core) (x n : Nat) : Core := let h := c.wctx x; c.setWctx x { h with qs := h.qs.drop n, qsBad := h.qsBad >>> n }

/-! ### Started commands -/

/-- A command just started, with nothing read and nothing to write yet. -/
def Cmd.begin (q : Cmd) : Started :=
  { cmd := q, writes := [], poison := [], mask := none, qw := none, flags := 0, fault := none, phase := 1, pos := q.pos, verdict := none, mat := none
    got := [], snap := [], snapBad := [] }
def Core.setRun (c : Core) (e : Eng) (r : Option Started) : Core := c.setEng e { c.eng e with run := r }
/-- A started command joins those behind which the engine has gone on. -/
def Core.addOlder (c : Core) (e : Eng) (r : Started) : Core := c.setEng e { c.eng e with older := (c.eng e).older ++ [r] }
def Core.setOlder (c : Core) (e : Eng) (r : Started) : Core :=
  c.setEng e { c.eng e with older := (c.eng e).older.map (fun o => if o.cmd.uid = r.cmd.uid then r else o) }
def Core.dropOlder (c : Core) (e : Eng) (q : Cmd) : Core := c.setEng e { c.eng e with older := (c.eng e).older.filter (fun o => o.cmd.uid ≠ q.uid) }
/-- The oldest command of a context that an engine has started and gone on from. -/
def Engine.olderOf (e : Engine) (x : Nat) : Option Started := e.older.find? (fun r => r.cmd.ctx == x)

/-- A read grant (R129, R130): the granule's bytes and poison, as they stand, are what the command computes from. -/
def Core.readGranule (c : Core) (r : Started) (g : Nat) : Started :=
  { r with got := r.got ++ [g], snap := mwrite r.snap (64 * g) (mread c.lmem (64 * g) 64)
           snapBad := (c.lbad.filter (fun w => w / 8 == g)).foldl nput r.snapBad }
/-- The granule that a command reads next, of those that it needs: the one asked for, if it has still to be read, else the first. -/
def Started.pick (r : Started) (gs : List Nat) (want : Option Nat) : Option Nat :=
  match want with
  | some g => if gs.contains g && !r.got.contains g then some g else gs.find? (fun g => !r.got.contains g)
  | none => gs.find? (fun g => !r.got.contains g)
/-- The core and the command after the read grant of the next granule (R130, R149). -/
def Core.readNext (c : Core) (r : Started) (gs : List Nat) (want : Option Nat) : Core × Started :=
  match r.pick gs want with
  | some g => (c.mend (64 * g) 64 false, (c.mend (64 * g) 64 false).readGranule r g)
  | none => (c, r)
/-- The core as a command saw it, granule by granule. -/
def Core.seen (c : Core) (r : Started) : Core := { c with lmem := r.snap, lbad := r.snapBad }

/-- Bytes cut at a granule's end. -/
def cutAt64 (w : Nat × List Byte) : List (Nat × List Byte) :=
  (granules w.1 w.2.length).map (fun g =>
    let lo := max w.1 (64 * g)
    (lo, (w.2.drop (lo - w.1)).take (64 * g + 64 - lo)))
/-- A command's writes, each within one granule. -/
def Started.cut (r : Started) : Started := { r with writes := r.writes.flatMap cutAt64 }

/-- The granule that a command's next grant writes: the one asked for, if it has still to be written, else that of its first write. -/
def Started.nextGranule (r : Started) (want : Option Nat) : Nat :=
  match want with
  | some g => if r.writes.any (fun w => w.1 / 64 == g) then g else (r.writes.headD (0, [])).1 / 64
  | none => (r.writes.headD (0, [])).1 / 64

/-- A write grant (R130, R154): all that the command writes in granule `g` takes effect. A word that the grant covers wholly is healed, and the
words that the command poisons there are poisoned (R150, R170); one that it covers in part is read first, which corrects it (R149). -/
def Core.grantAt (c : Core) (r : Started) (g : Nat) : Core × Started :=
  let now := r.writes.filter (fun v => v.1 / 64 == g)
  let covered (b : Nat) : Bool := now.any (fun v => v.1 ≤ b && b < v.1 + v.2.length)
  let whole (x : Nat) : Bool := (List.range 8).all (fun j => covered (8 * x + j))
  let met (x : Nat) : Bool := now.any (fun v => v.1 / 8 ≤ x && x * 8 < v.1 + v.2.length)
  let c1 : Core :=
    { c with
      lmem := now.foldl (fun m v => mwrite m v.1 (tdBytes v.1 v.2)) c.lmem
      lbad := c.lbad.filter (fun x => !whole x)
      weak := c.weak.filter (fun x => !met x)
      corrected := c.corrected + (c.weak.filter (fun x => met x && !whole x)).length }
  (c1.poison (r.poison.filter (fun x => x / 8 == g)),
    { r with writes := r.writes.filter (fun v => v.1 / 64 != g), poison := r.poison.filter (fun x => x / 8 != g) })
def Core.grant (c : Core) (r : Started) (want : Option Nat) : Core × Started :=
  if r.writes.isEmpty then (c, r) else c.grantAt r (r.nextGranule want)

/-- A write in granule `g` would cover part of a poisoned word, which it must read first (R150). -/
def Core.grantFails (c : Core) (r : Started) (g : Nat) : Bool := r.writes.any (fun v => v.1 / 64 == g && c.writePoisoned v.1 v.2.length)

/-- Why a captured command cannot start with the operands it takes only then (R175, R198): its token faults, as its run has gone on (DESIGN
CHOICE, log entry 77). -/
def State.lateFault (s : State) (k : Nat) (q : Cmd) : Option (BitVec 8) :=
  if q.seq.isSome && seqTakes q.instr != 0 then
    match s.cmdCheck k q.level q.ptr q.vals q.instr with
    | .trap cause _ => some cause
    | _ => none
  else none

/-- What every start does: the head leaves its queue, discarded or started with the QS entries it takes; `go` goes on with a started one.
One that takes an entry with bad parity ends with its token faulted; a vector command, which has no token, ends in silence and writes nothing (DESIGN
CHOICE, log entry 99). -/
def State.startCmd (s : State) (k : Nat) (q : Cmd) (go : Cmd → State → State) : State :=
  let c := s.core k
  if c.guardFor q = .no then s.discardCmd k q
  else
    let n := q.qsNeeds
    let h := c.wctx q.ctx
    let q1 := if n = 0 then q else { q with vals := q.vals ++ h.qs.take n }
    let c1 := if n = 0 then c else c.takeQs q.ctx n
    let s1 := s.setCore k (c1.dequeue q)
    -- a QS entry with bad parity faults the command that takes it (R317)
    match if h.qsBad.toNat % 2 ^ n = 0 then s1.lateFault k q1 else some regParity with
    | some cause => s1.endCmd k q1 (.faulted cause)
    | none => go q1 (s1.setCore k ((s1.core k).claim q1))

/-- The engine takes its next command, if it has started none. -/
def State.startNext (s : State) (k : Nat) (e : Eng) (go : Cmd → State → State) : State :=
  let c := s.core k
  if !s.works k || ((c.eng e).run).isSome then s
  else
    match (c.eng e).next c.canStart with
    | none => s
    | some q => s.startCmd k q go

end Sys2Proof.Machine
end

