-- ==== Sys2Proof/Machine/Formats.lean ====
section
/-! DEFINITION. The number formats (R12 to R25): exact values, rounding to nearest even, conversions, and the correctly rounded functions. -/

namespace Sys2Proof.Machine

/-- An exact value: NaN, an infinity, or (−1)^neg · m · 2^e. A zero keeps its sign. -/
inductive Num where
  | nan
  | inf (neg : Bool)
  | fin (neg : Bool) (m : Nat) (e : Int)
  deriving DecidableEq, Repr

/-- A floating format (Table 1.1): exponent and mantissa bits, bias, and whether it has Inf and NaN. -/
structure FFmt where
  eb : Nat
  mb : Nat
  bias : Nat
  hasInf : Bool
  hasNan : Bool
  deriving DecidableEq, Repr

def fF32 : FFmt := ⟨8, 23, 127, true, true⟩
def fF19 : FFmt := ⟨8, 10, 127, true, true⟩
def fBF16 : FFmt := ⟨8, 7, 127, true, true⟩
def fF16 : FFmt := ⟨5, 10, 15, true, true⟩
def fE5M2 : FFmt := ⟨5, 2, 15, true, true⟩
def fE4M3 : FFmt := ⟨4, 3, 7, false, true⟩
def fE3M4 : FFmt := ⟨3, 4, 3, false, true⟩
def fE3M2 : FFmt := ⟨3, 2, 3, false, false⟩
def fE2M3 : FFmt := ⟨2, 3, 1, false, false⟩
def fE2M1 : FFmt := ⟨2, 1, 1, false, false⟩

/-- The value of an encoding (R13). -/
def FFmt.dec (f : FFmt) (v : Nat) : Num :=
  let s := v / 2 ^ (f.eb + f.mb) % 2 == 1
  let e := v / 2 ^ f.mb % 2 ^ f.eb
  let m := v % 2 ^ f.mb
  let top := e == 2 ^ f.eb - 1
  if top && f.hasInf then (if m = 0 then .inf s else .nan)
  else if top && f.hasNan && m == 2 ^ f.mb - 1 then .nan
  else if e = 0 then .fin s m (1 - f.bias - f.mb)
  else .fin s (2 ^ f.mb + m) (e - f.bias - f.mb)

/-- The NFLAG bits (Table 1.9). -/
def flNX : Nat := 1
def flUF : Nat := 2
def flOF : Nat := 4
def flDZ : Nat := 8
def flNV : Nat := 16
def flSAT : Nat := 32

/-- Rounds m·2^e, plus a nonzero part below when `sticky`, to a multiple of 2^q, ties to even; and whether it was inexact. With `sticky`,
`e` lies below `q`. -/
def rneAt (m : Nat) (e q : Int) (sticky : Bool) : Nat × Bool :=
  if q ≤ e then (m * 2 ^ (e - q).toNat, sticky)
  else
    let sh := (q - e).toNat
    if m.log2 + 2 < sh then (0, m ≠ 0 || sticky)
    else
      let a := m / 2 ^ sh
      let r := m % 2 ^ sh
      let h := 2 ^ (sh - 1)
      let up := h < r || (r == h && (sticky || a % 2 == 1))
      (if up then a + 1 else a, r ≠ 0 || sticky)

/-- The quantum of precision `p` for m·2^e, unbounded below. -/
def quantum (p m : Nat) (e : Int) : Int := m.log2 + e - (p - 1)

/-- The largest finite value: its integer mantissa and the exponent of that integer. -/
def FFmt.big (f : FFmt) : Nat × Int :=
  if f.hasInf then (2 ^ (f.mb + 1) - 1, 2 ^ f.eb - 2 - f.bias - f.mb)
  else (if f.hasNan then 2 ^ (f.mb + 1) - 2 else 2 ^ (f.mb + 1) - 1, 2 ^ f.eb - 1 - f.bias - f.mb)

/-- The canonical NaN (Table 1.8). -/
def FFmt.nan (f : FFmt) : Nat :=
  (2 ^ f.eb - 1) * 2 ^ f.mb + (if f.hasInf then 2 ^ (f.mb - 1) else 2 ^ f.mb - 1)
def FFmt.sign (f : FFmt) (neg : Bool) : Nat := if neg then 2 ^ (f.eb + f.mb) else 0
def FFmt.infinity (f : FFmt) (neg : Bool) : Nat := f.sign neg + (2 ^ f.eb - 1) * 2 ^ f.mb
/-- The encoding of an integer mantissa at the quantum exponent `q`; the mantissa has at most mb + 1 bits, or is their power of two. -/
def FFmt.pack (f : FFmt) (neg : Bool) (m : Nat) (q : Int) : Nat :=
  let mq := if 2 ^ (f.mb + 1) ≤ m then (m / 2, q + 1) else (m, q)
  if mq.1 < 2 ^ f.mb then f.sign neg + mq.1
  else f.sign neg + (mq.2 + f.mb + f.bias).toNat * 2 ^ f.mb + (mq.1 - 2 ^ f.mb)
def FFmt.largest (f : FFmt) (neg : Bool) : Nat := f.pack neg f.big.1 f.big.2

/-- Conversion to a floating format (R21, Table 1.7): the encoding and the flags. `sticky` adds a nonzero part below the value's last bit. -/
def FFmt.round (f : FFmt) (sat : Bool) (v : Num) (sticky : Bool := false) : Nat × Nat :=
  match v with
  | .nan => if f.hasNan then (f.nan, 0) else (0, flNV)
  | .inf s =>
    if f.hasInf then (if sat then (f.largest s, flSAT) else (f.infinity s, 0))
    else if f.hasNan then (if sat then (f.largest s, flSAT) else (f.nan, flNV))
    else (f.largest s, flSAT)
  | .fin s m e =>
    if m = 0 && !sticky then (f.sign s, 0)
    else
      let p := f.mb + 1
      let q := quantum p m e
      let r := rneAt m e q sticky
      let top := r.1.log2 + q
      let tooBig := f.big.2 + f.mb < top || (top == f.big.2 + f.mb && f.big.1 < r.1 / 2 ^ (r.1.log2 - f.mb) && r.1 ≠ 0)
      if tooBig then
        if sat || (!f.hasInf && !f.hasNan) then (f.largest s, flOF + flNX + flSAT)
        else (if f.hasInf then f.infinity s else f.nan, flOF + flNX)
      else
        let emin : Int := 1 - f.bias - f.mb
        let q1 := max q emin
        let r1 := rneAt m e q1 sticky
        let tiny := top < 1 - (f.bias : Int)
        (f.pack s r1.1 q1, (if r1.2 then flNX else 0) + (if tiny && r1.2 then flUF else 0))

/-! ### Exact arithmetic -/

def Num.neg : Num → Num
  | .nan => .nan
  | .inf s => .inf !s
  | .fin s m e => .fin (!s) m e
def Num.abs : Num → Num
  | .nan => .nan
  | .inf _ => .inf false
  | .fin _ m e => .fin false m e
def Num.isNan : Num → Bool
  | .nan => true
  | _ => false
def Num.ofInt (i : Int) : Num := .fin (i < 0) i.natAbs 0
/-- The signed mantissa at an exponent no larger than its own. -/
def scaled (s : Bool) (m : Nat) (e q : Int) : Int := (if s then -1 else 1) * (m * 2 ^ (e - q).toNat : Nat)

/-- A product; 0 × Inf is NaN. -/
def Num.mul : Num → Num → Num
  | .nan, _ | _, .nan => .nan
  | .inf s, .inf t => .inf (s != t)
  | .inf s, .fin t m _ | .fin t m _, .inf s => if m = 0 then .nan else .inf (s != t)
  | .fin s m e, .fin t n f => .fin (s != t) (m * n) (e + f)

/-- A sum; Inf − Inf is NaN; an exact zero is −0 only when both terms are −0. -/
def Num.add : Num → Num → Num
  | .nan, _ | _, .nan => .nan
  | .inf s, .inf t => if s = t then .inf s else .nan
  | .inf s, _ | _, .inf s => .inf s
  | .fin s m e, .fin t n f =>
    let q := min e f
    let v := scaled s m e q + scaled t n f q
    if v = 0 then .fin (s && t && m == 0 && n == 0) 0 0 else .fin (v < 0) v.natAbs q

/-- Whether a product or a sum was invalid: NaN from operands that are not. -/
def invalid2 (a b r : Num) : Bool := r.isNan && !a.isNan && !b.isNan

/-- Order of two values that are not NaN: a < b. -/
def Num.lt : Num → Num → Bool
  | .inf s, .inf t => s && !t
  | .inf s, .fin .. => s
  | .fin .., .inf t => !t
  | .fin s m e, .fin t n f => let q := min e f; scaled s m e q < scaled t n f q
  | _, _ => false
def Num.eq : Num → Num → Bool
  | .inf s, .inf t => s == t
  | .fin s m e, .fin t n f => let q := min e f; scaled s m e q == scaled t n f q
  | _, _ => false
def Num.isNeg : Num → Bool
  | .inf s => s
  | .fin s _ _ => s
  | .nan => false

/-! ### Conversions -/

/-- The nearest integer, ties to even, and whether it was inexact. -/
def rneInt (m : Nat) (e : Int) : Nat × Bool := rneAt m e 0 false

/-- A clamp into [lo, hi] and whether it changed the value. -/
def clampI (v lo hi : Int) : Int × Bool := if v < lo then (lo, true) else if hi < v then (hi, true) else (v, false)

/-- Conversion to an integer range (R23): the value and the flags. -/
def toIntRange (v : Num) (lo hi : Int) : Int × Nat :=
  match v with
  | .nan => (0, flNV)
  | .inf s => (if s then lo else hi, flNV)
  | .fin s m e =>
    let r := if (e : Int) ≤ 0 then rneInt m e else (if 64 < e ∧ m ≠ 0 then (2 ^ 64, false) else (m * 2 ^ e.toNat, false))
    let i : Int := if s then -(r.1 : Int) else r.1
    let c := clampI i lo hi
    (c.1, (if r.2 then flNX else 0) + (if c.2 then flSAT else 0))

/-! ### Square roots and the functions of R25 -/

/-- ⌊√n⌋ by bits, from bit `b` − 1 down. -/
def isqrtGo (n : Nat) : Nat → Nat → Nat
  | 0, r => r
  | b + 1, r => let t := r + 2 ^ b; isqrtGo n b (if t * t ≤ n then t else r)
def isqrt (n : Nat) : Nat := isqrtGo n (n.log2 / 2 + 1) 0

/-- A value with a part below its last bit, as the functions give it: flags come first. -/
structure Approx where
  v : Num
  sticky : Bool
  flags : Nat
  deriving DecidableEq, Repr

def exactly (v : Num) (flags : Nat := 0) : Approx := ⟨v, false, flags⟩

/-- 1/x (Table 1.10). -/
def rcpOf : Num → Approx
  | .nan => exactly .nan
  | .inf s => exactly (.fin s 0 0)
  | .fin s m e =>
    if m = 0 then exactly (.inf s) flDZ
    else
      let k := m.log2 + 64
      ⟨.fin s (2 ^ k / m) (-e - k), 2 ^ k % m ≠ 0, 0⟩

/-- 1/√x (Table 1.10). -/
def rsqOf : Num → Approx
  | .nan => exactly .nan
  | .inf s => if s then exactly .nan flNV else exactly (.fin false 0 0)
  | .fin s m e =>
    if m = 0 then exactly (.inf s) flDZ
    else if s then exactly .nan flNV
    else
      let me : Nat × Int := if e % 2 = 0 then (m, e) else (2 * m, e - 1)
      let k := me.1.log2 + 64
      let r := isqrt (2 ^ (2 * k) / me.1)
      ⟨.fin false r (-(me.2 / 2) - k), r * r * me.1 ≠ 2 ^ (2 * k), 0⟩

/-- Multiplies by 2^(2^−i) for each set bit of a fraction, most significant first, in fixed point with 256 fraction bits. `c` is the root
reached so far. -/
def exp2Go (f : Nat) : Nat → Nat → Nat → Nat
  | 0, _, acc => acc
  | b + 1, c, acc =>
    let c1 := isqrt (c * 2 ^ 256)
    exp2Go f b c1 (if f / 2 ^ b % 2 = 1 then acc * c1 / 2 ^ 256 else acc)

/-- 2^x (Table 1.10). The 256 fraction bits settle the rounding of every value of the three element types. -/
def exp2Of : Num → Approx
  | .nan => exactly .nan
  | .inf s => exactly (if s then .fin false 0 0 else .inf false)
  | .fin s m e =>
    if m = 0 then exactly (.fin false 1 0)
    else if m.log2 + e < -64 then (if s then ⟨.fin false (2 ^ 64 - 1) (-64), true, 0⟩ else ⟨.fin false (2 ^ 64) (-64), true, 0⟩)
    else if 40 < m.log2 + e then exactly (if s then .fin false 1 (-100000) else .fin false 1 100000)
    else
      -- x in units of 2^−96
      let x := scaled s m e (min e (-96))
      let w := (-(min e (-96))).toNat
      let n := x / 2 ^ w
      let f := (x % 2 ^ w).toNat / 2 ^ (w - 96)
      if x % 2 ^ w = 0 then exactly (.fin false 1 n)
      else ⟨.fin false (exp2Go f 96 (2 * 2 ^ 256) (2 ^ 256)) (n - 256), true, 0⟩

/-- Bits of log₂ of y/2^512 in [1, 2), by squaring. -/
def log2Go : Nat → Nat → Nat → Nat
  | 0, _, acc => acc
  | b + 1, y, acc =>
    let z := y * y / 2 ^ 512
    if 2 ^ 513 ≤ z then log2Go b (z / 2) (2 * acc + 1) else log2Go b z (2 * acc)

/-- log₂ x (Table 1.10), to 128 fraction bits. -/
def log2Of : Num → Approx
  | .nan => exactly .nan
  | .inf s => if s then exactly .nan flNV else exactly (.inf false)
  | .fin s m e =>
    if m = 0 then exactly (.inf true) flDZ
    else if s then exactly .nan flNV
    else
      let n : Int := m.log2 + e
      if m = 2 ^ m.log2 then exactly (Num.ofInt n)
      else
        let f := log2Go 128 (m * 2 ^ 512 / 2 ^ m.log2) 0
        let t : Int := n * 2 ^ 128 + f
        if t < 0 then ⟨.fin true (-t - 1).toNat (-128), true, 0⟩ else ⟨.fin false t.toNat (-128), true, 0⟩

/-- Rounds an approximation in a format, non-saturating. -/
def Approx.round (a : Approx) (f : FFmt) : Nat × Nat :=
  let r := f.round false a.v a.sticky
  (r.1, r.2 ||| a.flags)

/-! ### F32 arithmetic with one rounding (the Gaussian unit, reductions) -/

def f32 (v : Nat) : Num := fF32.dec v
/-- Rounds to F32, non-saturating. -/
def toF32 (v : Num) : Nat := (fF32.round false v).1
def f32add (a b : Nat) : Nat := toF32 ((f32 a).add (f32 b))
def f32sub (a b : Nat) : Nat := toF32 ((f32 a).add (f32 b).neg)
def f32mul (a b : Nat) : Nat := toF32 ((f32 a).mul (f32 b))
/-- One rounding of c − a·b or c + a·b. -/
def f32fma (a b c : Nat) : Nat := toF32 (((f32 a).mul (f32 b)).add (f32 c))
def f32fnma (a b c : Nat) : Nat := toF32 (((f32 a).mul (f32 b)).neg.add (f32 c))
/-- A correctly rounded quotient. -/
def f32div (a b : Nat) : Nat :=
  match f32 a, f32 b with
  | .nan, _ | _, .nan => fF32.nan
  | .inf _, .inf _ => fF32.nan
  | .inf s, .fin t _ _ => fF32.infinity (s != t)
  | .fin s _ _, .inf t => fF32.sign (s != t)
  | .fin s m e, .fin t n f =>
    if n = 0 then (if m = 0 then fF32.nan else fF32.infinity (s != t))
    else if m = 0 then fF32.sign (s != t)
    else
      let k := n.log2 + 64
      (fF32.round false (.fin (s != t) (m * 2 ^ k / n) (e - f - k)) (m * 2 ^ k % n ≠ 0)).1

/-! ### The wire (R31) -/

/-- Narrows one 32-bit local value to its wire value and widens it again: what the receiver writes. -/
def wireWord (wf : Nat) (v : Nat) : Nat :=
  let through (f : FFmt) : Nat := toF32 (f.dec (f.round true (f32 v)).1)
  let clampTo (n : Nat) : Nat := (BitVec.ofInt 32 (clampI (signedN 4 v) (-(2 ^ (n - 1))) (2 ^ (n - 1) - 1)).1).toNat
  if wf = 2 then through fBF16
  else if wf = 3 then through fF16
  else if wf = 4 then through fE5M2
  else if wf = 5 then through fE4M3
  else if wf = 10 then clampTo 16
  else if wf = 11 then clampTo 8
  else v

end Sys2Proof.Machine
end

