-- ==== Sys2Proof/Machine/Objects.lean ====
section
/-! DEFINITION. Guard slots (R182), tokens (R185) and barrier objects (R186 to R188). -/

namespace Sys2Proof.Machine

/-! ### Guards -/

/-- A slot takes another value, once what it guards is decided (R182). -/
def State.resolve (s : State) (c : Slot) (v : GuardSt) : State :=
  if s.cx.guard c = .unresolved then (s.setCx (s.cx.setGuard c v)).finish
  else if s.me.undecided s.cur.2 c then s.park .guard
  else
    let s1 := s.setMe (s.me.decideHeads s.cur.2 c)
    (s1.setCx (s1.cx.setGuard c v)).finish

/-- GDCLR (R182). -/
def execGdclr (c : Slot) (s : State) : Res :=
  let i : Instr := .gdclr c
  .next (s.issue i .u fun s => s.resolve c .unresolved)

/-- GDSET (R182). -/
def execGdset (g : Reg) (c : Slot) (s : State) : Res :=
  let i : Instr := .gdset g c
  .next (s.issue i .u fun s => s.withRegs i [g] fun s => s.resolve c (if s.cx.reg g ≠ 0 then .yes else .no))

/-- GDWAIT (R182). -/
def execGdwait (g : Reg) (c : Slot) (s : State) : Res :=
  let i : Instr := .gdwait g c
  .next (s.issue i .u fun s =>
    match s.cx.guard c with
    | .unresolved => s.park .guard
    | .yes => s.done g 1
    | .no => s.done g 0)

/-! ### Tokens -/

/-- A recorded failure of the sequencer traps its owner once (R198). -/
def State.seqFailure (s : State) (k : State → State) : State :=
  let q := s.me.seq
  if q.owner = some s.cur.2 ∧ q.stat.getLsbD 12 then
    s.trapWith (fun s => s.setMe { s.me with seq := { q with stat := q.stat &&& ~~~(0x1000#64) } }) asyncFault q.stat
  else k s

/-- TWAIT (R185). -/
def execTwait (xi n : Bool) (m : BitVec 8) (s : State) : Res :=
  let i : Instr := .twait xi n m
  .next (s.issue i .u fun s => s.seqFailure fun s =>
    let sel := tokensOf m.toNat
    if !s.cx.tokensDone n sel then s.park (.tokens xi)
    else
      match s.cx.faultedTok sel with
      | some t => s.trap asyncFault (word (((s.cx.tok t).cause.getD 0).toNat * 256 + t.toNat))
      | none => s.finish)

/-- The codes of Table 5.5. -/
def TokSt.code : TokSt → Nat
  | .idle => 0
  | .busy => 1
  | .done => 2
  | .fault => 3
  | .dropped => 4

/-- TTEST (R185). -/
def execTtest (d : Reg) (s : State) : Res :=
  let i : Instr := .ttest d
  .next (s.issue i .u fun s =>
    s.done d (word (((List.range 8).map (fun k => (s.cx.tok (BitVec.ofNat 3 k)).st.code * 8 ^ k)).sum)))

/-- TCLR (R185). -/
def execTclr (m : BitVec 8) (s : State) : Res :=
  let i : Instr := .tclr m
  .next (s.issue i .u fun s =>
    let sel := tokensOf m.toNat
    if sel.any (fun t => (s.cx.tok t).st == .busy) then s.park (.tokens false)
    else (s.setCx (sel.foldl (fun c t => c.setTok t { Tok.reset with count := (c.tok t).count }) s.cx)).finish)

/-! ### Barrier objects -/

/-- The words of an object (Table 9.10); the reserved flag bits read 0, and an update writes them so (R4). -/
def Core.oExpected (c : Core) (a : Nat) : Nat := mnat c.lmem a 4
def Core.oArrived (c : Core) (a : Nat) : Nat := mnat c.lmem (a + 4) 4
def Core.oFlags (c : Core) (a : Nat) : Nat := mnat c.lmem (a + 8) 4 % 16
def Core.oGen (c : Core) (a : Nat) : Nat := mnat c.lmem (a + 12) 4
def Core.oArmed (c : Core) (a : Nat) : Bool := c.oFlags a / 2 % 2 == 1
/-- Overrun with te set (R188). -/
def Core.oOverrun (c : Core) (a : Nat) : Bool := c.oFlags a / 4 % 4 == 3

/-- Writes expected, arrived and flags, then the generation. -/
def Core.oPut (c : Core) (a e r f g : Nat) : Core :=
  c.lwrite a (leBytes 4 e ++ leBytes 4 r ++ leBytes 4 f ++ leBytes 4 g)

/-- A flip's effects outside the object (R187): event bits, and bound descriptors become ready (R179). -/
def Core.flipped (c : Core) (a : Nat) : Core :=
  let c1 : Core := { c with ctxs := c.ctxs.map (fun e => (e.1, { e.2 with event := true })) }
  (List.range 32).foldl (fun c k =>
    let d := c.td k
    if d.bnd && d.st == 1 && d.bar == a then c.setTdSt k 2 else c) c1

/-- check(obj) of R187. -/
def Core.oCheck (c : Core) (a : Nat) : Core :=
  let e := c.oExpected a
  let r := c.oArrived a
  let f := c.oFlags a
  if c.oArmed a && e ≤ r then
    let r1 := r - e
    -- armed clears, phase turns, and overrun is set by an excess
    let f1 := (if f % 2 = 1 then f - 3 else f - 1) + (if 0 < r1 ∧ f / 4 % 2 = 0 then 4 else 0)
    (c.oPut a e r1 f1 (c.oGen a + 1)).flipped a
  else c

/-- count(obj, n) of R187. -/
def Core.oCount (c : Core) (a n : Nat) : Core :=
  let r := min (c.oArrived a + n) 0xFFFFFFFF
  let f := c.oFlags a
  (c.oPut a (c.oExpected a) r (if r = 0xFFFFFFFF ∧ f / 4 % 2 = 0 then f + 4 else f) (c.oGen a)).oCheck a

/-- The access of a BAR word to its object (R188): its checks, the interlock, and poison. -/
def State.objectAccess (s : State) (a : Nat) (k : State → State) : State :=
  match s.me.objectCheck a with
  | some c => s.trap c (word a)
  | none =>
    if s.cx.load.isSome then s.park .memory
    else if s.me.wideTouches s.cur.2 a 16 then s.park .wide
    else if s.me.poisoned a 16 then s.trap uncorrectable (word a)
    else k (s.mend s.cur.1 a 16 false)

/-- The trap of an overrun with te set (R188). -/
def State.overrunTrap (s : State) (a : Nat) (k : State → State) : State :=
  if s.me.oOverrun a then
    let c := s.me
    (s.setMe (c.oPut a (c.oExpected a) (c.oArrived a) (c.oFlags a - 4) (c.oGen a))).trap barrierOverrun (word a)
  else k s

/-- BARINIT (R188). -/
def execBarinit (a b : Reg) (s : State) : Res :=
  let i : Instr := .barinit a b
  .next (s.issue i .u fun s => s.withRegs i [a, b] fun s =>
    let p := (s.cx.reg a).toNat
    s.objectAccess p fun s => (s.setMe (s.me.oPut p 0 0 (8 * bits (s.cx.reg b) 3 1) (s.me.oGen p))).finish)

/-- BAREXP (R188). -/
def execBarexp (a b : Reg) (s : State) : Res :=
  let i : Instr := .barexp a b
  .next (s.issue i .u fun s => s.withRegs i [a, b] fun s =>
    let p := (s.cx.reg a).toNat
    s.objectAccess p fun s =>
      let c := s.me
      let f := c.oFlags p
      (s.setMe ((c.oPut p (bits (s.cx.reg b) 0 32) (c.oArrived p) (if c.oArmed p then f else f + 2) (c.oGen p)).oCheck p)).finish)

/-- BARWAIT has tested overrun and waits (R188); `uid` is the object. The number is also that of TINVB's wait, which is another word's. -/
def phBarrier : Nat := 11

/-- BARWAIT (R188): overrun is tested once, before the wait. -/
def execBarwait (d a : Reg) (xi : Bool) (s : State) : Res :=
  let i : Instr := .barwait d a xi
  .next (s.issue i .u fun s => s.withRegs i [a] fun s =>
    let p := (s.cx.reg a).toNat
    let wait (s : State) : State :=
      if s.me.oArmed p then (s.setAcc (some ⟨phBarrier, p, none⟩)).park (.barrier xi) else s.done d (word (s.me.oGen p))
    s.objectAccess p fun s => if s.cx.acc = some ⟨phBarrier, p, none⟩ then wait s else s.overrunTrap p wait)

/-- BARTEST (R188). -/
def execBartest (d a : Reg) (s : State) : Res :=
  let i : Instr := .bartest d a
  .next (s.issue i .u fun s => s.withRegs i [a] fun s =>
    let p := (s.cx.reg a).toNat
    s.objectAccess p fun s => s.overrunTrap p fun s =>
      let c := s.me
      let f := c.oFlags p
      s.done d (word (c.oArrived p + c.oGen p % 65536 * 2 ^ 32 + f % 2 * 2 ^ 48 + f / 2 % 2 * 2 ^ 49 + f / 4 % 2 * 2 ^ 50)))

/-- BARADD (R188). -/
def execBaradd (a b : Reg) (s : State) : Res :=
  let i : Instr := .baradd a b
  .next (s.issue i .u fun s => s.withRegs i [a, b] fun s =>
    let p := (s.cx.reg a).toNat
    s.objectAccess p fun s => (s.setMe (s.me.oCount p (bits (s.cx.reg b) 0 32))).finish)

end Sys2Proof.Machine
end

