-- ==== Sys2Proof/Machine/Net.lean ====
section
/-! DEFINITION. What the mesh does with messages: their order (R287), the cores that refuse them (R321, R323, R329, R340), answers, the
outstanding operations that answers end (R183, R184), the fabric (R368), and the writes that arrive (R187, R302). -/

namespace Sys2Proof.Machine

/-! ### Order and removal -/

/-- Two messages are parts of one push, whose bytes land in no fixed order (R192). -/
def samePush (a b : Body) : Bool :=
  match a, b with
  | .push u _ _ _ _ _, .push v _ _ _ _ _ => u == v
  | _, _ => false

/-- Frames between the same two cores of two packages (R369), or messages of this package. -/
def sameRoute (a b : Option Fab) : Bool :=
  match a, b with
  | none, none => true
  | some f, some g => f.pkg == g.pkg && f.core == g.core && f.here == g.here
  | _, _ => false

/-- A context of the core has a GSEND issued before operation `uid` whose message has still to leave: in the Gaussian unit's queue, in the unit,
or to be placed by the sequencer. -/
def Core.sendsBefore (c : Core) (x uid : Nat) : Bool :=
  let gsend (q : Cmd) : Bool := match q.instr with | .gsend .. => true | _ => false
  c.gau.cmds.any (fun q => q.ctx == x && q.uid < uid && gsend q) || (c.seq.base ≤ uid && c.toPlace x gsend)
/-- A mailbox packet that waits at its sender for the context's earlier GSENDs (R220). -/
def State.waitsSend (s : State) (m : Msg) : Bool :=
  match m.src, m.body with
  | .core k, .mail uid _ _ _ _ => ((s.core k).outs.find? (fun o => o.uid == uid)).any (fun o => (s.core k).sendsBefore o.ctx uid)
  | _, _ => false

/-- Message `k`, when every earlier message between the same two agents on its channel has arrived (R287), and no post stands in its way that
its core cannot hold (R194, R286). -/
def State.arriving (s : State) (k : Nat) : Option Msg :=
  match s.net[k]? with
  | none => none
  | some m =>
    if s.waitsSend m || s.net.any (fun o => o.stuck && o.vc == m.vc && o.dst == m.dst && o != m) || (s.net.take k).any (fun o => o.src == m.src && o.dst == m.dst && o.vc == m.vc && sameRoute o.fab m.fab && !samePush o.body m.body) then none
    else some m

/-- The message leaves the mesh. -/
def State.remove (s : State) (k : Nat) : State := { s with net := s.net.eraseIdx k }

/-! ### Who refuses -/

/-- The tag of what a context sends (R340): a die supervisor has none, and at level S its traffic goes everywhere; below it, and in a cluster
being scrubbed, the tag is no territory's. -/
def State.senderTag (s : State) (k : Nat) (lv : Level) : Option Nat :=
  if isSup k then (if lv = .s then none else some 256) else some ((s.tagOf k).getD 256)

/-- The cause with which core `k` refuses a message: disabled (R329), killed (R321), fenced (R323), being scrubbed (R351), or of another
territory (R340). -/
def State.refusal (s : State) (m : Msg) (k : Nat) : Option (BitVec 8) :=
  if s.disabled.contains k then some localBounds
  else if (s.stat k).killed then some uncorrectable
  else if (s.stat k).fenced then some Config.fencedCause
  else if isSup k then none
  else
    match s.tagOf k with
    | none => some territory
    | some t => if m.terr.isNone || m.terr == some t then none else some territory

/-- The core an agent is. -/
def Agent.core? : Agent → Nat
  | .core k => k
  | _ => 0

/-- The sending core, as the tail ring and the answers name it. -/
def Msg.sender (m : Msg) : Nat := match m.fab with | some f => f.core | none => m.src.core?

/-- Answers a message on the response channel. -/
def State.answer (s : State) (m : Msg) (b : Body) : State :=
  s.send { src := m.dst, dst := m.src, vc := 1, terr := none, fab := none, body := b, sentAt := s.now }
def State.accept (s : State) (m : Msg) (uid : Nat) : State := s.answer m (.ack m.sender uid)
def State.refuse (s : State) (m : Msg) (uid : Nat) (cause : BitVec 8) : State := s.answer m (.nak m.sender uid cause)

/-! ### Outstanding operations -/

def Core.out (c : Core) (uid : Nat) : Option Out := c.outs.find? (fun o => o.uid == uid)
def Core.setOut (c : Core) (o : Out) : Core := { c with outs := c.outs.map (fun p => if p.uid = o.uid then o else p) }
def Core.delOut (c : Core) (uid : Nat) : Core := { c with outs := c.outs.filter (fun o => o.uid ≠ uid) }

/-- How an operation that met these refusals ends. -/
def Out.ending (o : Out) : Ending := match o.cause with | some c => .faulted c | none => .ok

/-- Acknowledgements, or one refusal, reach an operation. All but a push end with the last (R184). -/
def State.answered (s : State) (k uid n : Nat) (cause : Option (BitVec 8)) : State :=
  match (s.core k).out uid with
  | none => s
  | some o =>
    let o1 : Out := { o with left := o.left - n, cause := match o.cause with | some c => some c | none => cause }
    if o1.left = 0 ∧ !o1.sending ∧ o1.td.isNone then (s.setCore k ((s.core k).delOut uid)).settle k o1.ctx o1.tok o1.ending
    else s.setCore k ((s.core k).setOut o1)

/-! ### Sending to a core, here or in another package (R193, R368) -/

/-- The valid fabric port of a package id (Table 22.2), or none. -/
def State.fabricPort (s : State) (pkg : Nat) : Option Nat :=
  let e := (kget s.io.route pkg).getD 0
  let p := e.toNat % 16
  if e.getLsbD 15 && !(pkg == bits s.io.pkgid 0 16) && bits (s.io.fpcfg.toList.getD p 0) 0 2 == 1 then some p else none

/-- The sender's fabric tag. -/
def State.fabTag (s : State) (k : Nat) : Nat := bits (s.terr (s.terrOf k)).win.tfab 0 16

/-- A destination: a core of this package, or a core of another. -/
structure Dest where
  core : Nat
  pkg : Option Nat
  deriving DecidableEq, Repr

/-- A destination word (R193): none when a reserved bit is set. -/
def destOf (w : Word) : Option Dest :=
  if bits w 12 20 ≠ 0 ∨ bits w 49 15 ≠ 0 then none
  else some ⟨bits w 0 12, if wbit w 48 then some (bits w 32 16) else none⟩

/-- A message of a context of core `k` to a destination: none to another package without a port. -/
def State.msgTo (s : State) (k : Nat) (lv : Level) (d : Dest) (vc : Nat) (b : Body) : Option Msg :=
  match d.pkg with
  | none => some { src := .core k, dst := .core d.core, vc := vc, terr := s.senderTag k lv, fab := none, body := b, sentAt := s.now }
  | some p =>
    (s.fabricPort p).map fun port =>
      { src := .core k, dst := .port port, vc := vc, terr := s.senderTag k lv, fab := some ⟨p, d.core, k, s.fabTag k⟩, body := b, sentAt := s.now }

/-- Sends a message from a context of core `k`. A fabric destination without a port answers at once with LOCAL_BOUNDS (Table 22.3). -/
def State.sendTo (s : State) (k : Nat) (lv : Level) (d : Dest) (vc uid : Nat) (b : Body) : State :=
  match s.msgTo k lv d vc b with
  | none => s.answered k uid 1 (some localBounds)
  | some m => s.send m

/-- The same for the message of a GSEND: it goes before the packets for mailboxes that the core's contexts opened later (R220). -/
def State.sendBefore (s : State) (k : Nat) (lv : Level) (d : Dest) (vc uid : Nat) (b : Body) : State :=
  let later (o : Msg) : Bool :=
    o.src == .core k && o.vc == vc && (match o.body with | .mail u _ _ _ _ => uid < u | .opening u => uid < u | _ => false)
  match s.msgTo k lv d vc b with
  | none => s.answered k uid 1 (some localBounds)
  | some m => { s with net := s.net.takeWhile (fun o => !later o) ++ m :: s.net.dropWhile (fun o => !later o) }

/-- The same for a packet, which takes the place that its SNDO gave it in the order of its channel (R195). -/
def State.sendAt (s : State) (k : Nat) (lv : Level) (d : Dest) (vc uid : Nat) (b : Body) : State :=
  match s.msgTo k lv d vc b with
  | some m =>
    if s.net.any (fun o => o.body = .opening uid) then { s with net := s.net.map (fun o => if o.body = .opening uid then m else o) } else s.send m
  | none => State.answered { s with net := s.net.filter (fun o => o.body ≠ .opening uid) } k uid 1 (some localBounds)

/-- An operation with one acknowledgement to come on a token. -/
def outOn (uid x : Nat) (t : Slot) : Out := ⟨uid, x, some t, 1, false, false, false, none, none, true, false, false⟩

/-! ### Arrivals in local memory -/

/-- The data channel to a core waits: behind a message that the core holds (R217, R271), or that it is writing (R213). -/
def Core.dataBlocked (c : Core) : Bool := !c.rx.held.isEmpty || c.rx.landing.any (fun l => l.lbk.isNone)
def State.blocked (s : State) (m : Msg) (q : Nat) : Bool := m.vc == 2 && (s.core q).dataBlocked

/-- The windows that trace an address, lowest first (R303). -/
def Core.window (c : Core) (a : Nat) : Option Nat :=
  (List.range 4).find? (fun n =>
    let w := c.spr.trwin.toList.getD n 0
    wbit w 32 && 64 * bits w 6 14 ≤ a && a < 64 * bits w 6 14 + 2 ^ bits w 20 6)

/-- A tail ring entry (Table 16.12). -/
def tailEntry (cyc src kind len win addr : Nat) (fab : Option Fab) : BitVec 128 :=
  BitVec.ofNat 128 (cyc % 2 ^ 40 * 2 ^ 88 + src % 4096 * 2 ^ 76 + kind * 2 ^ 73 + (len - 1) * 2 ^ 67 + win * 2 ^ 65
    + (match fab with | some f => 2 ^ 64 + f.pkg % 65536 * 2 ^ 20 | none => 0) + addr % 2 ^ 20)

def TailRing.push (t : TailRing) (e : BitVec 128) : TailRing :=
  if t.entries.length < 256 then { t with entries := t.entries ++ [e] } else ⟨t.entries.drop 1 ++ [e], t.lost + 1⟩

/-- The granules of an extent: address and bytes. -/
def granulesOf (a n : Nat) : List (Nat × Nat) :=
  if n = 0 then []
  else (List.range ((a + n - 1) / 64 - a / 64 + 1)).map (fun i =>
    let lo := max a (64 * (a / 64 + i))
    (lo, min (a + n) (64 * (a / 64 + i + 1)) - lo))

/-- Records a remote write, one entry for each granule grant in a window (R302). -/
def State.trace (s : State) (k src kind a n : Nat) (fab : Option Fab) : State :=
  s.setCore k ((granulesOf a n).foldl (fun c g =>
    match c.window g.1 with
    | some w => { c with tail := c.tail.push (tailEntry (s.cyc k) src kind g.2 w g.1 fab) }
    | none => c) (s.core k))

/-- There is something to count (R187). An address where no object can lie (R186: misaligned, in the core image, in the stash) counts nothing, and
nothing faults for it: the spec checks no bar of a push, a packet or a mailbox (DESIGN CHOICE, log entry 82). -/
def Core.counts (c : Core) (bar : Option Nat) (n : Nat) : Bool := bar.any (fun a => n != 0 && (c.objectCheck a).isNone)
/-- A count reads its object, and fails where that is poisoned (R150). -/
def Core.countFails (c : Core) (bar : Option Nat) (n : Nat) : Bool := c.counts bar n && bar.any (fun a => c.poisoned a 16)
/-- Counts at an object, which the grant reads (R149, R187). -/
def Core.countAt (c : Core) (bar : Option Nat) (n : Nat) : Core :=
  match bar with
  | some a => if c.counts bar n && !c.poisoned a 16 then (c.mend a 16 false).oCount a n else c
  | none => c

/-- Who refuses the rest of a message that has begun to land: a fence lets it end. -/
def State.lateRefusal (s : State) (m : Msg) (q : Nat) : Option (BitVec 8) := (s.setStat q { s.stat q with fenced := false }).refusal m q

end Sys2Proof.Machine
end

