-- ==== Sys2Proof/Machine/Answer.lean ====
section
/-! DEFINITION. Answers that reach a core: STASH_FILL_RETURN (R135), WRITE_ACK (R136), NEGATIVE_ACK (R287) and DELIVERY_ACK (R184). -/

namespace Sys2Proof.Machine

/-- Gives a context the answer to the access it waits for. -/
def Ctx.giveAcc (c : Ctx) (uid : Nat) (a : Ans) : Ctx :=
  match c.acc with
  | some ⟨p, u, none⟩ => if u = uid && (p == phFill || p == phWrite || p == phAtomic || p == phRead) then { c with acc := some ⟨p, u, some a⟩ } else c
  | _ => c
/-- Gives a context an answer: to its load under way, or to the access it waits for. -/
def Ctx.give (c : Ctx) (uid : Nat) (a : Ans) : Ctx :=
  match c.load with
  | some l => if l.uid = uid && l.ans.isNone then c.loadAnswer l a else c.giveAcc uid a
  | none => c.giveAcc uid a

def State.give (s : State) (k x uid : Nat) (a : Ans) : State :=
  if (s.core k).live x then s.setCtx k x ((s.ctx k x).give uid a) else s

/-- A line as a waiting load finds it: its 64 bytes, then a poison bit for each 64-bit word, then its number. Words that the stash does not hold as valid are
those that the home slice sent. -/
def Core.lineAnswer (c : Core) (pa : Nat) (bs : List Byte) (bad : List Nat) : Nat :=
  2 ^ 520 * (pa / 64) +
  match c.findLine pa with
  | some (i, l) =>
    let a := c.lineData i
    leNat ((List.range 64).map (fun j => if l.v.getLsbD (j / 4) then mget c.lmem (a + j) else bs.getD j 0))
      + 2 ^ 512 * packed' ((List.range 8).map (fun w =>
          (c.lbad.contains (a / 8 + w) && (l.v.getLsbD (2 * w) || l.v.getLsbD (2 * w + 1)))
            || (bad.contains (pa / 64 * 8 + w) && !(l.v.getLsbD (2 * w) && l.v.getLsbD (2 * w + 1)))))
  | none => leNat (bs.take 64) + 2 ^ 512 * packed' ((List.range 8).map (fun w => bad.contains (pa / 64 * 8 + w)))
where
  packed' : List Bool → Nat
    | [] => 0
    | b :: r => ofBool b + 2 * packed' r

/-- The answer to a read of a push's source (R191): its bytes, whether a word was poisoned, or the cause of a refusal. -/
def Core.pushAnswer (c : Core) (uid : Nat) (bytes : List Byte) (bad : Bool) (cause : Option (BitVec 8)) : Core :=
  { c with psh := { c.psh with older := c.psh.older.map (fun r =>
      if r.phase = 4 ∧ r.got = [uid] then { r with phase := 5, snap := mwrite [] 0 bytes, snapBad := if bad then [0] else [], fault := cause } else r) } }

/-- The answer to a read of a global scale record or table (R382): its line, or why it has none. -/
def Core.globAnswer (c : Core) (uid : Nat) (bytes : List Byte) (cause : Option (BitVec 8)) : Core :=
  { c with slice := { c.slice with glob := c.slice.glob.map (fun g => if g.uid = uid ∧ g.ans.isNone then { g with ans := some (bytes, cause) } else g) } }

/-- STASH_FILL_RETURN (R135, R138): a line merges into the stash, and the access that waits for the answer has it. -/
def execStashFillReturn (k : Nat) (s : State) : Res :=
  .next (
    match s.arriving k with
    | some m =>
      match m.dst, m.body with
      | .core q, .data r bytes bad =>
        let s1 := s.remove k
        match r.op with
        | .fill =>
          let c0 := s1.core q
          let c1 := match c0.fills.find? (fun f => f.uid == r.uid) with | some f => c0.mergeFill f r.pa bytes bad | none => c0
          let c := { c1 with fills := c1.fills.filter (fun f => f.uid ≠ r.uid) }
          let a := c.lineAnswer r.pa bytes bad
          (s1.setCore q (c.globAnswer r.uid (leBytes 64 a) (if a / 2 ^ 512 % 256 = 0 then none else some uncorrectable))).give q r.ctx r.uid ⟨a, false, none⟩
        | _ => (s1.setCore q (((s1.core q).pushAnswer r.uid bytes (!bad.isEmpty) none).globAnswer r.uid bytes
                  (if bad.isEmpty then none else some uncorrectable))).give q r.ctx r.uid ⟨leNat bytes, !bad.isEmpty, none⟩
      | _, _ => s
    | none => s)

/-- An acknowledgement reaches core `q`: the operation counts it, and a store that waits for it goes on. -/
def State.acked (s : State) (q uid : Nat) (cause : Option (BitVec 8)) : State :=
  let s1 := (s.core q).ctxs.foldl (fun s e => s.give q e.1 uid ⟨0, false, cause⟩) s
  let c := s1.core q
  (s1.setCore q ({ c with fills := c.fills.filter (fun f => f.uid ≠ uid) }.pushAnswer uid [] false cause |>.globAnswer uid [] cause)).answered q uid 1 cause

/-- WRITE_ACK (R136): the home slice, or the register block, has taken a write. -/
def execWriteAck (k : Nat) (s : State) : Res :=
  .next (
    match s.arriving k with
    | some m =>
      match m.src, m.dst, m.body with
      | .slice _, .core q, .ack _ uid => (s.remove k).acked q uid none
      | .io, .core q, .ack _ uid => (s.remove k).acked q uid none
      | .cluster _, .core q, .ack _ uid => (s.remove k).acked q uid none
      | _, _, _ => s
    | none => s)

/-- A frame acknowledged by the other package is retransmitted no more (R368): the oldest of the operation. -/
def State.dropFrame (s : State) (q uid : Nat) : State :=
  { s with net := s.net.eraseP (fun m => m.src == .core q && m.fab.isSome &&
      (match m.body with
       | .push u _ _ _ _ _ | .packet u _ _ _ _ | .post u _ _ _ _ | .mail u _ _ _ _ => u == uid
       | _ => false)) }

/-- NEGATIVE_ACK (R287): a refusal faults its token, or traps its access. -/
def execNegativeAck (k : Nat) (s : State) : Res :=
  .next (
    match s.arriving k with
    | some m =>
      match m.dst, m.body with
      | .core q, .nak _ uid cause =>
        let s1 := (s.remove k).acked q uid (some cause)
        (match m.src with | .port _ => s1.dropFrame q uid | _ => s1)
      | _, _ => s
    | none => s)

/-- DELIVERY_ACK (R184): a receiver has accepted a delivery. -/
def execDeliveryAck (k : Nat) (s : State) : Res :=
  .next (
    match s.arriving k with
    | some m =>
      match m.src, m.dst, m.body with
      | .core _, .core q, .ack _ uid => (s.remove k).acked q uid none
      | .port _, .core q, .ack _ uid => ((s.remove k).dropFrame q uid).acked q uid none
      | _, _, _ => s
    | none => s)

end Sys2Proof.Machine
end

