-- ==== Sys2Proof/Machine/Image.lean ====
section
/-! DEFINITION. The save image of a context (R93, Table 5.5): written at a stop, read back at a restore. -/

namespace Sys2Proof.Machine

/-- ESTAT's bits, but for pend, as the image holds them (Table 5.3). -/
def Ctx.estatBits (c : Ctx) (pend : Bool) : Nat :=
  ofBool pend + 2 * ofBool c.spr.inh + 4 * ofBool c.spr.upc + 8 * ofBool c.spr.str + 16 * c.level.num + 64 * c.spr.plev.num

def GuardSt.code : GuardSt → Nat
  | .unresolved => 0
  | .yes => 1
  | .no => 2
def GuardSt.ofCode : Nat → GuardSt
  | 1 => .yes
  | 2 => .no
  | _ => .unresolved
def TokSt.ofCode : Nat → TokSt
  | 1 => .busy
  | 2 => .done
  | 3 => .fault
  | 4 => .dropped
  | _ => .idle

/-- The sum of values placed `w` bits apart. -/
def packed (w : Nat) : List Nat → Nat
  | [] => 0
  | v :: r => v + 2 ^ w * packed w r

/-- The 512 bytes of Table 5.5. `pc` is what the image names as PC, `pend` whether an upcall waits. -/
def Ctx.image (c : Ctx) (now pc : Nat) (pend : Bool) : List Byte :=
  let ctl := packed 2 (c.c.toList.map GuardSt.code) + 2 ^ 16 * packed 3 (c.t.toList.map (fun t => t.st.code)) + 2 ^ 40 * c.level.num
    + 2 ^ 42 * (c.parent.getD 15)
  let qw := c.qw.filterMap (fun e => e.val.map (fun v => v.1.toNat))
  leBytes 248 (packed 64 ((c.g.toList.drop 1).map BitVec.toNat)) ++ leBytes 8 ((c.full ||| 1).toNat)
    ++ leBytes 64 (packed 64 (c.qs.map BitVec.toNat)) ++ leBytes 64 (packed 64 qw)
    ++ leBytes 8 (pc % 65536 + 2 ^ 16 * (c.spr.epc.toNat % 65536) + 2 ^ 32 * c.spr.ecause.toNat + 2 ^ 40 * c.estatBits pend
        + 2 ^ 48 * ofBool (c.mode != .loc) + 2 ^ 49 * c.spr.upcall.toNat)
    ++ leBytes 8 c.spr.eval.toNat ++ leBytes 8 c.latch.toHimmx.toNat
    ++ leBytes 8 (c.latch.toHlatch.toNat % 2 ^ 25 + 2 ^ 25 * c.spr.nflag.toNat + 2 ^ 31 * c.qs.length + 2 ^ 35 * qw.length)
    ++ leBytes 8 (c.spr.gthr.toNat + 2 ^ 32 * c.spr.tvec.toNat)
    ++ leBytes 8 (c.spr.hbtiv.toNat + 2 ^ 32 * ((c.burnLeft now + 1023) / 1024))
    ++ leBytes 8 ctl ++ leBytes 20 (packed 16 ((c.m.toList.drop 1).map BitVec.toNat))
    ++ leBytes 36 (packed 36 (c.p.toList.map (fun p => p.addr.toNat + 2 ^ 20 * p.step.toNat)))
    ++ leBytes 1 c.spr.tinfo.toNat ++ leBytes 1 (ofBool c.event) ++ leBytes 14 0

/-- A field of an image. -/
def imgField (b : List Byte) (byte n : Nat) : Nat := leNat ((b.drop byte).take n)
/-- Item `j` of a run of `w`-bit values. -/
def item (v w j : Nat) : Nat := v / 2 ^ (w * j) % 2 ^ w

/-- A context read back from an image over what the core's engine state keeps of it: token counts and causes, and which QW entries and masks
are poisoned. -/
def Ctx.ofImage (old : Ctx) (now : Nat) (b : List Byte) : Ctx :=
  let g := imgField b 0 248
  let qs := imgField b 256 64
  let qw := imgField b 320 64
  let pcw := imgField b 384 8
  let es := pcw / 2 ^ 40 % 256
  let lat := imgField b 408 8
  let th := imgField b 416 8
  let hb := imgField b 424 8
  let ctl := imgField b 432 8
  let ms := imgField b 440 20
  let ps := imgField b 460 36
  let l0 : Latch := Latch.empty.ofHimmx (word (imgField b 400 8))
  let nqw := lat / 2 ^ 35 % 16
  let fresh : List QwSlot := (List.range nqw).map (fun j => ⟨0, some (word (item qw 64 j), false)⟩)
  let kept := old.qw.filter (fun e => e.val.isSome)
  let slots : List QwSlot :=
    if kept.length = nqw then kept.zipWith (fun e f => { e with val := f.val.map (fun v => (v.1, (e.val.map (·.2)).getD false)) }) fresh else fresh
  { old with
    g := Vector.ofFn (fun i => if i = 0 then 0 else word (item g 64 (i - 1)))
    full := BitVec.ofNat 32 (imgField b 248 8) ||| 1
    qs := (List.range (lat / 2 ^ 31 % 16)).map (fun j => word (item qs 64 j))
    qw := slots
    pc := pcw % 65536
    mode := if pcw / 2 ^ 48 % 2 = 1 then .streamed else .loc
    latch := l0.ofHlatch (word (lat % 2 ^ 25))
    spr := { old.spr with
      epc := word (pcw / 2 ^ 16 % 65536), ecause := BitVec.ofNat 8 (pcw / 2 ^ 32), eval := word (imgField b 392 8)
      plev := Level.ofNum (es / 64), str := es / 8 % 2 == 1, upc := es / 4 % 2 == 1, inh := es / 2 % 2 == 1
      upcall := BitVec.ofNat 2 (pcw / 2 ^ 49), nflag := BitVec.ofNat 6 (lat / 2 ^ 25), gthr := BitVec.ofNat 32 th
      tvec := BitVec.ofNat 15 (th / 2 ^ 32), hbtiv := BitVec.ofNat 32 hb, tinfo := BitVec.ofNat 8 (imgField b 496 1) }
    c := Vector.ofFn (fun i => if i = 0 then .yes else GuardSt.ofCode (item ctl 2 i))
    t := Vector.ofFn (fun i =>
      let st := TokSt.ofCode (item (ctl / 2 ^ 16) 3 i)
      -- a token that settled while the context was stopped keeps its outcome
      if st = .busy ∧ old.t[i].count = 0 ∧ old.t[i].st ≠ .idle then old.t[i] else { old.t[i] with st := st })
    level := Level.ofNum (ctl / 2 ^ 40 % 4)
    -- a parent that has ended meanwhile is no parent any more (R86, R100)
    parent := if old.parent = some 15 then some 15 else if ctl / 2 ^ 42 % 16 = 15 then none else some (ctl / 2 ^ 42 % 16)
    m := Vector.ofFn (fun i => if i = 0 then 0xFFFF else BitVec.ofNat 16 (item ms 16 (i - 1)))
    p := Vector.ofFn (fun i => ⟨BitVec.ofNat 20 (item ps 36 i), BitVec.ofNat 16 (item ps 36 i / 2 ^ 20)⟩)
    event := old.event || imgField b 497 1 % 2 == 1
    burn := 1024 * (hb / 2 ^ 32)
    burnAt := now }

/-- Where the image of context `x` stands. -/
def imageAt (x : Nat) : Nat := 0x1E800 + 512 * x

/-- What a stop names as PC (R118, R236): the next stream index of a streamed context, the REP word of a repetition. -/
def Core.stopPc (c : Core) (h : Ctx) : Nat :=
  match h.mode with
  | .joining n => n
  | .streamed => c.nextIdx
  | .loc => h.pc

/-- The image of a stopped context written to its save slot. -/
def Core.putImage (c : Core) (now x : Nat) : Core :=
  let h := c.ctx x
  c.lwrite (imageAt x) (h.image now (c.stopPc h) (x = 0 ∧ c.upq ≠ []))
def State.writeImage (s : State) (k x : Nat) : State := s.setCore k ((s.core k).putImage s.now x)
/-- A context read back from its save slot. -/
def Core.getImage (c : Core) (now x : Nat) : Ctx := Ctx.ofImage (c.ctx x) now (c.lread (imageAt x) 512)

/-- A register of a live context takes a post (R87, R381): its event bit is set (R100), and a saved image takes the value too. -/
def State.fillReg (s : State) (k x : Nat) (r : Reg) (v : Word) : State :=
  let h := s.ctx k x
  let s1 := s.setCtx k x { h.putReg r v with event := true }
  if h.run = .stopped .saved ∨ h.run = .stopped .slot then s1.writeImage k x else s1

end Sys2Proof.Machine
end

