-- ==== Sys2Proof/Machine/CtxOps.lean ====
section
/-! DEFINITION. HSTART, HJOIN, END, YIELD, WFE, HKILL and HBT (R95 to R101), and WFE_TIMEOUT. -/

namespace Sys2Proof.Machine

/-- Helper numbers in use: live, or ended and not freed (R95, R96). -/
def Core.helperFree (c : Core) (x : Nat) : Bool := !(c.live x) && (kget c.ended x).isNone
/-- The lowest free helper number, or 0 (R100). -/
def Core.freeHelper (c : Core) : Nat := (((List.range 11).drop 1).find? c.helperFree).getD 0
/-- Physical helper slots in use (R94). -/
def Core.slotsUsed (c : Core) : Nat :=
  (c.ctxs.filter (fun e => 1 ≤ e.1 && e.1 ≤ 10 && e.2.run != .stopped .slot)).length

/-- The word a context would run: at its PC, as it was fetched ahead if it was (R147), or at the head of its stream buffer. -/
def Core.nextWord (m : Core) (x : Nat) : Option Instr :=
  let c := m.ctx x
  if c.streamed then m.stream.buf.head?.map (fun w => decodeOr w.word)
  else some (decodeOr (((kget c.ahead c.pc).map (·.1)).getD (BitVec.ofNat 32 (mnat m.istore c.pc 4))))
def State.nextWord (s : State) (k x : Nat) : Option Instr := (s.core k).nextWord x
/-- The register of the HJOIN that a context would run. -/
def Core.joins (m : Core) (x : Nat) : Option Reg := match m.nextWord x with | some (.hjoin _ a) => some a | _ => none
/-- A helper waits for a slot and can take one: it was not saved out of an HJOIN whose child is still to drain (R94). -/
def Core.slotReady (m : Core) (x : Nat) (h : Ctx) : Bool :=
  h.run == .stopped .slot &&
    (match m.joins x with
     | some a => (match kget m.ended (h.reg a).toNat with | some e => e.drained | none => !(m.live (h.reg a).toNat))
     | none => true)
/-- The helpers that wait for a slot and can take one. -/
def Core.slotWaiters (m : Core) : List (Nat × Ctx) := m.ctxs.filter (fun e => 1 ≤ e.1 && e.1 ≤ 10 && m.slotReady e.1 e.2)

/-- Helper slots of a core that are reserved for records chosen to start there (R273). -/
def State.reservedOn (s : State) (k : Nat) : Nat :=
  (s.terrs.map (fun e => ((e.2.chosen.filter (fun c => c.core == some k)).map (·.slots)).sum)).sum

/-- A slot is free for a helper that starts: none is reserved for a record, and none waits for a helper that began to wait before (R94). -/
def State.slotFree (s : State) (k : Nat) : Bool :=
  (s.core k).slotsUsed + s.reservedOn k + (s.core k).slotWaiters.length < (s.core k).slots

/-- Starts helper `x` (R86, R95) at `entry`, with its arguments in g1 and up. One for which no slot is free waits with its image in its save
slot (R94). -/
def Core.startHelper (c : Core) (slot : Bool) (now x entry : Nat) (args : List Word) (hbtiv : BitVec 32) (parent : Option Nat) (task : Option TaskInfo) : Core :=
  let h := Ctx.start entry .u (if slot then .running else .stopped .slot)
  let h1 : Ctx := { h with parent := parent, slotAt := now, task := task, spr := { h.spr with hbtiv := hbtiv } }
  let h2 := (List.range args.length).foldl (fun h j => h.setReg (BitVec.ofNat 5 (j + 1)) (args.getD j 0)) h1
  let c1 := c.setCtx x (h2.reload now)
  if h2.run = .running then c1 else c1.putImage now x

/-- HSTART (R100). -/
def execHstart (d a : Reg) (n : BitVec 3) (xs : Reg) (s : State) : Res :=
  let i : Instr := .hstart d a n xs
  let args : List Reg := (List.range n.toNat).map (fun j => xs + BitVec.ofNat 5 j)
  .next (s.issue i .u fun s => s.withRegs i (a :: args) fun s =>
    s.transfer (s.cx.reg a) fun s =>
      let c := s.cx
      let k := s.me.freeHelper
      if k = 0 then s.done d 0
      else
        let t := c.task.map (fun t => { t with own := false, pair := none })
        let s1 := s.setMe (s.me.startHelper (s.slotFree s.cur.1) s.now k (c.reg a).toNat (args.map c.reg) c.spr.hbtiv (some s.cur.2) t)
        (s1.setCx { s1.cx with event := true }).done d (word k))

/-- HJOIN (R100, Table 5.6). -/
def execHjoin (d a : Reg) (s : State) : Res :=
  let i : Instr := .hjoin d a
  .next (s.issue i .u fun s => s.withRegs i [a] fun s =>
    let k := (s.cx.reg a).toNat
    let m := s.me
    if k < 1 ∨ 10 < k then s.done d 0x400
    else if m.live k then
      if (m.ctx k).parent = some s.cur.2 then s.park (.child k) else s.done d 0x400
    else
      match kget m.ended k with
      | none => s.done d 0x400
      | some e =>
        if e.parent ≠ some s.cur.2 then s.done d 0x400
        else if !e.drained then s.park (.child k)
        else (s.setMe { m with ended := kdel m.ended k }).done d (word (256 * e.kind + e.cause.toNat)))

/-- END (R97, R100): the ballonet goes idle, or the helper ends at once, and a load in flight brings its registers nothing any more; one with
outstanding operations waits for a tracker entry. -/
def execEndCtx (s : State) : Res :=
  let i : Instr := .endCtx
  .next (s.issue i .u fun s =>
    let k := s.cur.1
    let x := s.cur.2
    if x = 0 then s.trap illegalOp (wordOf i)
    else if x = 11 then s.endBallonet k
    else if s.me.pending x ∧ 16 ≤ s.me.retiring then s.park .unit
    else s.endHelper k x 0 0)

/-- YIELD (R100). -/
def execYieldSlot (s : State) : Res :=
  .next (s.issue .yieldSlot .u fun s => (s.setCx { s.cx with yld := true }).finish)

/-- WFE (R100). -/
def execWfe (d a : Reg) (xi : Bool) (s : State) : Res :=
  let i : Instr := .wfe d a xi
  .next (s.issue i .u fun s => s.withRegs i [a] fun s =>
    let c := s.cx
    if c.event then (s.setCx { c with event := false }).done d 0
    else
      match c.run with
      | .parked (.event _ (some t)) => if t ≤ s.now then s.done d 1 else s
      | .parked (.event _ none) => s
      | _ => s.park (.event xi (if c.reg a = 0 then none else some (s.now + (c.reg a).toNat))))

/-- The commands of a context that have not started leave their queues, and its set-aside copies end; their tokens count them as dropped. -/
def Core.discard (c : Core) (x : Nat) : Core :=
  let cut (e : Engine) : Engine := { e with queue := e.queue.filter (fun q => q.ctx ≠ x) }
  let gone := ([c.vec, c.psh, c.mat, c.gau].flatMap (·.queue)).filter (fun q => q.ctx == x) ++ (c.aside.filterMap (·.cmd)).filter (fun q => q.ctx == x)
  let asides := c.aside.filterMap (·.cmd)
  -- what a copy that was set aside has sent goes on without it
  let cutOut (o : Out) : Option Out :=
    if asides.any (fun q => q.uid == o.uid && q.ctx == x) then (if o.left = 0 then none else some { o with tok := none, td := none, sending := false }) else some o
  -- a pre-empted matrix operation gives up the save area (R262)
  let claimed := c.mat.queue.any (fun q => q.ctx == x && q.pos != 0)
  let c1 : Core := { c with spr := if claimed then { c.spr with msaveClaim := false } else c.spr, vec := cut c.vec, psh := cut c.psh, mat := cut c.mat, gau := cut c.gau, pairs := kdel c.pairs x, aside := c.aside.filter (fun a => a.ctx ≠ x), outs := c.outs.filterMap cutOut, seq := if c.seq.owner = some x then { c.seq with running := false } else c.seq }
  -- a descriptor named as written by a discarded command is ready again
  let c2 := gone.foldl (fun c q => match tdOf q.instr with | some (k, true) => c.setTdSt k 2 | _ => c) c1
  match kget c2.ctxs x with
  | none => c2
  | some h0 =>
    -- the word that awaits the verdict of a discarded command has had no effect
    let h := if h0.acc.any (fun a => a.phase == phVerdict && a.ans.isNone && gone.any (fun q => q.uid == a.uid)) then { h0 with acc := none } else h0
    c2.setCtx x (gone.foldl (fun h q => match tokOf q.instr with | some t => if q.seq.isNone && verdictKind q.instr && guardOf q.instr == 0 then h else h.setTok t ((h.tok t).settle .discarded) | none => h) h)

/-- A command of the context is started and has not completed. -/
def Core.started (c : Core) (x : Nat) : Bool := c.engines.any (fun e => e.serves x)

/-- The helpers that a kill of `x` ends: a PAIRED task loses both (R100). -/
def Core.pairOf (c : Core) (x : Nat) : List Nat :=
  match (c.ctx x).task.bind (·.pair) with
  | some (y, _) => if c.live y then [x, y] else [x]
  | none => [x]

/-- What the helpers that are to be killed have not started is dropped, and they are asked to stop (R92, R100). -/
def State.killAsk (s : State) (k : Nat) (xs : List Nat) : State :=
  xs.foldl (fun s x => let c := (s.core k).discard x; s.setCore k (c.setCtx x { c.ctx x with stopping := true })) s
/-- They stand at a boundary and issue nothing more. -/
def State.killStop (s : State) (k : Nat) (xs : List Nat) : State :=
  xs.foldl (fun s x => s.setCtx k x ((s.ctx k x).setRun s.now (.stopped .killed))) s

/-- HKILL stops the context itself, so it writes its image (R92); a helper that stood stopped has one. -/
def Ctx.killWrites (h : Ctx) : Bool :=
  match h.run with
  | .stopped .killed => true
  | .stopped _ => false
  | _ => true

/-- HKILL (R100): the helpers' commands that have not started are dropped at once, and so is what they still issue inside an open packet;
then it waits until they stand at a boundary outside a packet (R92), for the commands that have started, and for a tracker entry. -/
def execHkill (d a : Reg) (s : State) : Res :=
  let i : Instr := .hkill d a
  .next (s.issue i .u fun s => s.withRegs i [a] fun s =>
    let k := (s.cx.reg a).toNat
    let core := s.cur.1
    let m := s.me
    if k < 1 ∨ 10 < k ∨ !m.live k ∨ ((m.ctx k).parent ≠ some s.cur.2 ∧ s.cur.2 ≠ 0) then s.done d 0
    else
      let xs := m.pairOf k
      let s0 := s.killAsk core xs
      if xs.any (fun x => (s0.me.ctx x).pkt.isSome || (s0.me.ctx x).committed || (s0.me.ctx x).load.isSome) then s0.park (.child k)
      else
        let s1 := s0.killStop core xs
        if xs.any (fun x => s1.me.started x) then s1.park (.child k)
        else if xs.any (fun x => s1.me.pending x) ∧ 16 < s1.me.retiring + xs.length then s1.park (.child k)
        else (xs.foldl (fun s x => (if (m.ctx x).killWrites then s.writeImage core x else s).endHelper core x 2 0) s1).done d 1)

/-- HBT (R100). -/
def execHbt (s : State) : Res :=
  .next (s.issue .hbt .u fun s => (s.setCx (s.cx.reload s.now)).finish)

/-- A core steps on behalf of itself: `cur` stays where it was. -/
def State.asCtx (s : State) (k x : Nat) (f : State → State) : State :=
  { f { s with cur := (k, x) } with cur := s.cur }

/-- WFE_TIMEOUT (R100): the waiting WFE returns 1 once its time has passed. -/
def execWfeTimeout (core cx : Nat) (s : State) : Res :=
  .next (
    if !(s.core core).live cx || !s.works core || (s.ctx core cx).stopping then s
    else
      let c := s.ctx core cx
      match c.run, s.nextWord core cx with
      | .parked (.event _ (some t)), some (.wfe d _ _) => if t ≤ s.now && !c.event then s.asCtx core cx fun s => s.done d 1 else s
      | _, _ => s)

end Sys2Proof.Machine
end

