-- ==== Sys2Proof/Machine/Packet.lean ====
section
/-! DEFINITION. SNDO, SNDW, SNDE and RPOST (R193, R194), and the steps RPOST_ARRIVAL and HELD_POST_FILL (R87). Control packets
(R316) and memory packets arrive in `Arrive.lean`. -/

namespace Sys2Proof.Machine

/-- The wire formats of R31, and the five floating ones. -/
def wireCode (w : Nat) : Bool := w == 0 || (2 ≤ w && w ≤ 5) || w == 10 || w == 11
def wireFloat (w : Nat) : Bool := w == 0 || (2 ≤ w && w ≤ 5)

/-- A packet header's fields (Table 9.17). -/
def hdrWf (h : Word) : Nat := bits h 38 5
def hdrMail (h : Word) : Bool := wbit h 37
def hdrDst (h : Word) : Nat := bits h 0 20
/-- The control window (R316). -/
def inControl (a : Nat) : Bool := 0xFF000 ≤ a && a < 0xFF020

/-- The checks of SNDO in the order of R54: none, or the trap. -/
def sndoCheck (i : Instr) (vc : Nat) (openAlready : Bool) (dest hdr : Word) : Option (BitVec 8 × Word) :=
  let wf := hdrWf hdr
  let dst := hdrDst hdr
  let mail := hdrMail hdr
  if !wireCode wf || (mail && !wireFloat wf) then some (illegalFormat, wordOf i)
  else if !mail && dst % 8 ≠ 0 then some (misaligned, word dst)
  else if !mail && (0x60000 ≤ dst || inImage dst 8) && !(vc == 3 && inControl dst) then some (localBounds, word dst)
  else if openAlready || bits hdr 43 21 ≠ 0 || (destOf dest).isNone then some (illegalOp, wordOf i)
  else none

/-- A payload word as it lands (R193). -/
def wireDouble (wf : Nat) (w : Word) : Word := word (wireWord wf (bits w 0 32) + 2 ^ 32 * wireWord wf (bits w 32 32))
/-- The halves of payload words, low half first. -/
def halves (ws : List Word) : List Nat := ws.flatMap (fun w => [bits w 0 32, bits w 32 32])

/-- The executing context opens a packet: it has its place among the packets and posts of its channel from now on (R195). A mailbox packet
travels on the data channel (Table 16.1). -/
def State.openPacket (s : State) (p : Pkt) : State :=
  let s1 := s.setCx { s.cx with pkt := some p }
  match s.msgTo s.cur.1 s.cx.level ((destOf p.dest).getD ⟨0, none⟩) (if hdrMail p.hdr then 2 else p.vc.toNat) (.opening p.uid) with
  | some m => s1.send m
  | none => s1

/-- Closes the packet of the executing context and sends it. Of a mailbox packet the first two payload words are the message's header, and a
word that is not there counts as 0; the descriptor that this header names is the mailbox, whatever dst and bar of the packet header name
(DESIGN CHOICE, log entry 81). -/
def State.closePacket (s : State) (p : Pkt) : State :=
  let k := s.cur.1
  let x := s.cur.2
  let wf := hdrWf p.hdr
  let d := (destOf p.dest).getD ⟨0, none⟩
  let s1 := (s.setCx { s.cx with pkt := none }).addOut k (outOn p.uid x p.tok)
  if hdrMail p.hdr then
    let hd : BitVec 128 := p.words.getD 1 0 ++ p.words.getD 0 0
    s1.sendAt k s.cx.level d 2 p.uid (.mail p.uid wf hd ((halves (p.words.drop 2)).map (wireWord wf)) false)
  else s1.sendAt k s.cx.level d p.vc.toNat p.uid (.packet p.uid p.hdr (p.words.map (wireDouble wf)) false 0)

/-- A token at its limit of 255 outstanding commands (R183). -/
def State.tokFull (s : State) (t : Slot) : Bool := 255 ≤ (s.cx.tok t).count + s.me.reserved s.cur.2 t

/-- SNDO (R194). -/
def execSndo (a b : Reg) (t : Slot) (v : BitVec 2) (e : Bool) (s : State) : Res :=
  let i : Instr := .sndo a b t v e
  .next (s.issue i (if v = 3 then .s else .u) fun s => s.withRegs i [a, b] fun s =>
    let c := s.cx
    match sndoCheck i v.toNat c.pkt.isSome (c.reg a) (c.reg b) with
    | some f => s.trap f.1 f.2
    | none =>
      if s.tokFull t then s.park (.tokens false)
      else
        let p : Pkt := { dest := c.reg a, hdr := c.reg b, tok := t, vc := v, words := [], openedAt := s.now, pc := c.pc, uid := s.uid }
        let s1 := (s.bump.setCx (c.setTok t (c.tok t).arm)).openPacket p
        (if e then s1.closePacket p else s1).finish)

/-- SNDW (R194). -/
def execSndw (a : Reg) (e : Bool) (s : State) : Res :=
  let i : Instr := .sndw a e
  .next (s.issue i .u fun s => s.withRegs i [a] fun s =>
    match s.cx.pkt with
    | none => s.trap illegalOp (wordOf i)
    | some p =>
      if 32 ≤ p.words.length then s.trap illegalOp (wordOf i)
      else
        let p1 := { p with words := p.words ++ [s.cx.reg a] }
        let s1 := s.setCx { s.cx with pkt := some p1 }
        (if e then s1.closePacket p1 else s1).finish)

/-- SNDE (R194). -/
def execSnde (s : State) : Res :=
  let i : Instr := .snde
  .next (s.issue i .u fun s =>
    match s.cx.pkt with
    | none => s.trap illegalOp (wordOf i)
    | some p => (s.closePacket p).finish)

/-- RPOST (R194). -/
def execRpost (a b c : Reg) (t : Slot) (v : BitVec 2) (s : State) : Res :=
  let i : Instr := .rpost a b c t v
  .next (s.issue i (if v = 3 then .s else .u) fun s => s.withRegs i [a, b, c] fun s =>
    let x := s.cx
    let g := x.reg b
    match destOf (x.reg a) with
    | none => s.trap illegalOp (wordOf i)
    | some d =>
      if 11 < bits g 0 4 ∨ bits g 4 5 = 0 ∨ bits g 9 55 ≠ 0 then s.trap illegalOp (wordOf i)
      else if s.tokFull t then s.park (.tokens false)
      else
        let s1 := (s.bump.setCx (x.setTok t (x.tok t).arm)).addOut s.cur.1 (outOn s.uid s.cur.2 t)
        (s1.sendTo s.cur.1 x.level d v.toNat s.uid (.post s.uid (bits g 0 4) (BitVec.ofNat 5 (bits g 4 5)) (x.reg c) false)).finish)

/-- A post fills its register; one that arrives poisoned leaves the register's parity bad (R317). -/
def State.postFill (s : State) (k x : Nat) (r : Reg) (v : Word) (bad : Bool) : State :=
  let s1 := s.fillReg k x r v
  if bad && r != 0 then s1.setCtx k x { s1.ctx k x with bad := (s1.ctx k x).bad ||| (1#32 <<< r.toNat) } else s1

/-- A post for a register is held (R87): the register is full, one for it is held already, or its context leads a pair with outputs in the comparator,
after which the value comes (DESIGN CHOICE, log entry 94). -/
def Core.postWaits (c : Core) (x : Nat) (r : Reg) : Bool :=
  (c.ctx x).isFull r || c.rx.posts.any (fun p => p.ctx == x && p.reg == r) || (kget c.pairs x).any (·.any (·.output))

/-- Puts a post into an empty register, or holds it behind a full one (R87). -/
def State.takePost (s : State) (k x : Nat) (r : Reg) (v : Word) (bad : Bool) : State :=
  let c := s.core k
  if c.postWaits x r then
    s.setCore k { c with rx := { c.rx with posts := c.rx.posts ++ [⟨x, r, v, bad⟩] } }
  else s.postFill k x r v bad

/-- A context of a core stands in the save region while its core drains or its territory is paused: it still counts as live (R381), and what
reaches it is lost (R348). -/
def State.savedAway (s : State) (k x : Nat) : Bool :=
  match s.tagOf k with
  | some t => ((s.clus (clusOf k)).move.any (fun m => m.phase == .draining) || (s.terr t).paused) && (s.terr t).saved.any (fun e => e.2.home == 16 * k + x)
  | none => false

/-- RPOST_ARRIVAL (R87, R194): a seventeenth post for a full register waits in the mesh, and its channel to the core behind it. -/
def execRpostArrival (k : Nat) (s : State) : Res :=
  .next (
    match s.arriving k with
    | some m =>
      match m.dst, m.body with
      | .core q, .post uid x r v bad =>
        let c := s.core q
        match s.refusal m q with
        | some cause => (s.remove k).refuse m uid cause
        | none =>
          if s.blocked m q then s
          else if !(c.live x) then (if s.savedAway q x then (s.remove k).accept m uid else (s.remove k).refuse m uid localBounds)
          else if c.postWaits x r && 16 ≤ c.rx.posts.length then
            { s with net := s.net.set k { m with stuck := true } }
          else ((s.remove k).takePost q x r v bad).accept m uid
      | _, _ => s
    | none => s)

/-- HELD_POST_FILL (R87): the oldest post held for an emptied register fills it. -/
def execHeldPostFill (core k : Nat) (s : State) : Res :=
  let c := s.core core
  .next (
    match c.rx.posts[k]? with
    | none => s
    | some p =>
      if (c.ctx p.ctx).isFull p.reg || !(c.live p.ctx) || (kget c.pairs p.ctx).any (·.any (·.output)) || (c.rx.posts.take k).any (fun o => o.ctx == p.ctx && o.reg == p.reg) then s
      else (s.setCore core { c with rx := { c.rx with posts := c.rx.posts.eraseIdx k } }).postFill core p.ctx p.reg p.val p.bad)

end Sys2Proof.Machine
end

