-- ==== Sys2Proof/Machine/Arrive.lean ====
section
/-! DEFINITION. PUSH_ARRIVAL (R190) and PACKET_ARRIVAL (R193): what lands in a receiver's memory, is counted at its object (R187) and is
recorded in its tail ring (R302). -/

namespace Sys2Proof.Machine

/-- Bytes land in the instruction store. -/
def Core.istoreWrite (c : Core) (a : Nat) (bs : List Byte) : Core :=
  { c with istore := mwrite c.istore a bs, ibad := c.ibad.filter (fun w => !(a ≤ 4 * w && 4 * w + 4 ≤ a + bs.length)) }
/-- Instruction words that arrive poisoned (R317), from the 64-bit words that do. -/
def Core.istorePoison (c : Core) (a n : Nat) (bad : List Nat) : Core :=
  { c with ibad := (bad.flatMap (fun w => [2 * w, 2 * w + 1])).foldl (fun l w => if a < 4 * w + 4 && 4 * w < a + n then nput l w else l) c.ibad }

/-- The count that a message waits for (R187): a grant of its own, after that of the bytes it counts. -/
def State.countDue (s : State) (k : Nat) (m : Msg) (q a n : Nat) : State :=
  let c := s.core q
  { s.setCore q (c.countAt (some a) n) with net := s.net.set k { m with due := none, failed := m.failed || c.countFails (some a) n } }

/-- A push's bytes have landed, `n` of `len` (R190): they are still to be counted, or the push is answered. -/
def State.pushLanded (s : State) (k : Nat) (m : Msg) (q uid n len : Nat) (bar : Option Nat) : State :=
  match bar with
  | some a =>
    if (s.core q).counts bar n then { s with net := s.net.set k { m with due := some (a, n) } }
    else if n = len then (s.remove k).accept m uid else (s.remove k).refuse m uid localBounds
  | none => if n = len then (s.remove k).accept m uid else (s.remove k).refuse m uid localBounds

/-- PUSH_ARRIVAL (R190): the bytes below the stash land, and in a further step they are counted; any that do not land answer LOCAL_BOUNDS, and a
count that fails UNCORRECTABLE. -/
def execPushArrival (k : Nat) (s : State) : Res :=
  .next (
    match s.arriving k with
    | some m =>
      match m.dst, m.body with
      | .core q, .push uid ist addr bytes bad bar =>
        match m.due with
        | some (a, n) =>
          match s.lateRefusal m q with
          | some cause => (s.remove k).refuse m uid cause
          | none =>
            let fails := (s.core q).countFails (some a) n
            let s1 := (s.setCore q ((s.core q).countAt (some a) n)).remove k
            if fails then s1.refuse m uid uncorrectable else if n = bytes.length then s1.accept m uid else s1.refuse m uid localBounds
        | none =>
          if s.blocked m q then s
          else
            match s.refusal m q with
            | some cause => (s.remove k).refuse m uid cause
            | none =>
              let c := s.core q
              if ist then (s.setCore q ((c.istoreWrite addr bytes).istorePoison addr bytes.length bad)).pushLanded k m q uid bytes.length bytes.length bar
              else
                let n := min bytes.length (c.stashBase - addr)
                let bs := bytes.take n
                if c.writePoisoned addr n then (s.remove k).refuse m uid uncorrectable
                else
                  let s1 := s.setCore q ((c.lwrite addr bs).poison (bad.filter (fun w => 8 * w < addr + n)))
                  (s1.trace q m.sender 0 addr n m.fab).pushLanded k m q uid n bytes.length bar
      | _, _ => s
    | none => s)

/-- A payload word can land at an address of the core (R193). -/
def Core.landable (c : Core) (a : Nat) : Bool := a + 8 ≤ c.stashBase && !inImage a 8
/-- Payload words from the `i`th on that one granule grant takes, of `n` in all. -/
def packetPart (dst i n : Nat) : Nat := min (n - i) (8 - (dst + 8 * i) / 8 % 8)

/-- The control commands of Table 17.7. -/
def ctlListed (dst : Nat) : Bool := dst == 0xFF000 || dst == 0xFF008 || dst == 0xFF010 || dst == 0xFF018
/-- Who refuses a control packet: a burner fence lets UNFENCE in (R324). -/
def State.controlRefusal (s : State) (m : Msg) (q dst : Nat) : Option (BitVec 8) :=
  (if dst = 0xFF018 then s.setStat q { s.stat q with fenced := false } else s).refusal m q

/-- The words of a packet that one grant writes land at core `q` and are traced (R302). -/
def State.packetGrant (s : State) (m : Msg) (q : Nat) (hdr : Word) (words : List Word) (bad : Bool) (taken : Nat) : State :=
  let n := packetPart (hdrDst hdr) taken words.length
  let a := hdrDst hdr + 8 * taken
  let c := s.core q
  if !c.landable a then s
  else
    let c1 := c.lwrite a (((words.drop taken).take n).flatMap (fun w => leBytes 8 w.toNat))
    let c2 := if bad then c1.poison ((List.range n).map (fun i => a / 8 + i)) else c1
    (s.setCore q c2).trace q m.sender 1 a (8 * n) m.fab
/-- What such a grant leaves to be counted (R187). -/
def Core.packetDue (c : Core) (hdr : Word) (words : List Word) (taken : Nat) : Option (Nat × Nat) :=
  let n := 8 * packetPart (hdrDst hdr) taken words.length
  let a := 16 * bits hdr 20 16
  if c.landable (hdrDst hdr + 8 * taken) && !wbit hdr 36 && c.counts (some a) n then some (a, n) else none

/-- A packet all of whose words have been taken, and counted, is answered (R193). -/
def State.packetEnd (s : State) (k : Nat) (m : Msg) (q uid : Nat) (hdr : Word) (words : List Word) (failed : Bool) : State :=
  if failed then (s.remove k).refuse m uid uncorrectable
  else if (List.range words.length).all (fun i => (s.core q).landable (hdrDst hdr + 8 * i)) then (s.remove k).accept m uid
  else (s.remove k).refuse m uid localBounds

/-- PACKET_ARRIVAL (R193, R316): a memory packet's words land a granule at a time (R130), each granule counted in a step of its own; with the
last one the packet is answered. A control packet with another payload than one word, or for another address, is refused. -/
def execPacketArrival (k : Nat) (s : State) : Res :=
  .next (
    match s.arriving k with
    | some m =>
      match m.dst, m.body with
      | .core q, .packet uid hdr words bad taken =>
        let control := m.vc == 3 && inControl (hdrDst hdr)
        match m.due with
        | some (a, n) =>
          match s.lateRefusal m q with
          | some cause => (s.remove k).refuse m uid cause
          | none =>
            let s1 := s.countDue k m q a n
            if taken < words.length then s1 else s1.packetEnd k m q uid hdr words (m.failed || (s.core q).countFails (some a) n)
        | none =>
          if s.blocked m q || (control && ctlListed (hdrDst hdr) && words.length == 1 && (s.controlRefusal m q (hdrDst hdr)).isNone) then s
          else
            match s.refusal m q with
            | some cause => (s.remove k).refuse m uid cause
            | none =>
              if control then (s.remove k).refuse m uid illegalOp
              else
                let s1 := s.packetGrant m q hdr words bad taken
                let next := taken + packetPart (hdrDst hdr) taken words.length
                let due := (s.core q).packetDue hdr words taken
                if next < words.length || due.isSome then
                  { s1 with net := s1.net.set k { m with body := .packet uid hdr words bad next, due := due } }
                else s1.packetEnd k m q uid hdr words m.failed
      | _, _ => s
    | none => s)

end Sys2Proof.Machine
end

