-- ==== Sys2Proof/Machine/Desc.lean ====
section
/-! DEFINITION. TDSET, TDGET, TDSTATE, TDBIND and TDDROP (R178 to R180). -/

namespace Sys2Proof.Machine

/-- A field of a descriptor replaced. -/
def TDesc.put (d : TDesc) (lo n v : Nat) : TDesc :=
  BitVec.ofNat 256 (d.toNat - (d.toNat / 2 ^ lo % 2 ^ n) * 2 ^ lo + v % 2 ^ n * 2 ^ lo)

/-- The block size that a bk value asks for. -/
def bkBlock (b : Nat) : Nat := if b = 1 then 16 else if b = 2 then 32 else 64

/-- The checks of a descriptor record (R178, Table 9.4), in the order of R54: the first cause that fails. -/
def TDesc.check (d : TDesc) : Option (BitVec 8) :=
  let sc := fmtScale d.fmt
  let localOk (e : Nat × Nat) : Bool := e.1 + e.2 ≤ 0x60000 && !inImage e.1 e.2
  if 28 ≤ d.fmt || 4 ≤ d.bk || (d.bk ≠ 0 && bkBlock d.bk ≠ sc.2.1) || d.rows = 0 || d.cols = 0 || d.cols % fmtCols d.fmt ≠ 0
      || d.stride < d.rowBytes then some illegalFormat
  else if d.sbase % sc.2.2 ≠ 0 then some misaligned
  else if !d.locals.all localOk || (d.loc && 2 ^ 20 ≤ d.base) || (d.sloc && 2 ^ 20 ≤ d.sbase) || (d.lloc && 2 ^ 20 ≤ d.list)
      || (d.bnd && !localOk (d.bar, 16)) then some localBounds
  else none

/-- A command of the core names the descriptor and is outstanding (R180). -/
def Core.tdBusy (c : Core) (k : Nat) : Bool :=
  let names (q : Cmd) : Bool := match tdOf q.instr with | some (j, _) => j == k | none => false
  c.engines.any (fun e => e.cmds.any names)
    || c.outs.any (fun o => o.td == some k) || c.aside.any (fun a => a.cmd.any names)

/-- A word that reads a descriptor meets its poison as a scalar read does (R150). -/
def State.tdRead (s : State) (k : Nat) (f : State → State) : State :=
  if s.me.tdBad k then s.trap uncorrectable (word (0x1E000 + 32 * k)) else f s

/-- TDSET (R180): every failed check of the record has its address in EVAL. -/
def execTdset (a g : Reg) (s : State) : Res :=
  let i : Instr := .tdset a g
  .next (s.issueLocal i .u [g] (fun c => [(c.reg g).toNat]) fun s => s.withRegs i [g] fun s =>
    let p := (s.cx.reg g).toNat
    s.localAccess p 32 32 false fun s =>
      let d : TDesc := BitVec.ofNat 256 (mnat s.me.lmem p 32)
      match d.check with
      | some c => s.trap c (word p)
      | none =>
        if s.me.tdBusy a.toNat then s.park .desc
        else (s.setMe (s.me.setTd a.toNat ((d.put 224 2 0).withSt (if d.bnd then 1 else 2)))).finish)

/-- TDGET (R180). -/
def execTdget (a g : Reg) (s : State) : Res :=
  let i : Instr := .tdget a g
  .next (s.issueLocal i .u [g] (fun c => [(c.reg g).toNat]) fun s => s.withRegs i [g] fun s =>
    let p := (s.cx.reg g).toNat
    s.localAccess p 32 32 true fun s => s.tdRead a.toNat fun s =>
      (s.setMe (s.me.lwrite p (leBytes 32 (s.me.td a.toNat).toNat))).finish)

/-- TDSTATE (R180). -/
def execTdstate (a g : Reg) (s : State) : Res :=
  let i : Instr := .tdstate a g
  .next (s.issue i .u fun s => s.tdRead a.toNat fun s => s.done g (word (s.me.td a.toNat).st))

/-- TDBIND (R180). -/
def execTdbind (a g : Reg) (s : State) : Res :=
  let i : Instr := .tdbind a g
  .next (s.issueLocal i .u [g] (fun c => if c.reg g = 0 then [] else [(c.reg g).toNat]) fun s => s.withRegs i [g] fun s =>
    let p := (s.cx.reg g).toNat
    let d := s.me.td a.toNat
    let set (d1 : TDesc) (s : State) : State := s.tdRead a.toNat fun s =>
      if s.me.tdBusy a.toNat then s.park .desc else (s.setMe (s.me.setTd a.toNat d1)).finish
    if p = 0 then set ((d.put 253 1 0).withSt 2) s
    else
      match s.me.localCheck s.cx.level p 16 16 with
      | some c => s.trap c (word p)
      | none =>
        match s.me.objectCheck p with
        | some c => s.trap c (word p)
        | none => set (((d.put 226 16 (p / 16)).put 253 1 1).withSt 1) s)

/-- TDDROP (R180). -/
def execTddrop (a : Reg) (s : State) : Res :=
  let i : Instr := .tddrop a
  .next (s.issue i .u fun s =>
    if s.me.tdBusy a.toNat then s.park .desc else (s.setMe (s.me.setTd a.toNat 0)).finish)

end Sys2Proof.Machine
end

