-- ==== Sys2Proof/Machine/Gaussian.lean ====
section
/-! DEFINITION. The Gaussian unit: its arithmetic (R204 to R208), GAUSSIAN_COMMAND_START (R203), PIVOT_VERDICT (R209) and GAUSSIAN_COMPLETE. -/

namespace Sys2Proof.Machine

/-! ### Blocks (R201) -/

/-- Words of a block of dimension n. -/
def blockWords (n : Nat) : Nat := n + n * (n + 1) / 2
/-- The F32 words of `n` words at an address. -/
def Core.words32 (c : Core) (a n : Nat) : List Nat := (List.range n).map (fun i => mnat c.lmem (a + 4 * i) 4)
def bytes32 (ws : List Nat) : List Byte := ws.flatMap (leBytes 4)

/-- Every NaN as the canonical one (R204). -/
def canon (v : Nat) : Nat := if (f32 v).isNan then fF32.nan else v
/-- d is NaN or at most τ; with τ a NaN only NaN pivots fail (R207, R222). -/
def pivotFails (d tau : Nat) : Bool := (f32 d).isNan || (f32 d).lt (f32 tau) || (f32 d).eq (f32 tau)

/-- β of R205 from a byte. -/
def betaOf (b : Nat) : Num := .fin false (b % 256) (-8)
/-- GDAMP of one word: comp + β·(old − comp), one rounding after that of the difference. With β = 0 and comp −0 the formula's FMA gives +0
for a positive difference, where the rule's prose says that comp is returned exactly: the model takes the formula (DESIGN CHOICE, log entry 80). -/
def damp1 (b comp old : Nat) : Nat := toF32 (((betaOf b).mul (f32 (f32sub old comp))).add (f32 comp))
def dampWords (b : Nat) (comp old : List Nat) : List Nat := comp.zipWith (damp1 b) old

/-- The residual of R206. -/
def residual (xs ys : List Nat) : Nat :=
  (xs.zipWith (fun x y => f32sub x y) ys).foldl (fun r v =>
    let m := toF32 (f32 v).abs
    if (f32 r).isNan || (f32 m).isNan then fF32.nan else if (f32 r).lt (f32 m) then m else r) 0

/-! ### Elimination (R207, R208) -/

/-- η and the lower triangle of Λ by rows. -/
structure Joint where
  eta : List Nat
  lam : List (List Nat)
  deriving DecidableEq, Repr

def Joint.at (m : Joint) (i j : Nat) : Nat := (m.lam.getD i []).getD j 0

/-- A block as it is read. -/
def jointOf (n : Nat) (ws : List Nat) : Joint :=
  ⟨ws.take n, (List.range n).map (fun i => (ws.drop (n + i * (i + 1) / 2)).take (i + 1))⟩
def Joint.words (m : Joint) (k : Nat) : List Nat := m.eta.take k ++ (m.lam.take k).flatten

/-- The factors of pivot step j. -/
def Joint.factors (m : Joint) (j : Nat) : List Nat := (List.range j).map (fun i => f32div (m.at j i) (m.at j j))

/-- Pivot step j on the rows before it. -/
def Joint.step (m : Joint) (j : Nat) : Joint :=
  let f := m.factors j
  let ej := m.eta.getD j 0
  { eta := (List.range j).map (fun i => f32fnma (f.getD i 0) ej (m.eta.getD i 0))
    lam := (List.range j).map (fun i => (List.range (i + 1)).map (fun l => f32fnma (f.getD i 0) (m.at j l) (m.at i l))) }

/-- What elimination reaches: the block left, or the pivot that fails with its index; and for GMEAN d, η and the factors of every step. -/
structure Elim where
  left : Joint
  fail : Option (Nat × Nat)
  steps : List (Nat × Nat × List Nat)
  deriving DecidableEq, Repr

/-- Eliminates the indices from `j − 1` down to `k`, `cnt` of them. -/
def elimGo (tau : Nat) : Nat → Nat → Elim → Elim
  | 0, _, e => e
  | cnt + 1, j, e =>
    let d := e.left.at (j - 1) (j - 1)
    if pivotFails d tau then { e with fail := some (d, j - 1) }
    else elimGo tau cnt (j - 1) ⟨e.left.step (j - 1), none, (d, e.left.eta.getD (j - 1) 0, e.left.factors (j - 1)) :: e.steps⟩

/-- GELIM (R207). -/
def gelim (tau k e : Nat) (ws : List Nat) : Elim := elimGo tau e (k + e) ⟨jointOf (k + e) ws, none, []⟩

/-- The substitution of GMEAN (R208); `steps` run from index 0 up. -/
def substitute : List (Nat × Nat × List Nat) → List Nat → List Nat
  | [], mu => mu
  | (d, eta, f) :: r, mu =>
    let t := (List.range mu.length).foldl (fun t i => f32fnma (f.getD i 0) (mu.getD i 0) t) (f32div eta d)
    substitute r (mu ++ [t])

/-! ### Commands -/

/-- The dimension of a Gaussian word's first source. -/
def gauDim : Instr → Nat
  | .gacc _ _ _ n _ _ | .gsub _ _ _ n _ _ | .gdamp _ _ _ n _ _ => n.toNat + 1
  | .gelim _ _ k e _ _ => k.toNat + e.toNat + 2
  | .gmean _ _ n _ _ | .gresid _ _ n _ _ | .greg _ _ n _ _ | .gcopy _ _ n _ _ => n.toNat + 1
  | .gsend _ n _ _ => n.toNat + 1
  | _ => 1

/-- A failing pivot's trap (R209), with the bits of d as the unit has it (DEDUCED, log entry 97). -/
def singular (f : Nat × Nat) : BitVec 8 × Word := (singularBlock, word (f.1 * 2 ^ 32 + f.2 % 16))

/-- The message header GSEND sends (R211): dim from ndim, lbk 0. -/
def gsendHeader (n : Nat) (lo hi : Word) : BitVec 128 :=
  hi ++ word (bits lo 0 40 + bits lo 41 6 * 2 ^ 41 + n * 2 ^ 47 + bits lo 51 13 * 2 ^ 51)

/-- What a Gaussian command computes from the core as it starts, with the QS entries it takes. Phase 2 awaits a verdict. -/
def Core.gauCompute (c : Core) (q : Cmd) (es : List Word) : Started :=
  let r := q.begin
  let n := gauDim q.instr
  let w := blockWords n
  let p (i : Nat) : Nat := q.ptr.getD i 0
  let bad (a m : Nat) : Bool := c.poisoned a m
  let put (a : Nat) (ws : List Nat) : List (Nat × List Byte) := [(a, bytes32 ws)]
  let failed (r : Started) : Started := { r with fault := some uncorrectable }
  let tau := q.gthr.toNat
  let e := (es.headD 0)
  match q.instr with
  | .gacc .. | .gsub .. | .gdamp .. =>
    if bad (p 1) (4 * w) || bad (p 2) (4 * w) then failed r
    else
      let xs := c.words32 (p 1) w
      let ys := c.words32 (p 2) w
      { r with writes := put (p 0) (match q.instr with
          | .gacc .. => xs.zipWith f32add ys
          | .gsub .. => xs.zipWith f32sub ys
          | _ => dampWords (bits e 0 8) xs ys) }
  | .gcopy .. => if bad (p 1) (4 * w) then failed r else { r with writes := put (p 0) (c.words32 (p 1) w) }
  | .greg .. =>
    if bad (p 1) (4 * w) then failed r
    else
      let diag := (List.range n).map (fun i => n + i * (i + 1) / 2 + i)
      let xs := c.words32 (p 1) w
      { r with writes := put (p 0) ((List.range w).map (fun j => if diag.contains j then f32add (xs.getD j 0) (bits e 0 32) else canon (xs.getD j 0))) }
  | .gresid .. =>
    -- pa and pb stand first, since the word names no destination
    if bad (p 0) (4 * w) || bad (p 1) (4 * w) then failed r
    else { r with qw := some (word (residual (c.words32 (p 0) w) (c.words32 (p 1) w)), false) }
  | .gelim _ _ k e _ _ =>
    if bad (p 1) (4 * w) then failed { r with phase := 2 }
    else
      let o := gelim tau (k.toNat + 1) (e.toNat + 1) (c.words32 (p 1) w)
      match o.fail with
      | some f => { r with phase := 2, verdict := some (singular f) }
      | none => { r with phase := 2, writes := put (p 0) (o.left.words (k.toNat + 1)) }
  | .gmean .. =>
    if bad (p 1) (4 * w) then failed { r with phase := 2 }
    else
      let o := gelim tau 0 n (c.words32 (p 1) w)
      match o.fail with
      | some f => { r with phase := 2, verdict := some (singular f) }
      | none => { r with phase := 2, writes := put (p 0) (substitute o.steps []) }
  | .gsend .. =>
    let hd := es.getD 1 0
    let wf := bits hd 51 5
    if (destOf e).isNone || bits hd 20 19 ≠ 0 then { r with fault := some illegalOp }
    else if !wireFloat wf then { r with fault := some illegalFormat }
    else if bad (p 0) (4 * w) then failed r
    else { r with writes := [], verdict := none }
  | _ => r

/-- The granules that a Gaussian command reads. -/
def gauNeeds (q : Cmd) : List Nat := (((ptrUses q.instr).zip q.ptr).filter (fun u => !u.1.wr)).flatMap (fun u => granules u.2 u.1.len)

/-- A read grant (R203); with the last one the unit has every operand word and computes. -/
def State.gauRead (s : State) (k : Nat) (r : Started) (want : Option Nat) : State :=
  let q := r.cmd
  let n := (s.core k).readNext r (gauNeeds q) want
  let c := n.1
  let r1 := n.2
  if (gauNeeds q).all r1.got.contains then
    let c1 := c.seen r1
    -- a message keeps its entries and its block as they were read
    let q1 : Cmd := match q.instr with
      | .gsend .. => { q with vals := q.vals ++ ((c1.words32 (q.ptr.headD 0) (blockWords (gauDim q.instr))).map word) }
      | _ => q
    s.setCore k (c.setRun .gau (some { (c1.gauCompute q q.vals).cut with cmd := q1 }))
  else s.setCore k (c.setRun .gau (some { r1 with phase := 0 }))

/-- The Gaussian unit takes a command, or reads the granule `want` for the one that it has taken (R203). -/
def State.gauStart (s : State) (core : Nat) (want : Option Nat) : State :=
  match (s.core core).gau.run with
  | some r => if r.phase = 0 && s.works core then s.gauRead core r want else s
  | none => s.startNext core .gau fun q s => s.gauRead core q.begin want

/-- GAUSSIAN_COMMAND_START (R203): the unit takes a command with its QS entries and reads every operand, a granule at a time. -/
def execGaussianCommandStart (core : Nat) (s : State) : Res := .next (s.gauStart core none)

/-- The context that issued an unguarded command waits for its verdict (R209, R258): neither a guard nor the sequencer stands between. -/
def Cmd.waited (q : Cmd) : Bool := q.seq.isNone && verdictKind q.instr && guardOf q.instr == 0

/-- Reports a verdict to the context that waits for it; a pass arms the token. -/
def State.verdictTo (s : State) (k : Nat) (q : Cmd) (v : Option (BitVec 8 × Word)) : State :=
  let h := s.ctx k q.ctx
  if !(s.core k).live q.ctx then s
  else
    match v with
    | some f => s.setCtx k q.ctx { h with acc := some ⟨phVerdict, q.uid, some ⟨f.2.toNat, false, some f.1⟩⟩ }
    | none =>
      let h1 := match tokOf q.instr with | some t => h.setTok t (h.tok t).arm | none => h
      s.setCtx k q.ctx { h1 with acc := some ⟨phVerdict, q.uid, some ⟨0, false, none⟩⟩ }

/-- A verdict of a started command (R209, R258): on a failure it ends without effect. -/
def State.decide (s : State) (k : Nat) (e : Eng) (r : Started) : State :=
  let q := r.cmd
  match r.verdict with
  | some f =>
    let s1 := s.setCore k (((s.core k).setRun e none).undrain q)
    if q.waited then s1.verdictTo k q (some f) else s1.settle k q.ctx (tokOf q.instr) (.faulted f.1)
  | none =>
    let s1 := s.setCore k ((s.core k).setRun e (some { r with phase := 1 }))
    if q.waited then s1.verdictTo k q none else s1

/-- PIVOT_VERDICT (R209). -/
def execPivotVerdict (core : Nat) (s : State) : Res :=
  .next (
    match (s.core core).gau.run with
    | some r => if r.phase = 2 then s.decide core .gau r else s
    | none => s)

/-- The Gaussian unit's command writes granule `want` of its result; with the last one, or with the QW entry, it has completed. A write that
covers part of a poisoned word fails it (R150). GSEND's message leaves, unless the core is fenced (R323), and its token waits for the receiver
(R211). -/
def State.gauWrite (s : State) (core : Nat) (want : Option Nat) : State :=
  let c := s.core core
  match c.gau.run with
  | none => s
  | some r =>
    let q := r.cmd
    let fails (cause : BitVec 8) : State := (s.setCore core ((c.setRun .gau none).unclaim q)).endCmd core q (.faulted cause)
    if r.phase ≠ 1 then s
    else
      match r.fault with
      | some cause => fails cause
      | none =>
        match q.instr with
        | .gsend .. =>
          if !s.works core then s else
          let n := gauDim q.instr
          let hd := gsendHeader n (q.vals.getD 1 0) (q.vals.getD 2 0)
          let wf := bits (q.vals.getD 1 0) 51 5
          let t := (tokOf q.instr).getD 0
          let s1 := (s.setCore core (c.setRun .gau none)).addOut core { outOn q.uid q.ctx t with wide := true }
          s1.sendBefore core q.level ((destOf (q.vals.headD 0)).getD ⟨0, none⟩) 2 q.uid
            (.mail q.uid wf hd ((q.vals.drop 3).map (fun v => wireWord wf (bits v 0 32))) false)
        | _ =>
          if c.grantFails r (r.nextGranule want) then fails uncorrectable
          else
            let g := c.grant r want
            if !g.2.writes.isEmpty then s.setCore core (g.1.setRun .gau (some g.2)) else
            let c1 := g.1.setRun .gau none
            (s.setCore core (match r.qw with | some v => c1.deliver q v | none => c1)).endCmd core q .ok

/-- GAUSSIAN_COMPLETE (R203, R211): a granule of the result is written, and the command completes with the last one. -/
def execGaussianComplete (core : Nat) (s : State) : Res := .next (s.gauWrite core none)

end Sys2Proof.Machine
end

