-- ==== Sys2Proof/Machine/Post.lean ====
section
/-! DEFINITION. Upcalls on their way (R82, R91, R353), a territory's faults (R270, R356), posting a record (R271, R354), POST and TKEY
(R281), and POST_RECORD_ARRIVAL. -/

namespace Sys2Proof.Machine

/-! ### Writes of the units in global memory -/

/-- A unit of territory `t` writes global memory, under the key that the address has for it (R357). -/
def State.gwrite (s : State) (t a : Nat) (bs : List Byte) : State := s.gput (s.keyOf t a) a bs

/-! ### Upcalls -/

/-- The entry of a cause in a territory's upcall table (R82). -/
def Terr.upcallEntry (t : Terr) (cause : BitVec 8) : Option Nat := kget t.upcalls cause.toNat

/-- An upcall bound for context 0 of core `k` (R82, R91, R353): queued, held by its sender when the queue is full, or, with no entry, sent to
the loader as a kind 8 message or discarded (Table 4.8). -/
def State.upcall (s : State) (k : Nat) (cause : BitVec 8) (eval : Word) : State :=
  match (s.terr (s.terrOf k)).upcallEntry cause with
  | none => if cause = gainCause ∨ cause = queuePending then s.report k 0 0 cause.toNat 8 0 0 eval else s
  | some _ =>
    let c := s.core k
    if c.upq.length < 8 ∧ !s.heldUpcalls.any (fun h => h.core == k) then s.setCore k { c with upq := c.upq ++ [(cause, eval)] }
    else { s with heldUpcalls := s.heldUpcalls ++ [⟨k, cause, eval⟩] }

/-- Sets the event bit of a context, if it is live. -/
def State.wake (s : State) (k x : Nat) : State := if (s.core k).live x then s.setCtx k x { s.ctx k x with event := true } else s

/-! ### The territory's fault ring (R356) -/

/-- Appends an entry: 64 record bytes and a 32-byte message. A territory without a ring keeps none. The mooring core's context 0 and the die
supervisor's have their event bits set (R270, R356). -/
def State.faultRing (s : State) (t : Nat) (rec_ msg : List Byte) : State :=
  let w := (s.terr t).win
  let lg := bits w.tfring 40 4
  let tail := bits w.tfring 44 12
  let head := bits w.tfhead 0 12
  let k := s.moorCore t
  let s1 : State :=
    if lg < 3 ∨ 12 < lg then s
    else
      let full : Bool := 2 ^ lg ≤ (tail + 4096 - head) % 4096
      let lost := bits w.tfring 56 8 + ofBool full
      let w1 := word (bits w.tfring 0 44 + (tail + 1) % 4096 * 2 ^ 44 + lost % 256 * 2 ^ 56)
      (s.gwrite t (128 * bits w.tfring 7 33 + 128 * (tail % 2 ^ lg)) (rec_ ++ msg ++ leBytes 32 0)).setTerr t
        { s.terr t with win := { w with tfring := w1 } }
  if t = 0 then s else (s1.wake k 0).wake (supOf (dieOf k)) 0

/-- A task fault (R270): the record, the cause, and the helper that ran it, if one did, with its EVAL. -/
def State.taskFault (s : State) (t : Nat) (rec_ : List Byte) (cause : BitVec 8) (helper : Option (Nat × Nat)) (eval : Word) : State :=
  let k := match helper with | some h => h.1 | none => s.moorCore t
  let x := match helper with | some h => h.2 | none => 0
  s.faultRing t rec_ (faultBytes (s.timeFor t) 1 t 0 cause.toNat 0 x k 0 eval)

/-! ### CRC-32 (R78) and records -/

/-- One bit of the reflected polynomial 0x04C11DB7. -/
def crcBit (v : Nat) : Nat := if v % 2 = 1 then (v / 2) ^^^ 0xEDB88320 else v / 2
def crcByte (v : Nat) (b : Byte) : Nat := crcBit (crcBit (crcBit (crcBit (crcBit (crcBit (crcBit (crcBit (v ^^^ b.toNat))))))))
def crc32 (bs : List Byte) : Nat := (bs.foldl crcByte 0xFFFFFFFF) ^^^ 0xFFFFFFFF

/-- A field of a record (Table 15.1). -/
def recField (r : List Byte) (lo n : Nat) : Nat := leNat ((r.drop lo).take n)
def recKey (r : List Byte) : Nat := recField r 0 4
def recEntry (r : List Byte) : Nat := recField r 4 4
def recCtl (r : List Byte) : Nat := recField r 56 1
def recGset (r : List Byte) : Nat := recField r 57 1
def recQueue (r : List Byte) : Nat := recField r 58 2
def recPaired (r : List Byte) : Bool := recCtl r / 8 % 2 == 1
def recBarrier (r : List Byte) : Bool := recCtl r / 16 % 2 == 1
def recClass (r : List Byte) : Nat := recCtl r % 8
/-- A record with its CRC rewritten. -/
def recSeal (r : List Byte) : List Byte := r.take 60 ++ leBytes 4 (crc32 (r.take 60))

/-! ### Queues (R271, R354) -/

/-- The first failing check of Table 15.2. -/
def recCheck (r : List Byte) : Option (BitVec 8) :=
  if recField r 60 4 ≠ crc32 (r.take 60) then some taskCrc
  else if recCtl r / 128 = 1 ∨ recGset r / 16 ≠ 0 ∨ 2 ≤ recCtl r / 32 % 4 then some illegalOp
  else if recEntry r % 4 ≠ 0 then some misaligned
  else if 0x8000 ≤ recEntry r then some localBounds
  else none

/-- Inserts a record at its key, in posting order among equal keys. -/
def insertRec (r : Record) : List Record → List Record
  | [] => [r]
  | o :: os => if recKey o.bytes < recKey r.bytes || (recKey o.bytes == recKey r.bytes && o.id < r.id) then o :: insertRec r os else r :: o :: os

def State.setSlot (s : State) (t j : Nat) (q : QSlot) : State := s.setTerr t { s.terr t with slots := kput (s.terr t).slots j q }
def State.slot (s : State) (t j : Nat) : QSlot := (kget (s.terr t).slots j).getD ⟨false, 0, 0, [], 0⟩

/-- A slot's records change. The time its head became head is kept while the head stays (R272); a record that becomes head is checked, and one
that fails leaves its queue and is faulted to the territory (R270). -/
def State.setRecs (s : State) (t j : Nat) : List Record → State
  | [] => s.setSlot t j { s.slot t j with recs := [], headSince := s.now }
  | r :: rs =>
    let q := s.slot t j
    if q.recs.head?.map (·.id) = some r.id then s.setSlot t j { q with recs := r :: rs }
    else
      match recCheck r.bytes with
      | none => s.setSlot t j { q with recs := r :: rs, headSince := s.now }
      | some c => (s.taskFault t r.bytes c none 0).setRecs t j rs

/-- Records of a queue that a dispatcher has chosen and that may still go back to it (R273): they keep their room. -/
def Terr.chosenOf (t : Terr) (q : Nat) : Nat := (t.chosen.filter (fun c => recQueue c.rec_.bytes == q)).length

/-- Messages that are being written into mailboxes and will post to a queue of a territory (R213): their records have room there. -/
def State.landingsOf (s : State) (t q : Nat) : Nat :=
  (s.cores.filter (fun e => e.2.rx.landing.any (fun l => l.pend && recQueue l.rec_ == q) && s.terrOf e.1 == t)).length

/-- Appends a record to the ring of a queue that no slot maps (R354): none when it is full. When it was posted, and its pin core, stay known
(R215, R271). -/
def State.ringPost (s : State) (t q : Nat) (bytes : List Byte) (at_ : Nat) (pin : Option Nat) : Option State :=
  let v := s.qcb t q
  if 2 ^ qcbLg v ≤ qcbHeld v + s.landingsOf t q then none
  else
    let s0 := s.setTerr t { s.terr t with ring := kput (s.terr t).ring (65536 * q + qcbTail v) (at_, pin) }
    let s1 := s0.gwrite t (qcbRing v + 64 * (qcbTail v % 2 ^ qcbLg v)) bytes
    let s2 := s1.gwrite t (s.qcbAt t q) (leBytes 16 (qcbWith v (qcbHead v) (qcbTail v + 1) true))
    some (if qcbPend v then s2 else s2.upcall (s.moorCore t) queuePending (word q))

/-- Posts a record to its queue: the status of POST (R281). -/
def State.postRecord (s : State) (t : Nat) (bytes : List Byte) (pin : Option Nat) : State × Nat :=
  let q := recQueue bytes
  if s.qcount t ≤ q then (s, 3)
  else
    match (s.terr t).slotOf q with
    | some j =>
      let rs := (s.slot t j).recs
      if 1024 ≤ rs.length + (s.terr t).chosenOf q + s.landingsOf t q then (s, 2)
      else (s.bump.setRecs t j (insertRec ⟨bytes, s.now, pin, s.uid⟩ rs), 0)
    | none =>
      match s.ringPost t q bytes s.now pin with
      | some s1 => (s1, 1)
      | none => (s, 2)

/-! ### POST and TKEY (R281) -/

/-- A record awaits its answer. -/
def phPost : Nat := 9

/-- POST (R281). -/
def execPost (d a : Reg) (s : State) : Res :=
  let i : Instr := .post d a
  .next (s.issueLocal i .u [a] (fun c => [(c.reg a).toNat]) fun s => s.withRegs i [a] fun s =>
    match s.cx.acc with
    | some ⟨9, _, some r⟩ => match r.cause with | some c => s.trap c (wordOf i) | none => s.done d (word r.val)
    | some ⟨9, _, none⟩ => s.park .unit
    | _ =>
      let p := (s.cx.reg a).toNat
      s.localAccess p 64 64 false fun s =>
        s.fenceRel 2 (fun _ => true) fun s =>
          let k := s.cur.1
          let s1 := s.bump.send { src := .core k, dst := .terr (s.terrOf k), vc := 0, terr := s.tagOf k, fab := none, sentAt := s.now,
                                  body := .record k s.cur.2 s.uid (s.me.lread p 64) }
          (s1.setAcc (some ⟨phPost, s.uid, none⟩)).park .unit)

/-- POST_RECORD_ARRIVAL (R271, R354): the mooring cluster takes a record, and its answer reaches the poster. -/
def execPostRecordArrival (k : Nat) (s : State) : Res :=
  .next (
    match s.arriving k with
    | some m =>
      match m.dst, m.body with
      | .terr t, .record q x uid bytes =>
        let r := (s.remove k).postRecord t bytes none
        let s1 := r.1
        if (s1.core q).live x then
          let h := s1.ctx q x
          match h.acc with
          | some ⟨9, u, none⟩ => if u = uid then s1.setCtx q x { h with acc := some ⟨phPost, u, some ⟨r.2, false, none⟩⟩ } else s1
          | _ => s1
        else s1
      | _, _ => s
    | none => s)

/-- The key that TKEY writes. -/
def taskKeyOf (res : Bool) (v : BitVec 32) : BitVec 32 :=
  if res then
    let n : BitVec 32 := if (fF32.dec v.toNat).isNan then 0x7FC00000 else v
    0xFFFFFFFF - (n &&& 0x7FFFFFFF)
  else v

/-- TKEY (R281). -/
def execTkey (d a : Reg) (r : Bool) (s : State) : Res :=
  let i : Instr := .tkey d a r
  .next (s.issueLocal i .u [d] (fun c => [(c.reg d).toNat]) fun s => s.withRegs i [d, a] fun s =>
    let p := (s.cx.reg d).toNat
    s.localAccess p 64 64 false fun s =>
      let key := taskKeyOf r ((s.cx.reg a).truncate 32)
      let c := s.me.lwrite p (leBytes 4 key.toNat)
      (s.setMe (c.lwrite (p + 60) (leBytes 4 (crc32 (c.lread p 60))))).finish)

end Sys2Proof.Machine
end

