-- ==== Sys2Proof/Machine/Mailbox.lean ====
section
/-! DEFINITION. Mailboxes (R212 to R215): MBPOP, MBPOP_SPILL, MBPEEK, MBCNT and LBK (R216); MESSAGE_ARRIVAL, HELD_MESSAGE_RETRY (R217),
BALLONET_WAKE (R219) and MAILBOX_POST_RETRY (R271). -/

namespace Sys2Proof.Machine

/-! ### Descriptors (Table 10.5) -/

abbrev MBox := BitVec 512
def MBox.f (d : MBox) (lo n : Nat) : Nat := d.toNat / 2 ^ lo % 2 ^ n
def MBox.put (d : MBox) (lo n v : Nat) : MBox :=
  BitVec.ofNat 512 (d.toNat - (d.toNat / 2 ^ lo % 2 ^ n) * 2 ^ lo + v % 2 ^ n * 2 ^ lo)
def MBox.slots (d : MBox) : Nat := d.f 208 7
def MBox.dim (d : MBox) : Nat := d.f 215 4
def MBox.wfmt (d : MBox) : Nat := d.f 219 5
def MBox.tail (d : MBox) : Nat := d.f 224 6
def MBox.head (d : MBox) : Nat := d.f 230 6
def MBox.ring (d : MBox) : Nat := d.f 236 20
def MBox.bar (d : MBox) : Nat := 16 * d.f 256 16
def MBox.task (d : MBox) : Nat := d.f 272 16
def MBox.narr (d : MBox) : Nat := d.f 288 32
def MBox.thresh (d : MBox) : Nat := d.f 352 32
def MBox.edge (d : MBox) : Bool := d.f 207 1 == 1
def MBox.isOpen (d : MBox) : Bool := d.f 206 1 == 1
def MBox.pend (d : MBox) : Bool := d.f 205 1 == 1
def MBox.spl (d : MBox) : Bool := d.f 204 1 == 1
def MBox.valid (d : MBox) (s : Nat) : Bool := d.f (384 + s) 1 == 1
def MBox.fresh (d : MBox) (s : Nat) : Bool := d.f (448 + s) 1 == 1
/-- Slots that the hardware looks at. -/
def MBox.used (d : MBox) : List Nat := List.range (min d.slots 64)
def MBox.freshCount (d : MBox) : Nat := (d.used.filter d.fresh).length
def MBox.slotAt (d : MBox) (s : Nat) : Nat := d.ring + 208 * s

/-- A descriptor as hardware reads and writes it: its reserved bits are 0 (R4, Table 10.5). -/
def Core.mbox (c : Core) (a : Nat) : MBox := MBox.put (BitVec.ofNat 512 (mnat c.lmem a 64)) 192 12 0
def Core.setMbox (c : Core) (a : Nat) (d : MBox) : Core := c.lwrite a (leBytes 64 d.toNat)

/-- A descriptor whose fields are malformed (R214). -/
def Core.mboxMalformed (c : Core) (d : MBox) : Bool :=
  d.slots == 0 || 64 < d.slots || d.dim == 0 || 8 < d.dim || !wireFloat d.wfmt
    || (!d.edge && (d.slots ≤ d.head || d.slots ≤ d.tail)) || d.ring % 16 != 0
    || c.stashBase < d.ring + 208 * d.slots || inImage d.ring (208 * d.slots)

/-- A descriptor address that an arrival can name (R214). -/
def Core.mboxAt (c : Core) (a : Nat) : Bool := a % 64 == 0 && a + 64 ≤ c.stashBase && !inImage a 64

/-! ### A message (Table 10.4) -/

def MailMsg.f (m : MailMsg) (lo n : Nat) : Nat := m.hdr.toNat / 2 ^ lo % 2 ^ n
def MailMsg.box (m : MailMsg) : Nat := m.f 0 20
def MailMsg.nopost (m : MailMsg) : Bool := m.f 39 1 == 1
def MailMsg.slot (m : MailMsg) : Nat := m.f 41 6
def MailMsg.dim (m : MailMsg) : Nat := m.f 47 4
def MailMsg.hdrWf (m : MailMsg) : Nat := m.f 51 5
def MailMsg.damp (m : MailMsg) : Nat := m.f 56 8
/-- The block's bytes in a slot, and the zero bytes after them. -/
def slotBlock (ws : List Nat) : List Byte := let b := bytes32 ws; b ++ leBytes (176 - b.length) 0

/-- What an arrival comes to (R213, R217, R271). -/
inductive Arrived where
  | refused (cause : BitVec 8)
  | full
  /-- It would need a fifth held posting. -/
  | waits
  /-- It is accepted, and is to be written. -/
  | lands (l : Landing)

/-- The record that a mailbox posts (R215). -/
def mailRecord (tmpl : List Byte) (r k slot box : Nat) : List Byte :=
  recSeal (leBytes 4 (0xFFFFFFFF - r) ++ (tmpl.drop 4).take 4 ++ leBytes 8 (box + slot * 2 ^ 24 + k * 2 ^ 32) ++ (tmpl.drop 16).take 44)

/-- The record that an arrival posts, and whether it can be posted (R215): not without its template, nor to a queue that does not exist. -/
def State.mailRec (s : State) (k r slot box task : Nat) : List Byte × Bool :=
  let t := s.terrOf k
  match (s.terr t).templates[task]? with
  | none => (leBytes 64 0, false)
  | some tmpl => (mailRecord tmpl r k slot box, recQueue (mailRecord tmpl r k slot box) < s.qcount t)

/-- Posts the record of a mailbox of core `k`; one whose queue is full is held there (R271). -/
def State.postOrHold (s : State) (k box : Nat) (rec_ : List Byte) : State :=
  let o := s.postRecord (s.terrOf k) rec_ (some k)
  if o.2 ≠ 2 then o.1
  else s.setCore k { s.core k with rx := { (s.core k).rx with postings := (s.core k).rx.postings ++ [(box, rec_)] } }
/-- A record has room in its queue, or among the four that its core holds (R271). -/
def State.mailRoom (s : State) (k : Nat) (rec_ : List Byte) : Bool :=
  (s.postRecord (s.terrOf k) rec_ (some k)).2 != 2 || (s.core k).rx.postings.length < 4

/-- The first steps of arrive(m) of R213 at core `k`: the refusals, and what is to be written where. Block words beyond those of its dimension
count for nothing (DESIGN CHOICE, log entry 83). -/
def State.arrive (s : State) (k : Nat) (m : MailMsg) (lbk : Option Nat) : Arrived :=
  let c := s.core k
  let a := m.box
  if !c.mboxAt a then .refused localBounds
  else if c.poisoned a 64 then .refused uncorrectable
  else
    let d := c.mbox a
    if c.mboxMalformed d then .refused localBounds
    else if !d.isOpen || (d.edge && d.slots ≤ m.slot) then .refused localBounds
    else if m.dim ≠ d.dim || m.hdrWf ≠ d.wfmt || m.wf ≠ m.hdrWf || m.blk.length < blockWords d.dim then .refused illegalFormat
    else
      let sl := if d.edge then m.slot else d.tail
      if !d.edge && d.fresh sl then .full
      else
        let p := d.slotAt sl
        let w := blockWords d.dim
        if d.valid sl && c.poisoned (p + 16) (4 * w) then .refused uncorrectable
        else
          let old := c.words32 (p + 16) w
          let new0 := m.blk.take w
          let new := if d.valid sl && m.damp ≠ 0 then dampWords m.damp new0 old else new0
          let r := if d.valid sl then residual new old else 0x7F800000
          let narr := (d.narr + 1) % 2 ^ 32
          let bytes := leBytes 16 m.hdr.toNat ++ slotBlock new ++ leBytes 4 r ++ leBytes 4 narr ++ leBytes 8 (s.timeFor (s.terrOf k)).toNat
          let posts := d.task ≠ 0xFFFF && !m.nopost && !d.pend && ((f32 r).isNan || (f32 d.thresh).lt (f32 r))
          let pr := s.mailRec k r sl a d.task
          if posts && pr.2 && !s.mailRoom k pr.1 then .waits
          else
            .lands { msg := m, lbk := lbk, slot := sl, todo := cutAt64 (p, bytes), res := r, narr := narr, posts := posts, stage := 0,
                     bad := if m.bad then wordsOf (p + 16) (4 * w) else [], rec_ := pr.1, pend := posts && pr.2 }

/-- The next step of a message that is being written at core `k` (R213): a granule of its slot, traced where another core sent it (R302); its
descriptor, in one grant (R212); its count, which is left out at a poisoned object (DESIGN CHOICE, log entry 82); its posting, which has kept its
room. -/
def State.landOn (s : State) (k : Nat) (l : Landing) : State :=
  let c := s.core k
  let a := l.msg.box
  let d := c.mbox a
  let set (c : Core) (l : Option Landing) : Core := { c with rx := { c.rx with landing := l } }
  match l.todo with
  | (p, bs) :: rest =>
    let c1 := (c.lwrite p bs).poison (l.bad.filter (fun w => p ≤ 8 * w + 7 && 8 * w < p + bs.length))
    let s1 := s.setCore k (set c1 (some { l with todo := rest }))
    if l.lbk.isSome then s1
    else s1.trace k l.msg.src 2 p bs.length (match l.msg.port with | some _ => some ⟨l.msg.pkg, l.msg.src, k, 0⟩ | none => none)
  | [] =>
    if l.stage = 0 then
      let d1 := (((d.put (384 + l.slot) 1 1).put (448 + l.slot) 1 1).put 288 32 l.narr).put 320 32 l.res
      let d2 := if d.edge then d1 else d1.put 224 6 ((l.slot + 1) % d.slots)
      s.setCore k (set (c.setMbox a (if l.pend then d2.put 205 1 1 else d2)) (some { l with stage := 1 }))
    else if l.stage = 1 then
      s.setCore k (set (if d.bar = 0 then c else c.countAt (some d.bar) 208) (if l.posts then some { l with stage := 2 } else none))
    else
      let s1 := s.setCore k (set c none)
      if l.pend then s1.postOrHold k a l.rec_ else s1.taskFault (s.terrOf k) l.rec_ localBounds none 0

/-- A message of a mailbox is being written: the mailbox's words and its other messages wait (R213). -/
def Core.lands (c : Core) (a : Nat) : Bool := c.rx.landing.any (fun l => l.msg.box == a)

/-! ### Arrivals -/

/-- A message as it came. -/
def Msg.mail? (m : Msg) : Option MailMsg :=
  match m.body with
  | .mail uid wf hdr blk bad =>
    some { hdr := hdr, wf := wf, blk := blk, bad := bad, src := m.sender, uid := uid
           port := (match m.src with | .port p => some p | _ => none), pkg := (match m.fab with | some f => f.pkg | none => 0) }
  | _ => none

/-- Answers the sender of a message. -/
def State.mailAnswer (s : State) (q : Nat) (m : MailMsg) (b : Body) : State :=
  s.send { src := .core q, dst := (match m.port with | some p => .port p | none => .core m.src), vc := 1, terr := none, fab := none,
           body := b, sentAt := s.now }

/-- A spilled message in slot layout; what its last 16 bytes hold is open. -/
def spillBytes (free : Nat) (m : MailMsg) : List Byte :=
  leBytes 16 m.hdr.toNat ++ slotBlock (m.blk.take (blockWords m.dim)) ++ (List.range 16).map (fun i => Config.freeByte (free + i))

/-- A message at the network interface (R213, R217); none when it must be held. One that is accepted begins to be written, and is answered when
all of it is done. The spill latch keeps no poison (DESIGN CHOICE, log entry 83). -/
def State.mailIn (s : State) (q : Nat) (m : MailMsg) : Option State :=
  match s.arrive q m none with
  | .refused cause => some (s.mailAnswer q m (.nak m.src m.uid cause))
  | .lands l => some (s.setCore q { s.core q with rx := { (s.core q).rx with landing := some l } })
  | .waits => none
  | .full =>
    let c := s.core q
    if c.rx.spill.isNone && wbit c.spr.blnvec 0 then
      some (({ s.setCore q { c with rx := { c.rx with spill := some (m.box, spillBytes s.free m), wake := true } } with free := s.free + 16 }).mailAnswer q m (.ack m.src m.uid))
    else none

/-- MESSAGE_ARRIVAL (R213): a message that comes is refused, held, or begins to be written, which the further steps of the core do
(`HELD_MESSAGE_RETRY`); the data channel waits behind it. -/
def execMessageArrival (k : Nat) (s : State) : Res :=
  .next (
    match s.arriving k with
    | some m =>
      match m.dst, m.mail? with
      | .core q, some v =>
        if s.blocked m q || (s.core q).rx.landing.isSome then s
        else
          match s.refusal m q with
          | some cause => (s.remove k).refuse m v.uid cause
          | none =>
            match (s.remove k).mailIn q v with
            | some s1 => s1
            | none => (s.remove k).setCore q { s.core q with rx := { (s.core q).rx with held := (s.core q).rx.held ++ [v] } }
      | _, _ => s
    | none => s)

/-- The record that a context replays is written by steps of its LBK, as long as it waits there. -/
def Core.replays (c : Core) (l : Landing) : Bool := l.lbk.any (fun x => c.live x && (c.ctx x).acc.any (fun a => a.phase == 13))

/-- HELD_MESSAGE_RETRY (R213, R217, R271): a step of the message that is being written, which is answered with the last one, whether the core is
fenced meanwhile or not; else the held message is processed again. -/
def execHeldMessageRetry (core : Nat) (s : State) : Res :=
  let c := s.core core
  .next (
    match c.rx.landing with
    | some l =>
      if c.replays l then s
      else
        let s1 := s.landOn core l
        if (s1.core core).rx.landing.isSome || l.lbk.isSome then s1 else s1.mailAnswer core l.msg (.ack l.msg.src l.msg.uid)
    | none =>
      match c.rx.held with
      | [] => s
      | m :: r =>
        if !s.works core then s
        else (((s.setCore core { c with rx := { c.rx with held := r } }).mailIn core m)).getD s)

/-- BALLONET_WAKE (R219): idle, context 11 starts for a spill first, else for the oldest room notice. Its HBTIV, to which Table 5.1 and R104
give no value, is 0 (DESIGN CHOICE, log entry 85). -/
def execBallonetWake (core : Nat) (s : State) : Res :=
  let c := s.core core
  let start (a b : Nat) (rx : Rx) : State :=
    let h := Ctx.start (4 * bits c.spr.blnvec 2 13) .u .running
    s.setCore core (({ c with rx := rx }).setCtx 11 ({ (h.setReg 1 (word a)).setReg 2 (word b) with burnAt := s.now }))
  .next (
    if !s.works core || c.live 11 then s
    else if c.rx.wake then start 1 0 { c.rx with wake := false }
    else
      match c.rx.notices with
      | [] => s
      | d :: r => start 2 d { c.rx with notices := r })

/-- The mailbox of a posting that has succeeded: with no message left there, nothing is pending any more (R271). -/
def Core.postingDone (c : Core) (a : Nat) : Core :=
  if (c.mbox a).freshCount = 0 then c.setMbox a ((c.mbox a).put 205 1 0) else c

/-- MAILBOX_POST_RETRY (R271): the held postings are tried in the order in which they were held. That the mailbox of one that succeeds is
pending no more when it has been emptied meanwhile is a DESIGN CHOICE (log entry 84). -/
def execMailboxPostRetry (core : Nat) (s : State) : Res :=
  let t := s.terrOf core
  let done (s : State) (a : Nat) : State := s.setCore core ((s.core core).postingDone a)
  let try1 (acc : State × List (Nat × List Byte)) (p : Nat × List Byte) : State × List (Nat × List Byte) :=
    let o := acc.1.postRecord t p.2 (some core)
    if o.2 = 2 then (acc.1, acc.2 ++ [p])
    else if o.2 = 3 then (done (acc.1.taskFault t p.2 localBounds none 0) p.1, acc.2)
    else (done o.1 p.1, acc.2)
  let r := (s.core core).rx.postings.foldl try1 (s, [])
  .next (if !s.works core then s else r.1.setCore core { r.1.core core with rx := { (r.1.core core).rx with postings := r.2 } })

/-! ### MBX words (R216) -/

/-- The checks of several local extents in the order of R54, the first extent first within each. -/
def Core.extentChecks (c : Core) (lv : Level) (es : List (Nat × Nat × Nat)) : Option (BitVec 8 × Nat) :=
  match es.find? (fun e => inImage e.1 e.2.1 && lv == .u) with
  | some e => some (privilege, e.1)
  | none =>
    match es.find? (fun e => e.1 % e.2.2 != 0) with
    | some e => some (misaligned, e.1)
    | none =>
      match es.find? (fun e => c.stashBase < e.1 + e.2.1) with
      | some e => some (localBounds, e.1)
      | none => none

/-- A scalar access to several extents: checks, then the load under way (R139) and the interlock with the wide side (R132), then `k`. -/
def State.extentsAccess (s : State) (es : List (Nat × Nat × Nat)) (k : State → State) : State :=
  match s.me.extentChecks s.cx.level es with
  | some f => s.trap f.1 (word f.2)
  | none =>
    s.afterLoad fun s => if es.any (fun e => s.me.wideTouches s.cur.2 e.1 e.2.1) then s.park .wide else k s

/-- A mailbox's words wait while a message of it is being written (R213). -/
def State.mailFree (s : State) (a : Nat) (k : State → State) : State := if s.me.lands a then s.park .unit else k s

/-- The local extents of a mailbox word, each the register of its address, its length and its alignment. -/
abbrev MailExtents := List (Reg × Nat × Nat)
def Ctx.extents (c : Ctx) (es : MailExtents) : List (Nat × Nat × Nat) := es.map (fun e => ((c.reg e.1).toNat, e.2))

/-- A mailbox word at issue: the right of each extent whose address is there comes before its HWAIT and before the parity of another register
(R47, R54). -/
def State.issueMail (s : State) (i : Instr) (es : MailExtents) (body : State → State) : State :=
  s.issueWith i .u (fun _ => false)
    (fun s => es.findSome? (fun e =>
      if s.cx.isFull e.1 && !s.cx.isBad e.1 && !s.cx.loading e.1 then s.cx.imageAt (s.cx.reg e.1).toNat e.2.1 else none))
    fun s => s.withRegs i (es.map (·.1)) body

/-- The slot that a pop or a peek takes. -/
def MBox.next (d : MBox) : Option Nat :=
  if d.edge then d.used.find? d.fresh else if d.fresh d.head then some d.head else none

/-- What a pop marks, and the room notice it queues (R216, R219). -/
def Core.popped (c : Core) (a : Nat) (d : MBox) (sl : Nat) : Core :=
  let d1 := d.put (448 + sl) 1 0
  let d2 := if d.edge then d1 else d1.put 230 6 ((d.head + 1) % d.slots)
  -- the pend of a posting that is still held stays (R271)
  let d3 := if d2.freshCount = 0 && !c.rx.postings.any (fun p => p.1 == a) then d2.put 205 1 0 else d2
  if d3.spl && c.rx.notices.length < 8 then ({ c with rx := { c.rx with notices := c.rx.notices ++ [a] } }).setMbox a (d3.put 204 1 0)
  else c.setMbox a d3

/-- MBPOP and MBPEEK. -/
def mbTake (i : Instr) (d a : Reg) (mark : Bool) (s : State) : State :=
  let es : MailExtents := [(a, 64, 64), (a + 1, 208, 16)]
  s.issueMail i es fun s =>
    let p := (s.cx.reg a).toNat
    let b := (s.cx.reg (a + 1)).toNat
    s.extentsAccess (s.cx.extents es) fun s => s.mailFree p fun s =>
      let c := s.me
      let x := c.mbox p
      if c.poisoned p 64 then s.trap uncorrectable (word p)
      else if c.mboxMalformed x then s.trap localBounds (word p)
      else
        match x.next with
        | none => (s.mend s.cur.1 p 64 false).done d 0
        | some sl =>
          let q := x.slotAt sl
          if c.wideTouches s.cur.2 q 208 then s.park .wide
          else if c.poisoned q 208 then s.trap uncorrectable (word q)
          else if c.writePoisoned b 208 then s.trap uncorrectable (word b)
          else
            let c1 := ((c.mend p 64 false).mend q 208 false).lwrite b (c.lread q 208)
            let c2 := if mark then c1.popped p x sl else c1
            let left := (x.put (448 + sl) 1 (ofBool (!mark))).freshCount
            (s.setMe c2).done d (word (2 ^ 63 + left * 2 ^ 16 + sl))

/-- MBPOP (R216). -/
def execMbpop (d a : Reg) (s : State) : Res := .next (mbTake (.mbpop d a) d a true s)
/-- MBPEEK (R216). -/
def execMbpeek (d a : Reg) (s : State) : Res := .next (mbTake (.mbpeek d a) d a false s)

/-- MBPOP.spill (R216): the ballonet takes the spill latch. -/
def execMbpopSpill (d a : Reg) (s : State) : Res :=
  let i : Instr := .mbpopSpill d a
  let es : MailExtents := [(a + 1, 208, 16)]
  .next (s.issueMail i es fun s =>
    let b := (s.cx.reg (a + 1)).toNat
    s.extentsAccess (s.cx.extents es) fun s =>
      let c := s.me
      if c.rx.spill.isSome && c.writePoisoned b 208 then s.trap uncorrectable (word b)
      else if s.cur.2 ≠ 11 then s.trap illegalOp (wordOf i)
      else
        match c.rx.spill with
        | none => s.done d 0
        | some (box, bytes) =>
          s.mailFree box fun s =>
            let c1 := ({ c with rx := { c.rx with spill := none } }).lwrite b bytes
            (s.setMe (c1.setMbox box ((c1.mbox box).put 204 1 1))).done d (word (2 ^ 63 + box)))

/-- MBCNT (R216). -/
def execMbcnt (d a : Reg) (s : State) : Res :=
  let i : Instr := .mbcnt d a
  let es : MailExtents := [(a, 64, 64)]
  .next (s.issueMail i es fun s =>
    let p := (s.cx.reg a).toNat
    s.extentsAccess (s.cx.extents es) fun s =>
      let c := s.me
      if c.poisoned p 64 then s.trap uncorrectable (word p)
      else
        let x := c.mbox p
        (s.mend s.cur.1 p 64 false).done d (word (ofBool c.rx.spill.isSome * 2 ^ 23 + ofBool x.pend * 2 ^ 22 + ofBool x.spl * 2 ^ 21 + ofBool x.isOpen * 2 ^ 20
          + (x.used.filter x.valid).length * 2 ^ 8 + x.freshCount)))

/-- A record replayed at the loop-back port is being written: its context stands at no boundary until it is done. -/
def phLand : Nat := 13

/-- LBK (R216): a record replayed at the loop-back port, which never spills. -/
def execLbk (d a : Reg) (s : State) : Res :=
  let i : Instr := .lbk d a
  let es : MailExtents := [(a, 208, 16)]
  .next (s.issueMail i es fun s =>
    let k := s.cur.1
    let p := (s.cx.reg a).toNat
    if s.cx.acc = some ⟨phLand, 0, none⟩ then
      match s.me.rx.landing with
      | some l => if l.lbk = some s.cur.2 then (s.landOn k l).park .unit else s.park .unit
      | none => s.done d 0
    else
      s.extentsAccess (s.cx.extents es) fun s =>
        let c := s.me
        if c.poisoned p 208 then s.trap uncorrectable (word p)
        else
          let hdr : BitVec 128 := BitVec.ofNat 128 (mnat c.lmem p 16) ||| (1#128 <<< 40)
          let m0 : MailMsg := { hdr := hdr, wf := 0, blk := c.words32 (p + 16) 44, src := k, port := none, pkg := 0, uid := 0, bad := false }
          let m := { m0 with wf := m0.hdrWf }
          let touched : Bool := c.mboxAt m.box && !c.mboxMalformed (c.mbox m.box) &&
            (c.wideTouches s.cur.2 m.box 64 || c.wideTouches s.cur.2 (c.mbox m.box).ring (208 * (c.mbox m.box).slots))
          if touched then s.park .wide
          else if c.rx.landing.isSome then s.park .unit
          else
            match s.arrive k m (some s.cur.2) with
            | .lands l =>
              ((s.setMe { c.mend p 208 false with rx := { c.rx with landing := some l } }).setAcc (some ⟨phLand, 0, none⟩)).park .unit
            | .waits => s.park .unit
            | .refused cause => s.done d (word (256 * cause.toNat + 2))
            | .full => (s.setMe (c.setMbox m.box ((c.mbox m.box).put 204 1 1))).done d 1)

end Sys2Proof.Machine
end

