-- ==== Sys2Proof/Machine/Order.lean ====
section
/-! DEFINITION. FENCE, ACQUIRE, RELEASE, SFLUSH, SINVAL, SBIND and SUNBIND (R142 to R146), and the resize of the stash (R133). -/

namespace Sys2Proof.Machine

/-- FENCE (R143). -/
def execFence (c o : BitVec 2) (xs : BitVec 3) (s : State) : Res :=
  let i : Instr := .fence c o xs
  .next (s.issue i .u fun s =>
    if c = 1 then (if s.me.wideIdle s.cur.2 then s.finish else s.park .wide)
    else
      let last (s : State) : State := (if ordAcq o then s.fenceAcq xs.toNat else s).finish
      if ordRel o then s.fenceRel xs.toNat (fun _ => true) last else s.settled last)

/-- The object address of ACQUIRE and RELEASE (R145). -/
def State.syncObject (s : State) (a : Nat) (k : State → State) : State :=
  if a % 16 ≠ 0 then s.trap misaligned (word a)
  else if (s.me.localCheck s.cx.level a 16 16).isSome then s.trap localBounds (word a)
  else k s

/-- Lines whose region is bound to an object (R144). -/
def Core.boundTo (c : Core) (obj : Nat) (l : Line) : Bool :=
  match l.region with
  | some r => (match kget c.regions r with | some e => e.obj == obj | none => false)
  | none => false

/-- ACQUIRE (R145). -/
def execAcquire (a : Reg) (xs : BitVec 3) (s : State) : Res :=
  let i : Instr := .acquire a xs
  .next (s.issue i .u fun s => s.withRegs i [a] fun s =>
    let obj := (s.cx.reg a).toNat
    s.syncObject obj fun s => s.settled fun s => (s.setMe (s.me.dropClean (s.me.boundTo obj))).finish)

/-- RELEASE (R145). -/
def execRelease (a : Reg) (xs : BitVec 3) (s : State) : Res :=
  let i : Instr := .release a xs
  .next (s.issue i .u fun s => s.withRegs i [a] fun s =>
    let obj := (s.cx.reg a).toNat
    s.syncObject obj fun s => s.fenceRel xs.toNat (s.me.boundTo obj) fun s => s.finish)

/-! ### Ranges (R146) -/

/-- The physical extents, first and last byte, of the mapped pages of a virtual range from its byte `from_` on, and the offset of the first page
whose translation is awaited, if one is: what lies behind it comes later. Unmapped pages are skipped. -/
def State.extents (s : State) (k key lo n from_ : Nat) : State × List (Nat × Nat) × Option Nat :=
  if n ≤ from_ then (s, [], none)
  else
    let lo1 := lo + from_
    (List.range ((lo + n - 1) / 4096 - lo1 / 4096 + 1)).foldl (fun acc j =>
      let page := (lo1 / 4096 + j) * 4096
      let a := max lo1 page
      let b := min (lo + n - 1) (page + 4095)
      if 2 ^ 64 ≤ a || acc.2.2.isSome then acc
      else
        match acc.1.engineTranslate k 0 a key with
        | (t, some (.ok (pa, _))) => (t, acc.2.1 ++ [(pa, pa + (b - a))], none)
        | (t, some (.error _)) => (t, acc.2.1, none)
        | (t, none) => (t, acc.2.1, some (a - lo))) (s, [], none)

def Line.within (l : Line) (es : List (Nat × Nat)) : Bool := es.any (fun e => e.1 / 64 ≤ l.tag && l.tag ≤ e.2 / 64)

/-- Writes back the lines that `p` selects, and invalidates them if asked to. -/
def State.flushLines (s : State) (inval : Bool) (p : Line → Bool) : State :=
  let s1 := s.writeBacks s.cur.1 s.cur.2 p
  let c := s1.me
  if inval then
    s1.setMe { c.spoilFills (fun t => c.lines.any (fun e => e.2.tag == t && p e.2)) 0xFFFF with lines := c.lines.filter (fun e => !p e.2) }
  else s1

/-- SFLUSH's and SINVAL's work on a range (R146), after the context's earlier scalar accesses, and the wait for the acknowledgements of
what it wrote back; then `k`. A count of 0 does nothing. A page whose translation is a miss is waited for: the access under way then keeps the
number of the work, and how far it has come. -/
def State.flushRange (s : State) (inval : Bool) (lo n : Nat) (k : State → State) : State :=
  let wait (s : State) (u : Nat) : State :=
    if s.me.outs.any (fun o => o.wback && o.uid < u) then s.park .memory else k (s.setAcc none)
  let go (s : State) (key from_ : Nat) : State :=
    let e := s.extents s.cur.1 key lo n from_
    let s1 := e.1.flushLines inval (fun l => l.within e.2.1)
    match e.2.2 with
    | some p => (s1.setAcc (some ⟨phWalk, key, some ⟨p, false, none⟩⟩)).park .memory
    | none => wait (s1.setAcc (some ⟨phFence, s1.uid, none⟩)) s1.uid
  match s.cx.acc with
  | some ⟨3, u, _⟩ => wait s u
  | some ⟨1, u, some a⟩ => go s u a.val
  | _ => if n = 0 then k s else s.settled fun s => go s.bump s.uid 0

/-- SFLUSH (R146). -/
def execSflush (a b : Reg) (s : State) : Res :=
  let i : Instr := .sflush a b
  .next (s.issue i .u fun s => s.withRegs i [a, b] fun s =>
    s.flushRange false (s.cx.reg a).toNat (s.cx.reg b).toNat fun s => s.finish)

/-- SINVAL (R146). -/
def execSinval (a b : Reg) (s : State) : Res :=
  let i : Instr := .sinval a b
  .next (s.issue i .u fun s => s.withRegs i [a, b] fun s =>
    s.flushRange true (s.cx.reg a).toNat (s.cx.reg b).toNat fun s => s.finish)

/-- SBIND (R144). -/
def execSbind (d a b : Reg) (s : State) : Res :=
  let i : Instr := .sbind d a b
  .next (s.issueLocal i .u [a] (fun c => [(c.reg a).toNat]) fun s => s.withRegs i [a, b] fun s =>
    let r := (s.cx.reg b).toNat
    let at_ := (s.cx.reg a).toNat
    s.localAccess at_ 24 8 false fun s =>
      let base := mnat s.me.lmem at_ 8
      let size := mnat s.me.lmem (at_ + 8) 8
      let obj := mnat s.me.lmem (at_ + 16) 8
      if 64 ≤ r then s.done d 3
      else if (kget s.me.regions r).isSome then s.done d 1
      else if base % 64 ≠ 0 || size = 0 || size % 64 ≠ 0
          || s.me.regions.any (fun e => base < e.2.base + e.2.size && e.2.base < base + size) then s.done d 2
      else s.flushRange true base size fun s =>
        (s.setMe { s.me with regions := kput s.me.regions r ⟨base, size, obj⟩ }).done d 0)

/-- SUNBIND (R144). -/
def execSunbind (d a : Reg) (s : State) : Res :=
  let i : Instr := .sunbind d a
  .next (s.issue i .u fun s => s.withRegs i [a] fun s =>
    let r := (s.cx.reg a).toNat
    s.afterLoad fun s =>
    if 64 ≤ r || (kget s.me.regions r).isNone then s.done d 1
    else
      let s1 := s.flushLines true (fun l => l.region == some r)
      (s1.setMe { s1.me with regions := kdel s1.me.regions r }).done d 0)

/-- The stash takes its new size: no line stays, and the bytes that it releases are zero (R133). -/
def Core.resize (c : Core) (size : BitVec 3) : Core :=
  let old := c.stashBase
  let c1 : Core := { c.spoilFills (fun _ => true) 0xFFFF with spr := { c.spr with stash := size, stashBusy := false }, lines := [] }
  if old < c1.stashBase then
    { c1 with
      lmem := c1.lmem.filter (fun e => !(old ≤ e.1 && e.1 < c1.stashBase))
      lbad := c1.lbad.filter (fun w => !(old ≤ 8 * w && 8 * w < c1.stashBase)) }
  else c1

/-- STASHCFG by MTS (R133): it waits until no other resize runs, writes every dirty word back, and takes the new size once the write-backs
are acknowledged. -/
def execStashResize (a : Reg) (s : State) : Res :=
  let i : Instr := .stashResize a
  .next (s.issue i .t fun s => s.withRegs i [a] fun s =>
    let v := bits (s.cx.reg a) 0 3
    let wait (s : State) (u : Nat) : State :=
      if s.me.outs.any (fun o => o.wback && o.uid < u) then s.park .memory
      else (s.setMe (s.me.resize (BitVec.ofNat 3 v))).finish
    if 4 < v then s.trap illegalOp (trapVal i)
    else
      match s.cx.acc with
      | some ⟨8, u, _⟩ => wait s u
      | _ => s.afterLoad fun s =>
        if s.me.spr.stashBusy then s.park .memory
        else
          let s1 := s.flushLines true (fun _ => true)
          let s2 := s1.setMe { s1.me with spr := { s1.me.spr with stashBusy := true } }
          wait (s2.setAcc (some ⟨phResize, s2.uid, none⟩)) s2.uid)

end Sys2Proof.Machine
end

