-- ==== Sys2Proof/Machine/Push.lean ====
section
/-! DEFINITION. The push engine: PUSH_COMMAND_START (R189 to R192, R331, COPY_FAULT of R314) and PUSH_COMPLETE (R184). The engine takes a
command of each context, then reads and sends its source one granule at a time; pushes of different contexts interleave (R192). -/

namespace Sys2Proof.Machine

/-- The members of a push (R189): which word it is, its descriptor, and whether it completes on delivery. -/
def pushParts : Instr → Option (Nat × Nat × Bool)
  | .push a m _ _ _ => some (0, a.toNat, m)
  | .pushg a m _ _ _ => some (1, a.toNat, m)
  | .pushs a m _ _ _ => some (2, a.toNat, m)
  | .pushl a m _ _ _ => some (3, a.toNat, m)
  | _ => none

/-- The core at a member's offset from the mooring cluster (R279), if that is a core of the package. -/
def State.memberCore (s : State) (t : Nat) (m : Member) : Option Nat :=
  let c := s.moorClus t
  let cx := (c % 16 : Int) + m.dcx
  let cy := (c / 16 : Int) + m.dcy
  if 0 ≤ cx ∧ cx < 16 ∧ 0 ≤ cy ∧ cy < 16 ∧ m.lx < 4 ∧ m.ly < 4 then some (coreIn (16 * cy.toNat + cx.toNat) m.lx m.ly) else none

/-- The receivers that a member mask selects in a group of the territory. A member that is no core of the package, and a group id without an
entry, select none, and a push with no receiver completes with nothing sent (DESIGN CHOICE, log entry 86). -/
def State.groupDests (s : State) (t gid : Nat) (mask : Word) : List Nat :=
  match kget (s.terr t).groups gid with
  | none => []
  | some g => (List.range g.members.length).filterMap (fun i => if wbit mask i then (g.members[i]?).bind (s.memberCore t) else none)

/-- The receivers in the boot group table (R331). -/
def State.bootDests (s : State) (k gid : Nat) (mask : Word) : List Nat :=
  let c := s.core k
  let base := 128 * bits c.spr.bgtab 7 13 + 128 * gid
  (List.range 64).filterMap (fun i =>
    let h := mnat c.lmem (base + 2 * i) 2
    if wbit mask i && h / 2 ^ 15 == 1 && h / 2 ^ 12 % 8 == 0 then some (h % 4096) else none)

/-- The receivers of a push as it starts. -/
def State.pushDests (s : State) (k : Nat) (q : Cmd) : List Nat :=
  let v0 := q.vals.headD 0
  let v1 := q.vals.getD 1 0
  if wbit v1 50 then [bits v0 0 12]
  else if isSup k && q.level == .s && wbit (s.core k).spr.bgtab 20 then s.bootDests k (bits v1 37 8) v0
  else s.groupDests (s.terrOf k) (bits v1 37 8) v0

/-- The global address of byte `p` of a source packed row by row. -/
def TDesc.at (d : TDesc) (p : Nat) : Nat := d.base + p / d.rowBytes * d.stride + p % d.rowBytes

/-- Phases of a started push: it makes the write-backs of its start (R191), its next granule is to be read or sent, its read at a home slice is
under way or answered, or it stalls the engine, at either, because its fault finds the table full (R314). -/
def phFlush : Nat := 2
def phSend : Nat := 1
def phAsk : Nat := 4
def phHave : Nat := 5
def phStallSend : Nat := 6
def phStallHave : Nat := 7

/-- The push engine stalls: a copy waits to be set aside (R314). -/
def Core.pushStalled (c : Core) : Bool := 4 ≤ c.aside.length && c.psh.older.any (fun r => r.phase == phStallSend || r.phase == phStallHave)
/-- A push as it goes on after a stall. -/
def Started.unstall (r : Started) : Started :=
  if r.phase = phStallSend then { r with phase := phSend } else if r.phase = phStallHave then { r with phase := phHave } else r

/-- A copy that fails is set aside and reported (R314), to go on at byte `pos`; with four entries taken, the engine stalls. -/
def State.copyFault (s : State) (k : Nat) (r : Started) (pos kind reason flags pa va : Nat) : State :=
  let c := s.core k
  let q := { r.cmd with pos := pos }
  if 4 ≤ c.aside.length then s.setCore k (c.setOlder .push { r with phase := if r.phase = phHave then phStallHave else phStallSend })
  else
    let tok := match tokOf q.instr with | some t => t.toNat | none => 0
    let c1 : Core := { c.dropOlder .push q with
                       aside := c.aside ++ [⟨c.nextFid, some q, q.ctx, va, none⟩], nextFid := (c.nextFid + 1) % 256 }
    (s.setCore k c1).report k flags c.nextFid reason kind (q.ctx + 16 * tok) (word pa) (word va)

/-- A push ends its sending: `cause` says why it sends no more, if it failed. -/
def State.pushStop (s : State) (k : Nat) (q : Cmd) (cause : Option (BitVec 8)) : State :=
  let c := (s.core k).dropOlder .push q
  match c.out q.uid with
  | none => s.setCore k c
  | some o => s.setCore k (c.setOut { o with sending := false, cause := match o.cause with | some x => some x | none => cause })

/-- Sends bytes that belong at offset `off` of the extent to every receiver: a message for each granule of the destination. -/
def State.pushBytes (s : State) (k : Nat) (q : Cmd) (kind off : Nat) (bs : List Byte) : State :=
  let v0 := q.vals.headD 0
  let v1 := q.vals.getD 1 0
  let bar := if wbit v1 36 then none else some (16 * bits v1 20 16)
  let far : Option Nat := if wbit v1 50 then some (bits v0 12 16) else none
  (cutAt64 (bits v1 0 20 + off, bs)).foldl (fun s w =>
    match (s.core k).out q.uid with
    | none => s
    | some o =>
      let s1 := s.setCore k ((s.core k).setOut { o with left := o.left + q.dests.length })
      q.dests.foldl (fun s d => s.sendTo k q.level ⟨d, far⟩ 2 q.uid (.push q.uid (kind == 3) w.1 w.2 [] bar)) s1) s

/-- What a push has read and not sent yet: of a word that goes on in the next granule, or, of PUSHS, of a granule that is not all written. -/
def Started.carried (r : Started) : List Byte := (r.writes.headD (0, [])).2
/-- A push that goes on at byte `pos` with bytes in hand. -/
def Started.onward (r : Started) (pos : Nat) (carry : List Byte) : Started :=
  { r with cmd := { r.cmd with pos := pos }, phase := phSend, got := [], snap := [], snapBad := [], writes := [(0, carry)] }

/-- A granule of a push's source has been read: its bytes are sent, narrowed and widened again in whole words where the wire format asks for it
(R31); a word that goes on in the next granule waits for its other bytes. -/
def State.pushRead (s : State) (k : Nat) (r : Started) (kind fmt : Nat) (bs : List Byte) : State :=
  let q := r.cmd
  let wf := bits (q.vals.getD 1 0) 45 5
  let next (s : State) (carry : List Byte) : State := s.setCore k ((s.core k).setOlder .push (r.onward (q.pos + bs.length) carry))
  if wf = 0 ∨ fmt ≠ 0 then next (s.pushBytes k q kind q.pos bs) []
  else
    let all := r.carried ++ bs
    let n := all.length / 4
    let wide := (List.range n).flatMap (fun i => leBytes 4 (wireWord wf (leNat ((all.drop (4 * i)).take 4))))
    next (s.pushBytes k q kind (q.pos - r.carried.length) wide) (all.drop (4 * n))

/-- PUSHG's next granule: it asks the home slice for it (R291, R293) and sends it when the answer is there; a fault of the copy (R314) resumes
at the first byte that has not been sent. `a` is its address and `n` its length. -/
def State.pushGlobal (s : State) (k : Nat) (r : Started) (fmt a n : Nat) : State :=
  let q := r.cmd
  let from_ := q.pos - r.carried.length
  if r.phase = phAsk then s
  else if r.phase = phHave then
    match r.fault with
    | some cause => s.pushStop k q (some cause)
    | none =>
      if !r.snapBad.isEmpty then s.copyFault k r from_ 2 uncorrectable.toNat 0 r.pos a
      else s.pushRead k r 1 fmt (mread r.snap 0 n)
  else
    match s.engineTranslate k 0 (a % 2 ^ 64) q.uid with
    | (s1, none) => s1
    | (s1, some (.error f)) => s1.copyFault k r from_ 1 f.1 0 0 a
    | (s1, some (.ok (pa, attr))) =>
      if isReg pa || s1.noStorage pa then s1.pushStop k q (some translation)
      else
        let r1 : Started := { r with phase := phAsk, got := [s1.uid], pos := pa }
        (s1.bump.setCore k ((s1.core k).setOlder .push r1)).request k q.ctx s1.uid pa (.read n) q.cache attr

/-- PUSHS writes of the bytes that it has read, packed from `va` on, those that lie in one line; a write to an IO page waits until those before it
are acknowledged (R311). -/
def State.pushStore (s : State) (k : Nat) (r : Started) (va : Nat) : State :=
  let q := r.cmd
  let n := min r.carried.length (64 - va % 64)
  match s.engineTranslate k 1 (va % 2 ^ 64) q.uid with
  | (s1, none) => s1.setCore k ((s1.core k).setOlder .push r)
  | (s1, some (.error f)) => s1.copyFault k r q.pos 1 f.1 2 0 va
  | (s1, some (.ok (pa, attr))) =>
    if isReg pa || s1.noStorage pa then s1.pushStop k q (some translation)
    else
      match (s1.core k).out q.uid with
      | none => s1.pushStop k q none
      | some o =>
        if attr = 2 && o.left ≠ 0 then s1.setCore k ((s1.core k).setOlder .push r)
        else
          let cells := (List.range n).zipWith (fun i b => (pa + i, b)) (r.carried.take n)
          let c1 := ((s1.core k).setOut { o with left := o.left + 1 }).setOlder .push (r.onward (q.pos + n) (r.carried.drop n))
          (s1.setCore k c1).request k q.ctx q.uid pa (.write cells []) q.cache attr

/-- The write-backs that a push makes when it starts, a page at a time (R191): of PUSHG's source rows, and of the lines that PUSHS will write,
which it invalidates as well. -/
def State.pushFlush (s : State) (k : Nat) (r : Started) (kind : Nat) (d : TDesc) : State :=
  let q := r.cmd
  let total := d.rows * d.rowBytes
  let goOn (s : State) (n : Nat) : State :=
    s.setCore k ((s.core k).setOlder .push (if total ≤ r.pos + n then { r with phase := phSend, pos := q.pos } else { r with pos := r.pos + n }))
  let a := if kind = 1 then d.at r.pos else (q.vals.headD 0).toNat + r.pos
  let n := min (if kind = 1 then d.rowBytes - r.pos % d.rowBytes else total - r.pos) (4096 - a % 4096)
  if total = 0 then goOn s 0
  else
    let e := s.extents k q.uid a n 0
    if e.2.2.isSome then e.1 else goOn (e.1.asCtx k q.ctx fun s => s.flushLines (kind == 2) (fun l => l.within e.2.1)) n

/-- The next granule of a started push. -/
def State.pushNext (s : State) (k : Nat) (r0 : Started) : State :=
  let r := r0.unstall
  let q := r.cmd
  match pushParts q.instr with
  | none => s.pushStop k q none
  | some (kind, td, _) =>
    let c := s.core k
    let d := c.td td
    let total := d.rows * d.rowBytes
    if r.phase = phFlush then s.pushFlush k r kind d
    else if total ≤ q.pos ∨ (kind ≠ 2 ∧ q.dests = []) then s.pushStop k q none
    else
      let a := d.at q.pos
      let n := min (d.rowBytes - q.pos % d.rowBytes) (64 - a % 64)
      let va := (q.vals.headD 0).toNat + q.pos
      if kind = 1 then s.pushGlobal k r d.fmt a n
      else if kind = 2 ∧ !r.carried.isEmpty then s.pushStore k r va
      else if c.poisoned a n then s.pushStop k q (some uncorrectable)
      else
        -- a read grant corrects what can be corrected (R149)
        let s1 := s.mend k a n false
        if kind = 2 then s1.pushStore k (r.onward q.pos (c.lread a n)) va else s1.pushRead k r kind d.fmt (c.lread a n)

/-- A copy of a context that RESUME has released to this engine (R316). -/
def Core.released (c : Core) (e : Eng) (x : Nat) : Option Aside :=
  c.aside.find? (fun a => (match a.verdict with | some (true, _) => true | _ => false) && a.cmd.any (fun q => engOf q.instr == e && q.ctx == x))

/-- The push that the engine takes next (R49), of the contexts that have none under way (R192). -/
def Core.nextPush (c : Core) : Option Cmd := c.psh.next (fun q => c.canStart q && !c.psh.serves q.ctx)

/-- A push is taken: its receivers are found, and its operation is outstanding (R189); PUSHG and PUSHS then make their write-backs (R191). -/
def State.pushBegin (s : State) (k : Nat) (q : Cmd) : State :=
  match pushParts q.instr with
  | none => s
  | some (kind, td, dlv) =>
    let q1 := { q with dests := s.pushDests k q }
    let fab := wbit (q.vals.getD 1 0) 50 && (match q.instr with | .pushs .. => false | _ => true)
    let s1 := s.addOut k { uid := q.uid, ctx := q.ctx, tok := tokOf q.instr, left := 0, fab := fab, wback := false, sending := true, cause := none, td := some td, dlv := dlv,
                            copy := (match q.instr with | .pushs .. => true | _ => false), wide := false }
    s1.setCore k ((s1.core k).addOlder .push (if kind = 1 ∨ kind = 2 then { q1.begin with phase := phFlush } else q1.begin))

/-- PUSH_COMMAND_START (R191): the engine goes on with a context's push by a granule, resumes its copy, or takes its next command. -/
def execPushCommandStart (o : CtxAt) (s : State) : Res :=
  let core := o.core
  let cx := o.ctx
  let c := s.core core
  .next (
    if !s.works core || c.pushStalled then s
    else
      match c.psh.olderOf cx with
      | some r => s.pushNext core r
      | none =>
        match (c.released .push cx).bind (fun a => a.cmd.map (fun q => (a, q))) with
        | some (a, q) => s.setCore core { c.addOlder .push q.begin with aside := c.aside.filter (· != a) }
        | none =>
          match c.nextPush with
          | some q => if q.ctx = cx then s.startCmd core q (fun q s => s.pushBegin core q) else s
          | none => s)

/-- PUSH_COMPLETE (R184): by Table 9.8, when the source has been read, or when every byte has been acknowledged. -/
def execPushComplete (core uid : Nat) (s : State) : Res :=
  let c := s.core core
  .next (
    match c.out uid with
    | none => s
    | some o =>
      if o.td.isNone || o.sending || (o.dlv && o.left ≠ 0) then s
      else
        let c1 := if o.left = 0 then c.delOut uid else c.setOut { o with tok := none, td := none }
        (s.setCore core c1).settle core o.ctx o.tok o.ending)

end Sys2Proof.Machine
end

