-- ==== Sys2Proof/Machine/Group.lean ====
section
/-! DEFINITION. Groups (R279, R280): GRPBAR, GRPINFO, GROUP_ARRIVAL and GROUP_FIRING_ARRIVAL. -/

namespace Sys2Proof.Machine

/-- A member is present while its core is enabled and lies in the territory. -/
def State.presentCore (s : State) (t : Nat) (m : Member) : Option Nat :=
  match s.memberCore t m with
  | some k => if s.disabled.contains k || s.tagOf k != some t then none else some k
  | none => none
def State.present (s : State) (t : Nat) (g : Group) : List Nat := g.members.filterMap (s.presentCore t)
/-- The members that list a core, by index. -/
def State.memberIdx (s : State) (t : Nat) (g : Group) (k : Nat) : Option Nat :=
  (List.range g.members.length).find? (fun i => (g.members[i]?.bind (s.memberCore t)) == some k)

/-- A core's groups in rising order: its membership slots (R279). -/
def State.slotsOf (s : State) (t k : Nat) : List Nat := (((s.terr t).groups.filter (fun g => (s.memberIdx t g.2 k).isSome)).map (·.1)).take 4
/-- The membership slot of a core in a group. -/
def State.slotIn (s : State) (t k gid : Nat) : Nat := ((List.range 4).find? (fun j => (s.slotsOf t k)[j]? == some gid)).getD 0
/-- Context 0, the ballonet, and what they started hold every slot; a task holds those of its record (R273). -/
def Ctx.holdsSlot (c : Ctx) (x j : Nat) : Bool :=
  x == 0 || x == 11 || (match c.task with | some t => t.rec_.isEmpty || (t.rec_.getD 57 0).toNat / 2 ^ j % 2 == 1 | none => true)

/-- The group fires when every present member that counts in its generation has arrived: its generation advances, each present member is told,
and those that are present then count in the next one. A member that has ceased to be present counts no more in this one. -/
def State.fireGroup (s : State) (t gid : Nat) : State :=
  match kget (s.terr t).groups gid with
  | none => s
  | some g =>
    let pres := s.present t g
    let arrived := g.arrived.filter pres.contains
    if arrived.isEmpty || !(g.expected.filter pres.contains).all arrived.contains then
      s.setTerr t { s.terr t with groups := kput (s.terr t).groups gid { g with arrived := arrived, expected := g.expected.filter pres.contains } }
    else
      let s1 := s.setTerr t { s.terr t with groups := kput (s.terr t).groups gid { g with arrived := [], gen := g.gen + 1, expected := pres } }
      pres.foldl (fun s k => s.send { src := .terr t, dst := .core k, vc := 3, terr := some t, fab := none,
                                      body := .groupFire gid (g.gen + 1).toNat, sentAt := s.now }) s1
/-- A group as a launch leaves it: the members that are present count in its first generation. -/
def State.newGroup (s : State) (t : Nat) (ms : List Member) : Group :=
  let g : Group := ⟨ms, 0, [], []⟩
  { g with expected := s.present t g }
/-- No core of the package is a member of more than four groups (R279). -/
def State.groupsOk (s : State) (t : Nat) (gs : KMap (List Member)) : Bool :=
  let cores := gs.flatMap (fun e => (e.2.filterMap (s.memberCore t)).eraseDups)
  cores.all (fun k => cores.count k ≤ 4)
/-- Every group of a territory, after its members have changed. -/
def State.fireGroups (s : State) (t : Nat) : State := ((s.terr t).groups.map (·.1)).foldl (fun s g => s.fireGroup t g) s

/-- GRPBAR (R280). -/
def execGrpbar (d a : Reg) (xi : Bool) (s : State) : Res :=
  let i : Instr := .grpbar d a xi
  .next (s.issue i .u fun s => s.withRegs i [a] fun s =>
    let k := s.cur.1
    let x := s.cur.2
    let c := s.cx
    let gid := (c.reg a).toNat
    let stay (s : State) : State := s.setCx { s.cx.setRun s.now (.parked (.group xi)) with acc := some ⟨phGroup, gid, none⟩ }
    match s.tagOf k with
    | none => s.done d (word (3 * 2 ^ 32))
    | some t =>
      match if gid < 256 then kget (s.terr t).groups gid else none with
      | none => s.done d (word (3 * 2 ^ 32))
      | some g =>
        if g.members.isEmpty then s.done d (word (3 * 2 ^ 32))
        else if !(s.present t g).contains k then s.done d (word (2 ^ 32))
        else if !c.holdsSlot x (s.slotIn t k gid) then s.done d (word (2 * 2 ^ 32))
        else
          match c.acc with
          | some acc => (match acc.ans with | some r => s.done d (word r.val) | none => stay s)
          | none =>
            s.settled fun s =>
            if s.me.ctxs.any (fun e => e.2.inGroup gid && (match e.2.acc with | some a => a.ans.isNone | none => false)) then stay s
            else stay (s.send { src := .core k, dst := .terr t, vc := 3, terr := some t, fab := none, body := .groupArrive gid k, sentAt := s.now }))

/-- GRPINFO (R280, Table 15.6). -/
def execGrpinfo (d a : Reg) (s : State) : Res :=
  let i : Instr := .grpinfo d a
  .next (s.issue i .u fun s => s.withRegs i [a] fun s =>
    let k := s.cur.1
    let gid := (s.cx.reg a).toNat
    match s.tagOf k with
    | none => s.done d 0
    | some t =>
      match if gid < 256 then kget (s.terr t).groups gid else none with
      | none => s.done d 0
      | some g =>
        if g.members.isEmpty then s.done d 0
        else
          let pres := s.present t g
          let mine := if pres.contains k then 2 ^ 30 + 2 ^ 28 * s.slotIn t k gid + 2 ^ 22 * (s.memberIdx t g k).getD 0 else 0
          s.done d (word (2 ^ 32 * g.gen.toNat + 2 ^ 31 + mine + 2 ^ 15 * pres.length + 2 ^ 8 * g.members.length)))

/-- GROUP_ARRIVAL (R280): an arrival counts if a context of its core still waits. -/
def execGroupArrival (k : Nat) (s : State) : Res :=
  .next (
    match s.arriving k with
    | some m =>
      match m.dst, m.body with
      | .terr t, .groupArrive gid q =>
        let s1 := s.remove k
        match kget (s1.terr t).groups gid with
        | none => s1
        | some g =>
          if !(s1.core q).ctxs.any (fun e => e.2.inGroup gid) then s1
          else (s1.setTerr t { s1.terr t with groups := kput (s1.terr t).groups gid { g with arrived := nput g.arrived q } }).fireGroup t gid
      | _, _ => s
    | none => s)

/-- GROUP_FIRING_ARRIVAL (R280): the contexts of the core that wait for the group have the new generation. -/
def execGroupFiringArrival (k : Nat) (s : State) : Res :=
  .next (
    match s.arriving k with
    | some m =>
      match m.dst, m.body with
      | .core q, .groupFire gid gen =>
        let c := (s.remove k).core q
        (s.remove k).setCore q { c with ctxs := c.ctxs.map (fun e =>
          if e.2.inGroup gid then (e.1, { e.2 with acc := some ⟨phGroup, gid, some ⟨gen, false, none⟩⟩ }) else e) }
      | _, _ => s
    | none => s)

end Sys2Proof.Machine
end

