-- ==== Sys2Proof/Machine/Special.lean ====
section
/-! DEFINITION. MFS, MTS and the rows they split into (R51, R52, R88, R103, R119, R120, R218, R230, R231, R261, R303, R315, R330). -/

namespace Sys2Proof.Machine

/-- The level a special register asks of a read; none where it is not readable or not allocated (R51, R52). FRING and BGTAB exist on a die
supervisor core alone. -/
def readLevel (sup : Bool) (n : Nat) : Option Level :=
  if n ≤ 23 then some .u
  else if 28 ≤ n ∧ n ≤ 37 then some .u
  else if n = 38 ∨ n = 39 then (if sup then some .s else none)
  else none

/-- The level a special register asks of a write (R51, R52, Table 2.23). -/
def writeLevel (sup : Bool) (n : Nat) : Option Level :=
  if 7 ≤ n ∧ n ≤ 11 then some .u
  else if n = 16 then some .t
  else if n = 17 ∨ n = 18 ∨ n = 19 then some .u
  else if 24 ≤ n ∧ n ≤ 27 then some .u
  else if n = 28 ∨ n = 30 ∨ n = 37 then some .u
  else if n = 29 ∨ (31 ≤ n ∧ n ≤ 36) then some .t
  else if n = 38 ∨ n = 39 then (if sup then some .s else none)
  else none

/-- ESTAT (Table 5.3). -/
def State.estat (s : State) : Word :=
  let c := s.cx
  let pend := s.cur.2 = 0 ∧ s.me.upq ≠ []
  word ((if pend then 1 else 0) + 2 * ofBool c.spr.inh + 4 * ofBool c.spr.upc + 8 * ofBool c.spr.str + 16 * c.level.num
    + 64 * c.spr.plev.num)

/-- ENERGY (Table 15.4). -/
def Cluster.energy (c : Cluster) : Word := word (c.allow % 65536 * 2 ^ 32 + (BitVec.ofInt 32 c.bucket).toNat)

/-- The key of the running task (R273). -/
def Ctx.taskKey (c : Ctx) : Word :=
  match c.task with
  | some t => word (leNat (t.rec_.take 4))
  | none => 0

/-- SIDX (Table 12.6). -/
def State.sidx (s : State) : Word :=
  if s.cx.streamed then word s.cx.pc
  else match s.me.stream.last with
    | some n => word n
    | none => BitVec.allOnes 64

/-- The value of a special register (Table 2.21 and the chapters it cites). Links and NFLAG have rows of their own. -/
def State.sprRead (s : State) (n : Nat) : Word :=
  let k := s.cur.1
  let c := s.cx
  let t := s.terrOf k
  if n = 0 then word s.cur.2
  else if n = 1 then word k
  else if n = 2 then word (clusOf k)
  else if n = 3 then word t
  else if n = 4 then (s.terr t).gen.zeroExtend 64
  else if n = 5 then s.timeFor t
  else if n = 6 then word (s.cyc k)
  else if n = 7 then c.spr.epc
  else if n = 8 then c.spr.ecause.zeroExtend 64
  else if n = 9 then c.spr.eval
  else if n = 10 then s.estat
  else if n = 11 then c.spr.hlatch.toHlatch
  else if n = 12 then word (s.clus (clusOf k)).head.skew
  else if n = 13 then s.sidx
  else if n = 14 then c.taskKey
  else if n = 15 then (s.clus (clusOf k)).energy
  else if n = 16 then c.spr.hbtiv.zeroExtend 64
  else if n = 17 then c.spr.gthr.zeroExtend 64
  else if n = 19 then c.spr.hlatch.toHimmx
  else if n = 28 then c.spr.tvec.zeroExtend 64
  else if n = 29 then word (s.me.spr.stash.toNat + 256 * ofBool s.me.spr.stashBusy)
  else if n = 30 then s.me.seq.stat
  else if n = 31 then s.me.spr.blnvec
  else if n = 32 then s.me.spr.msave
  else if n = 33 then s.me.spr.trwin[0]
  else if n = 34 then s.me.spr.trwin[1]
  else if n = 35 then s.me.spr.trwin[2]
  else if n = 36 then s.me.spr.trwin[3]
  else if n = 37 then c.spr.tinfo.zeroExtend 64
  else if n = 38 then s.me.spr.fring
  else if n = 39 then s.me.spr.bgtab
  else 0

/-- TLAST keeps the largest TIME returned to the territory (R373). -/
def State.noteTime (s : State) (n : Nat) : State :=
  let t := s.terrOf s.cur.1
  if n = 5 ∧ t ≠ 0 then
    let w := (s.terr t).win
    if w.tlast.toNat < (s.timeFor t).toNat then s.setTerr t { s.terr t with win := { w with tlast := s.timeFor t } } else s
  else s

/-- MFS (R51, R52, R120). -/
def execMfs (d : Reg) (n : BitVec 11) (s : State) : Res :=
  .next (match readLevel (isSup s.cur.1) n.toNat with
    | none => s.trap illegalOp (trapVal (.mfs d n))
    | some lv => s.issue (.mfs d n) lv fun s => (s.noteTime n.toNat).done d (s.sprRead n.toNat))

/-- Whether `n` bytes at `a` lie wholly in banks A to C outside the core image and the stash. -/
def Core.openRange (c : Core) (a n : Nat) : Bool := !inImage a n && a + n ≤ c.stashBase

/-- Whether a register refuses the value (R261, R303, R315, R330). -/
def Core.refuses (c : Core) (n : Nat) (v : Word) : Bool :=
  if n = 32 then wbit v 0 && !c.openRange (256 * bits v 8 12) 16768
  else if 33 ≤ n ∧ n ≤ 36 then
    wbit v 32 && (bits v 20 6 < 6 || 19 < bits v 20 6 || 64 * bits v 6 14 % 2 ^ bits v 20 6 != 0)
  else if n = 38 then
    wbit v 0 && (bits v 20 4 < 3 || 8 < bits v 20 4 || !c.openRange (256 * bits v 8 12) (32 * 2 ^ bits v 20 4))
  else if n = 39 then wbit v 20 && !c.openRange (128 * bits v 7 13) (128 * (bits v 21 8 + 1))
  else false

/-- The write of a special register, reserved bits and read-only fields ignored (R120). -/
def State.sprWrite (s : State) (n : Nat) (v : Word) : State :=
  let c := s.cx
  let m := s.me
  let sp := c.spr
  let cs := m.spr
  if n = 7 then s.setCx { c with spr := { sp with epc := v } }
  else if n = 8 then s.setCx { c with spr := { sp with ecause := v.truncate 8 } }
  else if n = 9 then s.setCx { c with spr := { sp with eval := v } }
  else if n = 10 then
    s.setCx { c with spr := { sp with plev := Level.ofNum (bits v 6 2), str := wbit v 3, upc := wbit v 2, inh := wbit v 1 } }
  else if n = 11 then s.setCx { c with spr := { sp with hlatch := sp.hlatch.ofHlatch v } }
  else if n = 17 then s.setCx { c with spr := { sp with gthr := v.truncate 32 } }
  else if n = 18 then s.setCx { c with spr := { sp with nflag := v.truncate 6, nflagFrom := s.uid } }
  else if n = 19 then s.setCx { c with spr := { sp with hlatch := sp.hlatch.ofHimmx v } }
  else if n = 28 then s.setCx { c with spr := { sp with tvec := (v &&& 0x7FFD#64).truncate 15 } }
  else if n = 30 then s.setMe { m with seq := { m.seq with stat := v &&& 0xFFFFFFFF00001FFF#64 } }
  else if n = 31 then s.setMe { m with spr := { cs with blnvec := v &&& 0x7FFD#64 } }
  else if n = 32 then s.setMe { m with spr := { cs with msave := v &&& 0xFFF01#64 } }
  else if n = 33 then s.setMe { m with spr := { cs with trwin := cs.trwin.set 0 (v &&& 0x103FFFFC0#64) } }
  else if n = 34 then s.setMe { m with spr := { cs with trwin := cs.trwin.set 1 (v &&& 0x103FFFFC0#64) } }
  else if n = 35 then s.setMe { m with spr := { cs with trwin := cs.trwin.set 2 (v &&& 0x103FFFFC0#64) } }
  else if n = 36 then s.setMe { m with spr := { cs with trwin := cs.trwin.set 3 (v &&& 0x103FFFFC0#64) } }
  else if n = 37 then s.setCx { c with spr := { sp with tinfo := v.truncate 8 } }
  else if n = 38 then s.setMe { m with spr := { cs with fring := (v &&& 0xFFFFFFF01#64) ||| (cs.fring &&& 0xFFF000000000#64) } }
  else if n = 39 then s.setMe { m with spr := { cs with bgtab := v &&& 0x1FFFFF80#64 } }
  else s

/-- MTS (R51, R52, R88, R120). -/
def execMts (a : Reg) (n : BitVec 11) (s : State) : Res :=
  let i : Instr := .mts a n
  .next (match writeLevel (isSup s.cur.1) n.toNat with
    | none => s.trap illegalOp (trapVal i)
    | some lv => s.issue i lv fun s => s.withRegs i [a] fun s =>
      let v := s.cx.reg a
      if s.me.refuses n.toNat v then s.trap illegalOp (trapVal i)
      else if n.toNat = 10 ∧ s.cx.level.num < (Level.ofNum (bits v 6 2)).num then s.trap privilege (trapVal i)
      else (s.sprWrite n.toNat v).finish)

/-- HBTIV by MTS (R103): the interval is set and the burner count reloaded. -/
def execHbtivWrite (a : Reg) (s : State) : Res :=
  let i : Instr := .hbtivWrite a
  .next (s.issue i .t fun s => s.withRegs i [a] fun s =>
    let c := s.cx
    (s.setCx ({ c with spr := { c.spr with hbtiv := (c.reg a).truncate 32 } }.reload s.now)).finish)

/-- A context's vector commands that have not completed: queued, started, or still to be placed by the sequencer for a run that it issued
(R197). -/
def Core.vecBusy (c : Core) (x : Nat) : Bool :=
  c.vec.cmds.any (fun q => q.ctx == x) || c.toPlace x (fun q => !q.hint && engOf q.instr == .vec)

/-- NFLAG by MFS (R24): it waits for the context's earlier vector commands. -/
def execNflagRead (d : Reg) (s : State) : Res :=
  .next (s.issue (.nflagRead d) .u fun s =>
    if s.me.vecBusy s.cur.2 then s.park .wide else s.done d (s.cx.spr.nflag.zeroExtend 64))

/-! ### Links (R230, R231) -/

/-- The core that a core faces: 0 north, 1 east, 2 south, 3 west; none beyond the mesh. -/
def facing (k dir : Nat) : Option Nat :=
  let x := coreX k
  let y := coreY k
  if dir = 0 then (if y = 0 then none else some (coreAt x (y - 1)))
  else if dir = 1 then (if x = 63 then none else some (coreAt (x + 1) y))
  else if dir = 2 then (if y = 63 then none else some (coreAt x (y + 1)))
  else (if x = 0 then none else some (coreAt (x - 1) y))

/-- The check of a link access (R230): the cause, or the facing core. -/
def State.linkCheck (s : State) (dir : Nat) (write : Bool) : Except (BitVec 8) Nat :=
  let k := s.cur.1
  match facing k dir with
  | none => .error localBounds
  | some q =>
    if s.disabled.contains q || (s.stat q).fenced || (s.stat q).killed then .error localBounds
    else if isSup q then .ok q
    else if isSup k then (if write && s.cx.level != .s then .error territory else .ok q)
    else if s.tagOf k = s.tagOf q ∧ (s.tagOf k).isSome then .ok q
    else .error territory

/-- MFS of LN to LW (R230): the read empties the link, and parks while it is empty. -/
def execLinkRead (d : Reg) (l : BitVec 2) (s : State) : Res :=
  let i : Instr := .linkRead d l
  .next (s.issue i .u fun s =>
    match s.linkCheck l.toNat false with
    | .error c => s.trap c (trapVal i)
    | .ok _ =>
      let m := s.me
      match m.links[l.toNat] with
      | none => s.park .link
      | some v => (s.setMe { m with links := m.links.set l.toNat none }).done d v)

/-- MTS to XN to XW (R230, R231): the facing link is filled, and the writer parks while it is full. -/
def execLinkWrite (a : Reg) (l : BitVec 2) (s : State) : Res :=
  let i : Instr := .linkWrite a l
  .next (s.issue i .u fun s => s.withRegs i [a] fun s =>
    match s.linkCheck l.toNat true with
    | .error c => s.trap c (trapVal i)
    | .ok q =>
      let m := s.core q
      let f : BitVec 2 := l + 2
      match m.links[f.toNat] with
      | some _ => s.park .link
      | none => (s.setCore q { m with links := m.links.set f.toNat (some (s.cx.reg a)) }).finish)

end Sys2Proof.Machine
end

