-- ==== Sys2Proof/Machine/Vector.lean ====
section
/-! DEFINITION. The vector unit's work (R154 to R167, R170, R171): what a command computes when it starts, and what takes effect when it
completes. -/

namespace Sys2Proof.Machine

/-! ### Elements (Table 1.6) -/

def isFloat (t : Nat) : Bool := 6 ≤ t
def isSigned (t : Nat) : Bool := t == 0 || t == 2 || t == 4
def fmtOf (t : Nat) : FFmt :=
  if t = 6 then fF16 else if t = 7 then fBF16 else if t = 8 then fF32 else if t = 9 then fE4M3 else fE5M2
/-- Bits of an element. -/
def tyW (t : Nat) : Nat := 8 * tyBytes t
/-- An integer element's value. -/
def elemInt (t v : Nat) : Int := if isSigned t then signedN (tyBytes t) v else v
def tyLo (t : Nat) : Int := if isSigned t then -(2 ^ (tyW t - 1)) else 0
def tyHi (t : Nat) : Int := if isSigned t then 2 ^ (tyW t - 1) - 1 else 2 ^ tyW t - 1
/-- wrap(v, 8w). -/
def wrapTo (t : Nat) (v : Int) : Nat := (v % 2 ^ tyW t).toNat

/-- A lane's bits and flags. -/
abbrev LaneR := Nat × Nat

/-- A float result rounded in its type (R157). -/
def roundLane (t : Nat) (r : Num) (nv : Bool) : LaneR :=
  let x := (fmtOf t).round false r
  (x.1, x.2 ||| (if nv then flNV else 0))

/-- Integer or float by the type. -/
def lane2 (t : Nat) (fi : Int → Int → Int) (ff : Num → Num → Num) (a b : Nat) : LaneR :=
  if isFloat t then
    let x := (fmtOf t).dec a
    let y := (fmtOf t).dec b
    let r := ff x y
    roundLane t r (invalid2 x y r)
  else (wrapTo t (fi (elemInt t a) (elemInt t b)), 0)

def laneAdd (t a b : Nat) : LaneR := lane2 t (· + ·) Num.add a b
def laneSub (t a b : Nat) : LaneR := lane2 t (· - ·) (fun x y => x.add y.neg) a b
def laneMul (t a b : Nat) : LaneR := lane2 t (· * ·) Num.mul a b
/-- VFMA (R157). Where the product is 0 × ±Inf and the addend is a NaN the rule says both that NV is set and that a NaN operand sets none:
the model sets none (DESIGN CHOICE, log entry 78). -/
def laneFma (t a b d : Nat) : LaneR :=
  if isFloat t then
    let f := fmtOf t
    let x := f.dec a
    let y := f.dec b
    let z := f.dec d
    let r := (x.mul y).add z
    roundLane t r (r.isNan && !x.isNan && !y.isNan && !z.isNan)
  else (wrapTo t (elemInt t a * elemInt t b + elemInt t d), 0)

/-- The smaller (or larger) lane; −0 orders below +0, and a NaN operand gives the canonical NaN. -/
def lanePick (t : Nat) (max : Bool) (a b : Nat) : LaneR :=
  if isFloat t then
    let x := (fmtOf t).dec a
    let y := (fmtOf t).dec b
    if x.isNan || y.isNan then ((fmtOf t).nan, 0)
    else
      let less := x.lt y || (x.eq y && x.isNeg && !y.isNeg)
      (if less != max then a else b, 0)
  else (if (elemInt t a < elemInt t b) != max then a else b, 0)

def laneAbs (t a : Nat) : LaneR :=
  if isFloat t then (if ((fmtOf t).dec a).isNan then (fmtOf t).nan else a % 2 ^ (tyW t - 1), 0)
  else (wrapTo t (elemInt t a).natAbs, 0)
def laneNeg (t a : Nat) : LaneR :=
  if isFloat t then (if ((fmtOf t).dec a).isNan then (fmtOf t).nan else a ^^^ 2 ^ (tyW t - 1), 0)
  else (wrapTo t (-(elemInt t a)), 0)

/-- A clamped integer result; a clamp sets SAT. -/
def laneSat (t : Nat) (v : Int) : LaneR :=
  let c := clampI v (tyLo t) (tyHi t)
  (wrapTo t c.1, if c.2 then flSAT else 0)

def laneSra (t a n : Nat) : Nat := (((signedN (tyBytes t) a) / 2 ^ n) % 2 ^ tyW t).toNat
def laneClamp (t a lo hi : Nat) : LaneR := lanePick t false (lanePick t true a lo).1 hi

/-- VCVT (R160). R23 states a clamp from an integer to a narrower integer alone: that a conversion between integers of other signedness clamps
and sets SAT at an equal or a greater width too is a DESIGN CHOICE (log entry 79). -/
def laneCvt (t dt : Nat) (sat : Bool) (a : Nat) : LaneR :=
  if isFloat dt then
    (fmtOf dt).round sat (if isFloat t then (fmtOf t).dec a else Num.ofInt (elemInt t a))
  else if isFloat t then
    let r := toIntRange ((fmtOf t).dec a) (tyLo dt) (tyHi dt)
    (wrapTo dt r.1, r.2)
  else laneSat dt (elemInt t a)

/-- The lane result of a VOP with sources a and b, the old destination d, and a QS entry (Table 8.3). -/
def vopLane (i : Instr) (q : Word) (a b d : Nat) : LaneR :=
  match i with
  | .vadd _ _ _ _ t _ _ => laneAdd t.toNat a b
  | .vsub _ _ _ _ t _ _ => laneSub t.toNat a b
  | .vmul _ _ _ _ t _ _ => laneMul t.toNat a b
  | .vfma _ _ _ _ t _ _ => laneFma t.toNat a b d
  | .vmin _ _ _ _ t _ _ => lanePick t.toNat false a b
  | .vmax _ _ _ _ t _ _ => lanePick t.toNat true a b
  | .vabs _ _ _ t _ _ => laneAbs t.toNat a
  | .vneg _ _ _ t _ _ => laneNeg t.toNat a
  | .vand .. => (a &&& b, 0)
  | .vor .. => (a ||| b, 0)
  | .vxor .. => (a ^^^ b, 0)
  | .vshl _ _ _ _ t _ _ => (a * 2 ^ (b % tyW t.toNat) % 2 ^ tyW t.toNat, 0)
  | .vshr _ _ _ _ t _ _ => (a / 2 ^ (b % tyW t.toNat), 0)
  | .vsra _ _ _ _ t _ _ => (laneSra t.toNat a (b % tyW t.toNat), 0)
  | .vcvt _ _ u _ t _ _ v st => laneCvt t.toNat (2 * u.toNat + ofBool v) st a
  | .vrcp _ _ _ t _ _ => (rcpOf ((fmtOf t.toNat).dec a)).round (fmtOf t.toNat)
  | .vrsq _ _ _ t _ _ => (rsqOf ((fmtOf t.toNat).dec a)).round (fmtOf t.toNat)
  | .vexp2 _ _ _ t _ _ => (exp2Of ((fmtOf t.toNat).dec a)).round (fmtOf t.toNat)
  | .vlog2 _ _ _ t _ _ => (log2Of ((fmtOf t.toNat).dec a)).round (fmtOf t.toNat)
  | .vmov .. => (a, 0)
  | .vsplat _ _ t _ _ => (q.toNat % 2 ^ tyW t.toNat, 0)
  | .vclamp _ _ _ t _ _ => laneClamp t.toNat a (q.toNat % 2 ^ tyW t.toNat) (q.toNat / 2 ^ 32 % 2 ^ tyW t.toNat)
  | .vadds _ _ _ _ t _ _ => laneSat t.toNat (elemInt t.toNat a + elemInt t.toNat b)
  | .vsubs _ _ _ _ t _ _ => laneSat t.toNat (elemInt t.toNat a - elemInt t.toNat b)
  | .vmulh _ _ _ _ t _ _ => (wrapTo t.toNat (elemInt t.toNat a * elemInt t.toNat b / 2 ^ tyW t.toNat), 0)
  | _ => (0, 0)

/-- The relation of a VCMP word (R162). -/
def vcmpLane (i : Instr) (a b : Nat) : Bool :=
  let rel (t : Nat) (ri : Int → Int → Bool) (rf : Num → Num → Bool) (nan : Bool) : Bool :=
    if isFloat t then
      let x := (fmtOf t).dec a
      let y := (fmtOf t).dec b
      if x.isNan || y.isNan then nan else rf x y
    else ri (elemInt t a) (elemInt t b)
  match i with
  | .vceq _ _ _ _ t _ _ => rel t.toNat (· == ·) Num.eq false
  | .vcne _ _ _ _ t _ _ => rel t.toNat (· != ·) (fun x y => !x.eq y) true
  | .vclt _ _ _ _ t _ _ => rel t.toNat (· < ·) Num.lt false
  | .vcle _ _ _ _ t _ _ => rel t.toNat (· ≤ ·) (fun x y => x.lt y || x.eq y) false
  | .vcgt _ _ _ _ t _ _ => rel t.toNat (fun x y => y < x) (fun x y => y.lt x) false
  | .vcge _ _ _ _ t _ _ => rel t.toNat (fun x y => y ≤ x) (fun x y => y.lt x || x.eq y) false
  | .vcun _ _ _ _ t _ _ => rel t.toNat (fun _ _ => false) (fun _ _ => false) true
  | _ => false

/-! ### Lanes in memory -/

/-- Lane j's bits, and whether its 64-bit word is poisoned. -/
def Core.lane (c : Core) (a w j : Nat) : Nat × Bool := (mnat c.lmem (a + j * w) w, c.poisoned (a + j * w) w)

/-- Lanes to write, as runs of bytes. -/
def runs (w : Nat) : Nat → List (Option Nat) → List (Nat × List Byte)
  | _, [] => []
  | a, none :: r => runs w (a + w) r
  | a, some v :: r =>
    match runs w (a + w) r with
    | (b, bs) :: t => if b = a + w then (a, leBytes w v ++ bs) :: t else (a, leBytes w v) :: (b, bs) :: t
    | [] => [(a, leBytes w v)]

/-- A destination vector of R154: lane results under a mask, zeroing, and poison. -/
def Started.dest (r : Started) (d w : Nat) (m : BitVec 16) (z mbad : Bool) (lanes : List (LaneR × Bool)) : Started :=
  let out := (List.range 16).map (fun j => if m.getLsbD j || mbad then some (lanes.getD j ((0, 0), false)).1.1 else if z then some 0 else none)
  let bad := (List.range 16).filter (fun j => mbad || (m.getLsbD j && (lanes.getD j ((0, 0), false)).2))
  let fl := (List.range 16).foldl (fun f j => if m.getLsbD j then f ||| (lanes.getD j ((0, 0), false)).1.2 else f) 0
  { r with writes := runs w d out, poison := bad.map (fun j => (d + j * w) / 8), flags := BitVec.ofNat 6 fl }

/-- Element-wise commands: sources of widths `wa` and `wb` where they are read, destination of width `wd`. -/
def Core.elementwise (c : Core) (r : Started) (h : Ctx) (m : Ptr) (z : Bool) (d wd : Nat) (a b : Option (Nat × Nat)) (rd : Bool)
    (f : Nat → Nat → Nat → LaneR) : Started :=
  let src (s : Option (Nat × Nat)) (j : Nat) : Nat × Bool := match s with | some (p, w) => c.lane p w j | none => (0, false)
  let lanes := (List.range 16).map (fun j =>
    let x := src a j
    let y := src b j
    let o := if rd then c.lane d wd j else (0, false)
    (f x.1 y.1 o.1, x.2 || y.2 || o.2))
  r.dest d wd (h.mask m) z (h.maskBad m) lanes

/-! ### Reductions (R163) -/

/-- One level of the tree. -/
def pairUp (f : Nat → Nat → LaneR) : List LaneR → List LaneR
  | a :: b :: r => let x := f a.1 b.1; (x.1, a.2 ||| b.2 ||| x.2) :: pairUp f r
  | l => l

/-- The identity of Table 8.5. -/
def redIdentity (t op : Nat) : Nat :=
  if op = 0 then (if isFloat t then (fmtOf t).sign true else 0)
  else if op = 1 then (if isFloat t then (fmtOf t).infinity false else wrapTo t (tyHi t))
  else if op = 2 then (if isFloat t then (fmtOf t).infinity true else wrapTo t (tyLo t))
  else if op = 3 then 2 ^ tyW t - 1
  else 0

/-- VRED's result and flags over sixteen lanes, masked-off lanes already replaced. -/
def reduce (t op : Nat) (ls : List Nat) : Word × Nat :=
  if op = 0 ∧ !isFloat t then (BitVec.ofInt 64 ((ls.map (elemInt t)).sum), 0)
  else
    let f : Nat → Nat → LaneR :=
      if op = 0 then laneAdd t else if op = 1 then lanePick t false else if op = 2 then lanePick t true
      else if op = 3 then (fun a b => (a &&& b, 0)) else if op = 4 then (fun a b => (a ||| b, 0)) else (fun a b => (a ^^^ b, 0))
    let r := (pairUp f (pairUp f (pairUp f (pairUp f (ls.map (fun v => (v, 0))))))).headD (0, 0)
    if (op = 1 ∨ op = 2) ∧ !isFloat t then (BitVec.ofInt 64 (elemInt t r.1), 0) else (word r.1, r.2)

/-- A mask result. -/
def Started.toMask (r : Started) (d : Reg) (v : BitVec 16) (bad : Bool) : Started := { r with mask := some (d.truncate 3, v, bad) }
def Started.toQw (r : Started) (v : Nat) (bad : Bool) : Started := { r with qw := some (word v, bad) }

/-- The masks of a MASK word, by their 5-bit fields. -/
def Ctx.mask5 (h : Ctx) (m : Reg) : BitVec 16 := h.mask (m.truncate 3)
def Ctx.mbad5 (h : Ctx) (m : Reg) : Bool := h.maskBad (m.truncate 3)

/-- What a vector command computes from the core as it stands when the command starts, with the QS entry it took. -/
def Core.vecCompute (c : Core) (q : Cmd) (e : Word) : Started :=
  let h := c.wctx q.ctx
  let r := q.begin
  let p (n : Nat) : Nat := q.ptr.getD n 0
  let two (m : Ptr) (t : BitVec 4) (z : Bool) (rd : Bool) : Started :=
    let w := tyBytes t.toNat
    c.elementwise r h m z (p 0) w (some (p 1, w)) (some (p 2, w)) rd (fun a b d => vopLane q.instr e a b d)
  let one (m : Ptr) (t : BitVec 4) (z : Bool) : Started :=
    let w := tyBytes t.toNat
    c.elementwise r h m z (p 0) w (some (p 1, w)) none false (fun a b d => vopLane q.instr e a b d)
  let cmp (d : Ptr) (m : Ptr) (t : BitVec 4) (z : Bool) : Started :=
    let w := tyBytes t.toNat
    let act := h.mask m
    let ls := (List.range 16).map (fun j => (c.lane (p 0) w j, c.lane (p 1) w j))
    let bitOf (j : Nat) : Bool :=
      if act.getLsbD j then (let l := ls.getD j ((0, false), (0, false)); vcmpLane q.instr l.1.1 l.2.1)
      else if z then false else (h.mask d).getLsbD j
    let bad := h.maskBad m || (!z && act != 0xFFFF && h.maskBad d)
      || (List.range 16).any (fun j => act.getLsbD j && (let l := ls.getD j ((0, false), (0, false)); l.1.2 || l.2.2))
    { r with mask := some (d, BitVec.ofNat 16 (((List.range 16).map (fun j => if bitOf j then 2 ^ j else 0)).sum), bad) }
  match q.instr with
  | .vadd _ _ _ m t _ z | .vsub _ _ _ m t _ z | .vmul _ _ _ m t _ z | .vmin _ _ _ m t _ z | .vmax _ _ _ m t _ z
  | .vand _ _ _ m t _ z | .vor _ _ _ m t _ z | .vxor _ _ _ m t _ z | .vshl _ _ _ m t _ z | .vshr _ _ _ m t _ z
  | .vsra _ _ _ m t _ z | .vadds _ _ _ m t _ z | .vsubs _ _ _ m t _ z | .vmulh _ _ _ m t _ z => two m t z false
  | .vfma _ _ _ m t _ z => two m t z true
  | .vabs _ _ m t _ z | .vneg _ _ m t _ z | .vrcp _ _ m t _ z | .vrsq _ _ m t _ z | .vexp2 _ _ m t _ z | .vlog2 _ _ m t _ z
  | .vmov _ _ m t _ z | .vclamp _ _ m t _ z => one m t z
  | .vsplat _ m t _ z => c.elementwise r h m z (p 0) (tyBytes t.toNat) none none false (fun a b d => vopLane q.instr e a b d)
  | .vcvt _ _ u m t _ z v _ =>
    c.elementwise r h m z (p 0) (tyBytes (2 * u.toNat + ofBool v)) (some (p 1, tyBytes t.toNat)) none false
      (fun a b d => vopLane q.instr e a b d)
  | .vsel _ _ _ m t _ =>
    let w := tyBytes t.toNat
    let sel := h.mask m
    let lanes := (List.range 16).map (fun j => if sel.getLsbD j then c.lane (p 1) w j else c.lane (p 2) w j)
    r.dest (p 0) w 0xFFFF false (h.maskBad m) (lanes.map (fun l => ((l.1, 0), l.2)))
  | .vceq d _ _ m t _ z | .vcne d _ _ m t _ z | .vclt d _ _ m t _ z | .vcle d _ _ m t _ z | .vcgt d _ _ m t _ z
  | .vcge d _ _ m t _ z | .vcun d _ _ m t _ z => cmp d m t z
  | .vred _ m t _ xs =>
    let w := tyBytes t.toNat
    let act := h.mask m
    let ls := (List.range 16).map (fun j => if act.getLsbD j then c.lane (p 0) w j else (redIdentity t.toNat xs.toNat, false))
    let v := reduce t.toNat xs.toNat (ls.map (·.1))
    { r with qw := some (v.1, h.maskBad m || ls.any (·.2)), flags := BitVec.ofNat 6 v.2 }
  | .vperm _ _ _ m t _ z =>
    let w := tyBytes t.toNat
    let lanes := (List.range 16).map (fun j =>
      let x := c.lane (p 2) w j
      let y := c.lane (p 1) w (x.1 % 16)
      (((y.1, 0), x.2 || y.2) : LaneR × Bool))
    r.dest (p 0) w (h.mask m) z (h.maskBad m) lanes
  | .vgath _ _ _ m t _ z =>
    let w := tyBytes t.toNat
    let lanes := (List.range 16).map (fun j =>
      let x := c.lane (p 2) 2 j
      let y := c.lane (p 1) w (x.1 % 4096)
      (((y.1, 0), x.2 || y.2) : LaneR × Bool))
    r.dest (p 0) w (h.mask m) z (h.maskBad m) lanes
  | .vscat _ _ _ m t _ =>
    let w := tyBytes t.toNat
    let ls := (List.range 16).filterMap (fun j =>
      if (h.mask m).getLsbD j || h.maskBad m then
        let x := c.lane (p 2) 2 j
        let y := c.lane (p 1) w j
        some (p 0 + w * (x.1 % 4096), y.1, x.2 || y.2 || h.maskBad m)
      else none)
    { r with writes := ls.map (fun l => (l.1, leBytes w l.2.1)), poison := (ls.filter (·.2.2)).map (fun l => l.1 / 8) }
  | .vcomp _ _ m t _ z cnt =>
    let w := tyBytes t.toNat
    let act := ((List.range 16).filter (fun j => (h.mask m).getLsbD j)).map (fun j => c.lane (p 1) w j)
    let n := act.length
    let r1 := r.dest (p 0) w (BitVec.ofNat 16 (2 ^ n - 1)) z (h.maskBad m) (act.map (fun l => ((l.1, 0), l.2)))
    if cnt then r1.toQw n (h.maskBad m) else r1
  | .mand d a b => r.toMask d (h.mask5 a &&& h.mask5 b) (h.mbad5 a || h.mbad5 b)
  | .mor d a b => r.toMask d (h.mask5 a ||| h.mask5 b) (h.mbad5 a || h.mbad5 b)
  | .mxor d a b => r.toMask d (h.mask5 a ^^^ h.mask5 b) (h.mbad5 a || h.mbad5 b)
  | .mnot d a => r.toMask d (~~~(h.mask5 a)) (h.mbad5 a)
  | .mset d _ _ => r.toMask d ((q.vals.headD 0).truncate 16) false
  | .mpop a => r.toQw (popNat 16 (h.mask5 a).toNat) (h.mbad5 a)
  | .many a => r.toQw (if h.mask5 a ≠ 0 then 1 else 0) (h.mbad5 a)
  | .mall a => r.toQw (if h.mask5 a = 0xFFFF then 1 else 0) (h.mbad5 a)
  | .mget a => r.toQw (h.mask5 a).toNat (h.mbad5 a)
  | _ => r

/-- VPREF's next line (R165): it is asked for as a plain LDG of the whole line would ask for it, once its page is translated; a page that does
not translate is skipped. The command completes when its last request has left. -/
def State.prefetchNext (s : State) (k : Nat) (r : Started) (n : Nat) : State :=
  let q := r.cmd
  let line := (q.vals.headD 0).toNat / 64 + r.pos
  let a := line * 64 % 2 ^ 64
  let goOn (s : State) (pos : Nat) : State :=
    s.setCore k (if n ≤ pos then (s.core k).dropOlder .vec q else (s.core k).setOlder .vec { r with pos := pos })
  if (s.core k).spr.stashBusy then s
  else
    match s.engineTranslate k 0 a q.uid with
    | (s1, none) => s1
    | (s1, some (.error _)) => goOn s1 (r.pos + (64 - line % 64))
    | (s1, some (.ok (pa, attr))) =>
      let c := s1.core k
      goOn (
        if attr ≠ 0 || isReg pa || s1.noStorage pa || c.stashSets = 0 then s1
        else
          match c.findLine pa with
          | some (_, l) => if l.v = 0xFFFF then s1 else s1.askFill k q.ctx pa q.cache false
          | none =>
            -- under no-allocate the line is read at its home slice and stays out of the stash (R48, R135)
            if q.cache.toNat % 4 = 1 then s1.bump.request k q.ctx s1.uid pa (.read 64) q.cache 0
            else (s1.allocLine k q.ctx a pa (q.cache.toNat % 4 = 2)).1.askFill k q.ctx pa q.cache (q.cache.toNat % 4 = 2)) (r.pos + 1)

/-- The granules that a vector command reads: its sources, the old destination of VFMA, and for VGATH its indices and then the lanes that they
name. -/
def Core.vecNeeds (c : Core) (r : Started) : List Nat :=
  let q := r.cmd
  let p (n : Nat) : Nat := q.ptr.getD n 0
  let uses := (ptrUses q.instr).zip q.ptr
  match q.instr with
  | .vgath _ _ _ m t _ _ =>
    let idx := granules (p 2) 32
    let h := c.wctx q.ctx
    let lanes := (List.range 16).filter (fun j => (h.mask m).getLsbD j || h.maskBad m)
    idx ++ (if idx.all r.got.contains then
      lanes.map (fun j => (p 1 + tyBytes t.toNat * (((c.seen r).lane (p 2) 2 j).1 % 4096)) / 64) else [])
  | .vfma .. => uses.flatMap (fun u => granules u.2 u.1.len)
  | _ => (uses.filter (fun u => !u.1.wr)).flatMap (fun u => granules u.2 u.1.len)

/-- A read grant of the command that the unit reads for (R130); with the last one it has what it computes from, and the unit can go on to
another command while this one's results are still to take effect (R171). -/
def State.vecRead (s : State) (k : Nat) (r : Started) (want : Option Nat) : State :=
  let n := (s.core k).readNext r ((s.core k).vecNeeds r) want
  let c := n.1
  let r1 := n.2
  if (c.vecNeeds r1).all r1.got.contains then
    s.setCore k ((c.setRun .vec none).addOlder .vec ((c.seen r1).vecCompute r.cmd (r.cmd.vals.headD 0)).cut)
  else s.setCore k (c.setRun .vec (some { r1 with phase := 0 }))

/-- The vector unit takes a command, or reads the granule `want` for the one that it has taken (R151). -/
def State.vecStart (s : State) (core : Nat) (want : Option Nat) : State :=
  match (s.core core).vec.run with
  | some r => if s.works core then s.vecRead core r want else s
  | none =>
    s.startNext core .vec fun q s =>
      match q.instr with
      | .vpref _ => s.setCore core ((s.core core).addOlder .vec q.begin)
      | _ => s.vecRead core q.begin want

/-- VECTOR_COMMAND_START (R151): the unit takes a command with its QS entry and reads for it, a granule at a time. -/
def execVectorCommandStart (core : Nat) (s : State) : Res := .next (s.vecStart core none)

/-- The oldest started command of a context writes granule `want`, or asks for VPREF's next line; with its last one its mask, its QW entry and its flags take effect. -/
def State.vecWrite (s : State) (core cx : Nat) (want : Option Nat) : State :=
  let c := s.core core
  match c.vec.olderOf cx with
  | none => s
  | some r =>
    let q := r.cmd
    match q.instr with
    | .vpref n => s.prefetchNext core r (2 ^ n.toNat)
    | _ =>
    let g := c.grant r want
    if !g.2.writes.isEmpty then s.setCore core (g.1.setOlder .vec g.2)
    else
      let c1 := g.1.dropOlder .vec q
      let h := c1.wctx q.ctx
      let h1 := match r.mask with | some (d, v, bad) => h.setMask d v bad | none => h
      let h2 := if h.spr.nflagFrom ≤ q.uid then orFlags h1 r.flags else h1
      let c2 := c1.setWctx q.ctx h2
      s.setCore core (match r.qw with | some v => c2.deliver q v | none => c2)

/-- VECTOR_COMMAND_COMPLETE (R154, R166, R171): the oldest started command of a context writes a granule, and completes with the last one. -/
def execVectorCommandComplete (o : CtxAt) (s : State) : Res := .next (s.vecWrite o.core o.ctx none)

end Sys2Proof.Machine
end

