-- ==== Sys2Proof/Machine/Matrix.lean ====
section
/-! DEFINITION. The matrix slice (R244 to R264): operand elements (R14 to R19), K-steps (R26 to R30), the bridle's matrix arrivals, the
checksums, and pre-emption; MATRIX_COMMAND_START, BRIDLE_FIRE, MATRIX_PREEMPT, MATRIX_COMPLETE and ACC_VERDICT. -/

namespace Sys2Proof.Machine

/-! ### Elements (R13 to R19) -/

/-- A two's-complement number of `w` bits. -/
def signedW (w v : Nat) : Int := if v < 2 ^ (w - 1) then v else (v : Int) - 2 ^ w

/-- The value of T2 (Table 1.1). -/
def t2 (q : Nat) : Int := if q = 1 then 1 else if q = 3 then -1 else 0

/-- An integer element of formats 10 to 16. -/
def elemOfInt (f q : Nat) : Int :=
  if f = 10 then signedW 16 q else if f = 11 ∨ f = 25 then signedW 8 q else if f = 13 ∨ f = 26 then signedW 4 q
  else if f = 15 then signedW 2 q else if f = 16 ∨ f = 27 then t2 q else (q : Int)

/-- The element of a format without its scale; the low bits of an F19 container are ignored (R14). -/
def elemBase (f q : Nat) : Num :=
  if f = 0 then fF32.dec q
  else if f = 1 then fF32.dec (q / 8192 * 8192)
  else if f = 2 then fBF16.dec q
  else if f = 3 then fF16.dec q
  else if f = 4 ∨ f = 20 then fE5M2.dec q
  else if f = 5 ∨ f = 19 then fE4M3.dec q
  else if f = 6 then fE3M4.dec q
  else if f = 7 ∨ f = 21 then fE3M2.dec q
  else if f = 8 ∨ f = 22 then fE2M3.dec q
  else if f = 9 ∨ f = 23 ∨ f = 24 then fE2M1.dec q
  else Num.ofInt (elemOfInt f q)

/-- decode_lcw2 of R19, each weight doubled. -/
def lattice2 (idx : Nat) : List Int :=
  let h := idx / 2 ^ 15 % 2
  let s := idx / 256 % 128
  let p := idx % 256
  let mag (v : Nat) : Int := ((2 * v + h : Nat) : Int)
  let ws := (List.range 7).map (fun j => if s / 2 ^ j % 2 = 1 then -mag (p / 2 ^ j % 2) else mag (p / 2 ^ j % 2))
  let p7 := p / 128 % 2
  let w7 : Int :=
    if h = 1 then (if (ws.sum + mag p7) % 4 = 0 then mag p7 else -mag p7)
    else
      let m := if popNat 8 p % 2 = 0 then p7 else p7 + 1
      if popNat 7 s % 2 = 1 then -mag m else mag m
  ws ++ [w7]

/-- A P8 scale (R17). -/
def p8 (e : Nat) : Num := if e = 255 then .nan else .fin false 1 ((e : Int) - 127)

/-- The decoded value (R18, Table 1.4) of element `j` of a chunk that begins at column `lo`: the chunk's bits, the block's scale record, and
the L4 table. -/
def elemAt (f : Nat) (tab : List Nat) (lo raw scale j : Nat) : Num :=
  let w := fmtBits f
  let q := raw / 2 ^ (w * j) % 2 ^ w
  if f = 17 then fF16.dec (tab.getD q 0)
  else if f = 18 then
    let v := (lattice2 (raw / 2 ^ (16 * (j / 8)) % 65536)).getD (j % 8) 0
    (Num.fin (v < 0) v.natAbs (-1)).mul (p8 (scale % 256))
  else if f = 24 then
    let o := scale / 2 ^ (16 + 2 * ((lo + j) % 64 / 16)) % 4
    ((elemBase f q).mul (fBF16.dec (scale % 65536))).mul (.fin false 1 (-(o : Int)))
  else if f = 26 then (Num.ofInt (signedW 4 q - signedW 8 (scale / 65536 % 256))).mul (fF16.dec (scale % 65536))
  else if f = 27 then (elemBase f q).mul (fF16.dec (scale % 65536))
  else if 19 ≤ f ∧ f ≤ 25 then (elemBase f q).mul (p8 (scale % 256))
  else elemBase f q

/-- The 32-bit pattern that a microprogram works on (R260). -/
def elemPattern (f raw j : Nat) : Nat :=
  let w := fmtBits f
  let q := raw / 2 ^ (w * j) % 2 ^ w
  if f = 0 then q else if f = 1 then q / 8192 * 8192 else if f < 10 then toF32 (elemBase f q) else (BitVec.ofInt 32 (elemOfInt f q)).toNat

/-! ### K-steps (R26 to R30) -/

/-- The accumulator type of a pair (R26). -/
def accI32 (fa fb : Nat) : Bool := 10 ≤ fa && fa ≤ 16 && 10 ≤ fb && fb ≤ 16

/-- kstep_f32 (R27). -/
def kstepF32 (acc : Nat) (as bs : List Num) : Nat := toF32 ((as.zipWith Num.mul bs).foldl Num.add (f32 acc))

/-- The integer that an exact integer value is. -/
def Num.int : Num → Int
  | .fin s m e => if s then -(m * 2 ^ e.toNat : Nat) else (m * 2 ^ e.toNat : Nat)
  | _ => 0

/-- A K-step in I32 (R28). -/
def kstepI32 (acc : Nat) (as bs : List Num) : Nat :=
  (BitVec.ofInt 32 (acc + ((as.map Num.int).zipWith (· * ·) (bs.map Num.int)).sum)).toNat

/-- What a micro-operation works on: s, a, b, k0, k1 (Table 13.8). -/
structure Micro where
  s : Nat
  a : Nat
  b : Nat
  k0 : Nat
  k1 : Nat
  deriving DecidableEq, Repr

def Micro.get (r : Micro) (n : Nat) : Nat :=
  if n = 0 then r.s else if n = 1 then r.a else if n = 2 then r.b else if n = 3 then r.k0 else r.k1
def Micro.set (r : Micro) (n v : Nat) : Micro :=
  if n = 0 then { r with s := v } else if n = 1 then { r with k0 := v } else { r with k1 := v }

/-- One micro-operation (R260), in the vector types i32 (4) and f32 (8). -/
def Micro.step (i32 : Bool) (r : Micro) (m : BitVec 16) : Micro :=
  let v := m.toNat
  let op := v / 4096
  let t := if i32 then 4 else 8
  let x := r.get (v / 128 % 8)
  let y := r.get (v / 16 % 8)
  let d := v / 1024 % 4
  let gt : Bool := if i32 then signedN 4 y < signedN 4 x else (f32 y).lt (f32 x)
  if op = 0 then r.set d (laneAdd t x y).1
  else if op = 1 then r.set d (laneSub t x y).1
  else if op = 2 then r.set d (laneMul t x y).1
  else if op = 3 then r.set d (lanePick t false x y).1
  else if op = 4 then r.set d (lanePick t true x y).1
  else if op = 5 then r.set d (x &&& y)
  else if op = 6 then r.set d (x ||| y)
  else if op = 7 then r.set d (x ^^^ y)
  else if op = 8 then r.set d x
  else if gt then r.set d (r.get (v / 2 % 8)) else r

/-- A word's K-step under a microprogram: k in ascending order (R30). -/
def kstepProg (i32 : Bool) (prog : List (BitVec 16)) (acc : Nat) (as bs : List Nat) : Nat :=
  (as.zip bs).foldl (fun s k => (prog.foldl (Micro.step i32) ⟨s, k.1, k.2, 0, 0⟩).s) acc

/-! ### Accumulators (R245, R256) -/

/-- A word put in a table in which an unlisted one is 0. -/
def hput (m : KMap Half) (k v : Nat) : KMap Half := if v = 0 then kdel m k else kput m k (BitVec.ofNat 32 v)
def hget (m : KMap Half) (k : Nat) : Nat := ((kget m k).getD 0).toNat
def Slice.acc (x : Slice) (a1 : Bool) : KMap Half := if a1 then x.a1 else x.a0
def Slice.cs (x : Slice) (a1 : Bool) : KMap Half := if a1 then x.cs1 else x.cs0
def Slice.tag (x : Slice) (a1 : Bool) : AccTag := if a1 then x.tag1 else x.tag0
def Slice.setAcc (x : Slice) (a1 : Bool) (acc cs : KMap Half) (t : AccTag) : Slice :=
  if a1 then { x with a1 := acc, cs1 := cs, tag1 := t } else { x with a0 := acc, cs0 := cs, tag0 := t }
/-- Word (r, c). -/
def Slice.word (x : Slice) (a1 : Bool) (r c : Nat) : Nat := hget (x.acc a1) (128 * r + c)
/-- Writes a word, and its row's checksum with it (R256). -/
def Slice.put (x : Slice) (a1 : Bool) (r c v : Nat) : Slice :=
  x.setAcc a1 (hput (x.acc a1) (128 * r + c) v) (hput (x.cs a1) r (hget (x.cs a1) r ^^^ x.word a1 r c ^^^ v)) (x.tag a1)
/-- A row whose XOR differs from its checksum. -/
def Slice.rowBad (x : Slice) (a1 : Bool) (r : Nat) : Bool :=
  ((List.range 128).foldl (fun v c => v ^^^ x.word a1 r c) 0) != hget (x.cs a1) r
/-- The mask of failed rows (R258). -/
def Slice.badRows (x : Slice) (a1 : Bool) : Nat := ((List.range 32).filter (x.rowBad a1)).foldl (fun m r => m + 2 ^ r) 0
/-- MZERO (R255). -/
def Slice.zeroed (x : Slice) (a1 : Bool) : Slice := x.setAcc a1 [] [] .none

/-! ### Reading operands -/

/-- A line that the slice has read, or has asked for, for an operation; lines of another are dropped. -/
def State.keepGlob (s : State) (k : Nat) (g : GlobRead) : State :=
  let c := s.core k
  s.setCore k { c with slice := { c.slice with glob := c.slice.glob.filter (fun o => o.cmd == g.cmd) ++ [g] } }
/-- The lines that were read for a K-step or a start are used up. -/
def Slice.forget (x : Slice) : Slice := { x with glob := [] }

/-- The next move toward a line of global memory that the slice needs, read as a plain LDG of the whole line would be (R135, R382): from the stash,
by its merging fill, or by a read at its home slice. -/
def State.globalAsk (s : State) (k x cmd va pa attr : Nat) : State :=
  let c := s.core k
  if attr ≠ 0 || c.stashSets = 0 then
    ((s.keepGlob k ⟨cmd, pa / 64, s.uid, none⟩).bump).request k x s.uid (pa / 64 * 64) (.read 64) 0 attr
  else if c.spr.stashBusy then s
  else
    match c.findLine pa with
    | some (i, l) =>
      if l.v = 0xFFFF then
        (s.setCore k ((c.mend (c.lineData i) 64 false).touchLine i)).keepGlob k
          ⟨cmd, pa / 64, s.uid, some (c.lread (c.lineData i) 64, if c.poisoned (c.lineData i) 64 then some uncorrectable else none)⟩
      else
        match c.fills.find? (fun f => f.line == pa / 64 && f.mask == 0xFFFF) with
        | some f => s.keepGlob k ⟨cmd, pa / 64, f.uid, none⟩
        | none => (s.keepGlob k ⟨cmd, pa / 64, s.uid, none⟩).askFill k x pa 0 false
    | none =>
      let s1 := (s.allocLine k x va pa false).1
      (s1.keepGlob k ⟨cmd, pa / 64, s1.uid, none⟩).askFill k x pa 0 false

/-- A global scale record or table (R382) of operation `cmd`; an error without a cause means that the read must wait. -/
def State.globalBytes (s : State) (k x cmd va n : Nat) : State × Except (Option (BitVec 8)) (List Byte) :=
  match s.engineTranslate k 0 va cmd with
  | (s1, none) => (s1, .error none)
  | (s1, some (.error _)) => (s1, .error (some translation))
  | (s1, some (.ok (pa, attr))) =>
    if isReg pa || s1.noStorage pa then (s1, .error (some translation))
    else
      let held (s : State) : Option GlobRead := (s.core k).slice.glob.find? (fun g => g.cmd == cmd && g.line == pa / 64)
      let s2 := if (held s1).isSome then s1 else s1.globalAsk k x cmd va pa attr
      match (held s2).bind (·.ans) with
      | none => (s2, .error none)
      | some (_, some cause) => (s2, .error (some cause))
      | some (bs, none) => (s2, .ok ((bs.drop (pa % 64)).take n))

/-- A scale record or table of an operand: local, as `v` has read it, or global. -/
def State.scaleBytes (s : State) (k x cmd : Nat) (v : Core) (d : TDesc) (off n : Nat) : State × Except (Option (BitVec 8)) (List Byte) :=
  if d.sloc then
    if v.poisoned (d.sbase + off) n then (s, .error (some uncorrectable)) else (s, .ok (v.lread (d.sbase + off) n))
  else s.globalBytes k x cmd (d.sbase + off) n

/-- The L4 table of an operand (R382). -/
def State.tableOf (s : State) (k x cmd : Nat) (d : TDesc) : State × Except (Option (BitVec 8)) (List Nat) :=
  if d.fmt ≠ 17 then (s, .ok [])
  else
    match s.scaleBytes k x cmd (s.core k) d 0 32 with
    | (s1, .ok b) => (s1, .ok ((List.range 16).map (fun i => leNat ((b.drop (2 * i)).take 2))))
    | (s1, .error e) => (s1, .error e)

/-- A row's elements in K-step `st`: the row's number in the tile, its bits, and its scale record. -/
structure RowChunk where
  row : Nat
  raw : Nat
  scale : Nat
  deriving DecidableEq, Repr

/-- Row `r` of a tensor for a K-step, as row `tag` of the tile, from the granules that `v` has read. -/
def State.rowChunk (s : State) (k x cmd : Nat) (v : Core) (d : TDesc) (st tag r : Nat) : State × Except (Option (BitVec 8)) RowChunk :=
  let w := fmtBits d.fmt
  let n := min 32 (d.cols - 32 * st)
  let a := d.base + r * d.stride + 4 * w * st
  let nb := (w * n + 7) / 8
  if v.poisoned a nb then (s, .error (some uncorrectable))
  else
    let raw := leNat (v.lread a nb)
    let sc := fmtScale d.fmt
    if sc.2.1 = 0 then (s, .ok ⟨tag, raw, 0⟩)
    else
      match s.scaleBytes k x cmd v d (sc.1 * (r * (d.cols / sc.2.1) + 32 * st / sc.2.1)) sc.1 with
      | (s1, .ok b) => (s1, .ok ⟨tag, raw, leNat b⟩)
      | (s1, .error e) => (s1, .error e)

/-- The rows of a tile: tile row and tensor row. -/
def State.tile (s : State) (k x cmd : Nat) (v : Core) (d : TDesc) (st : Nat) : List (Nat × Nat) → State × Except (Option (BitVec 8)) (List RowChunk)
  | [] => (s, .ok [])
  | (tag, r) :: rest =>
    match s.rowChunk k x cmd v d st tag r with
    | (s1, .error e) => (s1, .error e)
    | (s1, .ok c) =>
      match s1.tile k x cmd v d st rest with
      | (s2, .ok cs) => (s2, .ok (c :: cs))
      | (s2, .error e) => (s2, .error e)

/-! ### One K-step of a firing (R247 to R249) -/

/-- What a core brings to a K-step: its command, and the tiles of A and B. -/
structure Tiles where
  core : Nat
  run : Started
  mat : MatRun
  a : List RowChunk
  b : List RowChunk
  deriving DecidableEq, Repr

/-- The operands of the cores of a firing. -/
def State.readTiles (s : State) (st : Nat) : List Nat → State × Except (Option (BitVec 8)) (List Tiles)
  | [] => (s, .ok [])
  | k :: ks =>
    match (s.core k).mat.run with
    | none => s.readTiles st ks
    | some r =>
      match r.mat with
      | none => s.readTiles st ks
      | some m =>
        if (s.core k).slice.latchBad then (s, .error (some uncorrectable))
        else
          let v := (s.core k).seen r
          match s.tile k r.cmd.ctx r.cmd.uid v m.a st (m.rows r.cmd) with
          | (s1, .error e) => (s1, .error e)
          | (s1, .ok ta) =>
            match s1.tile k r.cmd.ctx r.cmd.uid v m.b st ((List.range 32).map (fun i => (i, i))) with
            | (s2, .error e) => (s2, .error e)
            | (s2, .ok tb) =>
              match s2.readTiles st ks with
              | (s3, .ok ts) => (s3, .ok (⟨k, r, m, ta, tb⟩ :: ts))
              | (s3, .error e) => (s3, .error e)

/-- The new words of a core's accumulator from the blocks of the cores `ts`. -/
def Tiles.accumulate (t : Tiles) (st : Nat) (ts : List Tiles) (x : Slice) : Slice :=
  match matParts t.run.cmd.instr with
  | none => x
  | some (_, prog, a1, _) =>
    let n := min 32 (TDesc.cols t.mat.a - 32 * st)
    ts.foldl (fun x o =>
      t.a.foldl (fun x ra =>
        o.b.foldl (fun x rb =>
          let c := 32 * (coreX o.core % 4) + rb.row
          let old := x.word a1 ra.row c
          let new :=
            if prog then
              kstepProg t.mat.i32 x.prog old ((List.range n).map (elemPattern (TDesc.fmt t.mat.a) ra.raw))
                ((List.range n).map (elemPattern (TDesc.fmt o.mat.b) rb.raw))
            else
              let as := (List.range n).map (elemAt (TDesc.fmt t.mat.a) t.mat.tabA (32 * st) ra.raw ra.scale)
              let bs := (List.range n).map (elemAt (TDesc.fmt o.mat.b) o.mat.tabB (32 * st) rb.raw rb.scale)
              if t.mat.i32 then kstepI32 old as bs else kstepF32 old as bs
          if new = old then x else x.put a1 ra.row c new) x) x) x

/-- Every command of a firing ends at this boundary with a cause (R263). -/
def State.endRow (s : State) (ks : List Nat) (e : Ending) : State :=
  ks.foldl (fun s k =>
    match (s.core k).mat.run with
    | none => s
    | some r => (s.setCore k ((s.core k).setRun .mat none)).endCmd k r.cmd e) s

/-- One K-step on every core of a firing, or what it must wait for; with whether it has been done. -/
def State.matStep (s : State) (ks : List Nat) (st : Nat) : State × Bool :=
  match s.readTiles st ks with
  | (s1, .error none) => (s1, false)
  | (s1, .error (some cause)) =>
    let s2 := ks.foldl (fun s k => s.setCore k { s.core k with slice := { (s.core k).slice with latchBad := false }.forget }) s1
    (s2.endRow ks (.faulted cause), true)
  | (s1, .ok ts) =>
    (ts.foldl (fun s t =>
      let c := s.core t.core
      let c1 : Core := { c with slice := (t.accumulate st ts c.slice).forget }
      s.setCore t.core (c1.setRun .mat (some { t.run with pos := st + 1, got := [], snap := [], snapBad := [] }))) s1, true)

/-! ### When an operation is pre-empted (R262, R263, R350) -/

def Core.saveArea (c : Core) : Nat := 256 * bits c.spr.msave 8 12
/-- The area can take a pre-empted operation (R261, R262). -/
def Core.canSave (c : Core) : Bool := wbit c.spr.msave 0 && !c.spr.msaveClaim && c.openRange c.saveArea 16768

/-- The context's core is draining for a move (R348). -/
def State.draining (s : State) (k : Nat) : Bool := (s.clus (clusOf k)).move.any (fun m => m.phase == .draining)

/-- The context is to stop where it stands, or is being killed, so that its operation is pre-empted. -/
def State.stopping (s : State) (k x : Nat) : Bool :=
  match kget (s.core k).ctxs x with
  | some h => h.halting || h.yielding || h.run == .stopped .saved || h.run == .stopped .killed
  | none => (kget (s.core k).ended x).any (fun d => d.kind == 2)

/-- HKILL or a divergence has ended the context, so that its operation ends unsaved (R100, R278). -/
def State.killedOf (s : State) (k x : Nat) : Bool :=
  match kget (s.core k).ctxs x with
  | some h => h.run == .stopped .killed
  | none => (kget (s.core k).ended x).any (fun d => d.kind == 2)

/-- A running operation of core `k` goes no further than the boundary where it stands. -/
def State.preempts (s : State) (k : Nat) : Bool :=
  match (s.core k).mat.run with
  | some r =>
    s.stopping k r.cmd.ctx
      && (s.killedOf k r.cmd.ctx || (s.core k).canSave || (s.draining k && (matParts r.cmd.instr).any (fun p => p.2.2.2)))
  | none => false

/-- The next granule that a core of a firing reads for its K-step. -/
def State.nextRead (s : State) (ks : List Nat) : Option (Nat × Started × Nat) :=
  ks.findSome? (fun k =>
    match (s.core k).mat.run with
    | some r =>
      match r.mat with
      | some m => ((m.needs r.cmd r.pos).find? (fun g => !r.got.contains g)).map (fun g => (k, r, g))
      | none => none
    | none => none)

/-- A firing stands at a K-step boundary: none of its cores has read for the next K-step. -/
def State.atKStep (s : State) (ks : List Nat) : Bool := ks.all (fun k => (s.core k).mat.run.all (fun r => r.got.isEmpty))

/-- Up to `n` actions of the operation that core `k` runs: each reads one granule of a K-step's operands on one core of the firing (R130,
R264), or forms the K-step's products once all are read. The operation ends with its last K-step. -/
def State.matRun (s : State) (k : Nat) : Nat → State
  | 0 => s
  | n + 1 =>
    match (s.core k).mat.run with
    | none => s
    | some r =>
      match r.mat with
      | none => s
      | some m =>
        if (TDesc.cols m.a + 31) / 32 ≤ r.pos then s.endRow m.row .ok
        else if s.atKStep m.row && m.row.any s.preempts then s
        else
          match s.nextRead m.row with
          | some (p, o, g) => (s.setCore p (((s.core p).mend (64 * g) 64 false).setRun .mat (some ((s.core p).readGranule o g)))).matRun k n
          | none =>
            let a := s.matStep m.row r.pos
            if a.2 then a.1.matRun k n else a.1

/-! ### Starting (R254, R257) -/

/-- Entries of a list of 32 n16 values; none when one is poisoned. -/
def Core.list32 (c : Core) (a : Nat) : Option (List Nat) :=
  if c.poisoned a 64 then none else some ((List.range 32).map (fun i => mnat c.lmem (a + 2 * i) 2))

/-- The first failing start check of R254, or what the operation runs with; an error without a cause means that a table read must wait. -/
def State.mmaStart (s : State) (k : Nat) (r : Started) (a b : TDesc) (prog a1 gather : Bool) : State × Except (Option (BitVec 8)) MatRun :=
  let q := r.cmd
  let x := (s.core k).slice
  let i32 := if prog then x.progI32 else accI32 a.fmt b.fmt
  let list := if gather then ((s.core k).seen r).list32 a.list else some []
  let v := bits (q.vals.headD 0) 0 6
  if b.rows ≠ 32 ∨ b.cols ≠ a.cols then (s, .error (some illegalFormat))
  else if prog && !progClass x.progI32 b.fmt then (s, .error (some illegalFormat))
  else if x.tag a1 ≠ .none ∧ x.tag a1 ≠ (if i32 then .i32 else .f32) then (s, .error (some illegalFormat))
  else
    match list with
    | none => (s, .error (some uncorrectable))
    | some l =>
      if gather && (l.take v).any (fun e => e ≠ 0xFFFF && a.rows ≤ e) then (s, .error (some localBounds))
      else
        match s.tableOf k q.ctx q.uid a with
        | (s1, .error e) => (s1, .error e)
        | (s1, .ok ta) =>
          match s1.tableOf k q.ctx q.uid b with
          | (s2, .error e) => (s2, .error e)
          | (s2, .ok tb) => (s2, .ok ⟨a, b, l, ta, tb, i32, [k], none⟩)

/-- The bridle of a core's row, and the core's place in it. -/
def rowOf (k : Nat) : Nat := coreY k % 4
def lxOf (k : Nat) : Nat := coreX k % 4
def State.bridle (s : State) (cl row : Nat) : Bridle := (s.clus cl).bridles.toList.getD row ⟨[], 0, []⟩
def State.setBridle (s : State) (cl row : Nat) (b : Bridle) : State :=
  s.setClus cl { s.clus cl with bridles := Vector.ofFn (fun i => if i.val = row then b else (s.clus cl).bridles[i]) }
/-- An arrival of core `k` (R238), and its withdrawal. -/
def State.bridleArrive (s : State) (k : Nat) (a : Arrival) : State :=
  let b := s.bridle (clusOf k) (rowOf k)
  s.setBridle (clusOf k) (rowOf k) { b with arrivals := kput b.arrivals (lxOf k) a }
def State.bridleLeave (s : State) (k : Nat) : State :=
  let b := s.bridle (clusOf k) (rowOf k)
  s.setBridle (clusOf k) (rowOf k) { b with arrivals := kdel b.arrivals (lxOf k) }

/-- The core has an arrival that its bridle has not fired yet. -/
def State.arrived (s : State) (k : Nat) : Bool := (kget (s.bridle (clusOf k) (rowOf k)).arrivals (lxOf k)).isSome

/-- The accumulator takes its type as the operation runs (R245). -/
def State.takeTag (s : State) (k : Nat) (a1 i32 : Bool) : State :=
  let c := s.core k
  s.setCore k { c with slice := c.slice.setAcc a1 (c.slice.acc a1) (c.slice.cs a1) (if i32 then .i32 else .f32) }

/-- A started MMA or MMAG runs, or arrives at its row's bridle (R250). -/
def State.mmaGo (s0 : State) (k : Nat) (r0 : Started) (a1 gang : Bool) (m : Except (BitVec 8) MatRun) (kdim fmt : Nat) : State :=
  let r := { r0 with got := [], snap := [], snapBad := [] }
  let s := s0.setCore k { s0.core k with slice := (s0.core k).slice.forget }
  match m with
  | .error cause =>
    if gang then
      (s.setCore k ((s.core k).setRun .mat (some { r with phase := 3, fault := some cause }))).bridleArrive k
        ⟨255, some (kdim, fmt, false, cause), r.pos⟩
    else (s.setCore k ((s.core k).setRun .mat none)).endCmd k r.cmd (.faulted cause)
  | .ok m =>
    if gang then
      (s.setCore k ((s.core k).setRun .mat (some { r with phase := 3, mat := some m }))).bridleArrive k ⟨255, some (kdim, fmt, true, 0), r.pos⟩
    else (s.setCore k ((s.core k).setRun .mat (some { r with phase := 1, mat := some m }))).takeTag k a1 m.i32

/-! ### The save area (R261, R262) -/

/-- The area's bytes (Table 13.10). -/
def Slice.saveBytes (x : Slice) (q : Cmd) (m : MatRun) (a1 : Bool) (pos : Nat) : List Byte :=
  (List.range 4096).flatMap (fun i => leBytes 4 (hget (x.acc a1) i)) ++ (List.range 32).flatMap (fun r => leBytes 4 (hget (x.cs a1) r))
    ++ leBytes 32 m.a.toNat ++ leBytes 32 m.b.toNat ++ (List.range 32).flatMap (fun i => leBytes 2 (m.list.getD i 0))
    ++ (List.range 4).flatMap (fun i => leBytes 2 (x.prog.getD i 0xF000#16).toNat) ++ leBytes 8 (q.vals.headD 0).toNat
    ++ leBytes 4 ((encodeNat q.instr).getD 0)
    ++ leBytes 4 (pos % 65536 + 2 ^ 16 * (match x.tag a1 with | .none => 0 | .f32 => 1 | .i32 => 2) + 2 ^ 18 * q.ctx + 2 ^ 22 * x.prog.length
        + 2 ^ 25 * ofBool x.progI32) ++ leBytes 104 0

/-- What a saved operation resumes with: the slice reloaded from the area as `v` has read it, the operands, and the next K-step. -/
def Core.reloadArea (c v : Core) (a1 : Bool) : Core × MatRun × Nat :=
  let at_ := c.saveArea
  let w (o n : Nat) : Nat := mnat v.lmem (at_ + o) n
  let pg := w 16660 4
  let tag : AccTag := if pg / 2 ^ 16 % 4 = 1 then .f32 else if pg / 2 ^ 16 % 4 = 2 then .i32 else .none
  let acc := (List.range 4096).filterMap (fun i => if w (4 * i) 4 = 0 then none else some (i, BitVec.ofNat 32 (w (4 * i) 4)))
  let cs := (List.range 32).filterMap (fun r => if w (16384 + 4 * r) 4 = 0 then none else some (r, BitVec.ofNat 32 (w (16384 + 4 * r) 4)))
  let b : BitVec 256 := BitVec.ofNat 256 (w 16544 32)
  let x1 := c.slice.setAcc a1 acc cs tag
  let x2 : Slice := { x1 with bind := some b, prog := (List.range (pg / 2 ^ 22 % 8)).map (fun i => BitVec.ofNat 16 (w (16640 + 2 * i) 2)), progI32 := pg / 2 ^ 25 % 2 == 1 }
  let m : MatRun := ⟨BitVec.ofNat 256 (w 16512 32), b, (List.range 32).map (fun i => w (16576 + 2 * i) 2), [], [], tag == .i32, [], none⟩
  ({ c with slice := x2, spr := { c.spr with msaveClaim := false } }, m, pg % 65536)

/-- A command whose list, save area or tables have yet to be read waits in the slice (phase 7, R130, R382). -/
def State.mmaWait (s : State) (k : Nat) (r : Started) : State := s.setCore k ((s.core k).setRun .mat (some { r with phase := 7 }))

/-- A resumed operation reads its tables again, and re-arrives if .gang. -/
def State.mmaTables (s : State) (k : Nat) (r : Started) (m : MatRun) (a1 gang : Bool) : State :=
  let q := r.cmd
  match s.tableOf k q.ctx q.uid m.a with
  | (s1, .error none) => s1.mmaWait k { r with mat := some m }
  | (s1, .error (some e)) => s1.mmaGo k r a1 gang (.error e) (TDesc.cols m.a) (TDesc.fmt m.b)
  | (s1, .ok ta) =>
    match s1.tableOf k q.ctx q.uid m.b with
    | (s2, .error none) => s2.mmaWait k { r with mat := some m }
    | (s2, .error (some e)) => s2.mmaGo k r a1 gang (.error e) (TDesc.cols m.a) (TDesc.fmt m.b)
    | (s2, .ok tb) => s2.mmaGo k r a1 gang (.ok { m with tabA := ta, tabB := tb, row := [k] }) (TDesc.cols m.a) (TDesc.fmt m.b)

/-- The save area takes another operation. -/
def Core.unsave (c : Core) : Core := { c with spr := { c.spr with msaveClaim := false } }

/-- A saved operation that has read its area goes on (R262): the slice is reloaded; a poisoned word fails it (R150). -/
def State.mmaResume (s : State) (k : Nat) (r : Started) (td : Nat) (a1 gang : Bool) : State :=
  let c := s.core k
  let v := c.seen r
  if v.poisoned c.saveArea 16768 then (s.setCore k c.unsave).mmaGo k r a1 gang (.error uncorrectable) (c.td td).cols 0
  else
    let l := c.reloadArea v a1
    (s.setCore k l.1).mmaTables k { r.cmd.begin with pos := l.2.2 } l.2.1 a1 gang

/-- A fresh MMA or MMAG is taken. -/
def State.mmaTake (s : State) (k : Nat) (r : Started) (td : Nat) (prog a1 gang : Bool) : State :=
  let q := r.cmd
  let c := s.core k
  let a := c.td td
  let gather := match q.instr with | .mmag .. => true | _ => false
  match c.slice.bind with
  | none => s.mmaGo k r a1 gang (.error illegalFormat) a.cols 0
  | some b =>
    match s.mmaStart k r a b prog a1 gather with
    | (s1, .error none) => s1.mmaWait k r
    | (s1, .error (some e)) => s1.mmaGo k r a1 gang (.error e) a.cols (TDesc.fmt b)
    | (s1, .ok m) => s1.mmaGo k r a1 gang (.ok m) a.cols (TDesc.fmt b)

/-! ### MDRAIN (R257) -/

/-- A pairing of Table 13.7. -/
def drainPair (t : AccTag) (f : Nat) : Bool :=
  match t with
  | .f32 => f ≤ 5
  | .none => f ≤ 5 || f == 10 || f == 11 || f == 12
  | .i32 => f == 0 || f == 10 || f == 11 || f == 12

/-- One drained element (Table 13.7). An accumulator without a type is read as F32, which an integer format takes as R23 converts it. -/
def drainElem (t : AccTag) (f : Nat) (sat : Bool) (v : Nat) : Nat :=
  let lo : Int := if f = 12 then 0 else -(2 ^ (fmtBits f - 1))
  let hi : Int := if f = 12 then 255 else 2 ^ (fmtBits f - 1) - 1
  if f = 0 then v
  else if t = .i32 then ((clampI (signedN 4 v) lo hi).1 % 2 ^ fmtBits f).toNat
  else if 10 ≤ f then ((toIntRange (f32 v) lo hi).1 % 2 ^ fmtBits f).toNat
  else if f = 1 then (fF19.round sat (f32 v)).1 * 8192
  else if f = 2 then (fBF16.round sat (f32 v)).1
  else if f = 3 then (fF16.round sat (f32 v)).1
  else if f = 4 then (fE5M2.round sat (f32 v)).1
  else (fE4M3.round sat (f32 v)).1

/-- The start of MDRAIN, its list as `v` has read it: its start fault, or where each accumulator row goes. -/
def Core.drainStart (c v : Core) (td : Nat) (a1 : Bool) : Except (BitVec 8) (List (Nat × Nat)) :=
  let d := c.td td
  if !drainPair (c.slice.tag a1) d.fmt then .error illegalFormat
  else if d.list = 0 then (if d.rows < 32 then .error localBounds else .ok ((List.range 32).map (fun r => (r, r))))
  else
    match v.list32 d.list with
    | none => .error uncorrectable
    | some l =>
      if l.any (fun e => e ≠ 0xFFFF && d.rows ≤ e) then .error localBounds
      else .ok ((List.range 32).filterMap (fun r => if l.getD r 0 = 0xFFFF then none else some (r, l.getD r 0)))

/-- The bytes that MDRAIN writes, row by row. -/
def Core.drainWrites (c : Core) (td : Nat) (a1 : Bool) (ctl : Word) (rows : List (Nat × Nat)) : List (Nat × List Byte) :=
  let d := c.td td
  let lo := if d.cols = 32 then 32 * bits ctl 2 2 else 0
  rows.map (fun e => (d.base + e.2 * d.stride,
    (List.range d.cols).flatMap (fun j =>
      leBytes (fmtBits d.fmt / 8) (drainElem (c.slice.tag a1) d.fmt (wbit ctl 0) (c.slice.word a1 e.1 (lo + j))))))

/-- The granules of local memory that a matrix command reads before it starts (R257, R262, R264): a list, or the save area. -/
def Core.startReads (c : Core) (r : Started) : List Nat :=
  if r.mat.isSome then []
  else if r.cmd.pos ≠ 0 then granules c.saveArea 16768
  else
    match r.cmd.instr with
    | .mmag a _ _ _ _ _ _ => granules (c.td a.toNat).list 64
    | .mdrain a _ _ _ _ => if (c.td a.toNat).list = 0 then [] else granules (c.td a.toNat).list 64
    | _ => []

/-- A matrix command that has read its list or its area starts, or goes on with its start. -/
def State.matGo (s : State) (k : Nat) (r : Started) : State :=
  let q := r.cmd
  match matParts q.instr, q.instr with
  | some (td, prog, a1, gang), _ =>
    match r.mat with
    | some m => s.mmaTables k { r with mat := none } m a1 gang
    | none => if q.pos ≠ 0 then s.mmaResume k r td a1 gang else s.mmaTake k r td prog a1 gang
  | none, .mdrain a x _ _ _ =>
    let c := s.core k
    match c.drainStart (c.seen r) a.toNat x with
    | .error e => s.decide k .mat { q.begin with verdict := some (e, word a.toNat) }
    | .ok rows =>
      let ws := c.drainWrites a.toNat x (q.vals.headD 0) rows
      s.setCore k (c.setRun .mat (some ({ q.begin with phase := 2, writes := ws }).cut))
  | _, _ => s

/-- A matrix command is taken, or goes on with its start: it reads granule `want` of its list or of its save area, and starts with the last. -/
def State.matBegin (s : State) (k : Nat) (r : Started) (want : Option Nat) : State :=
  let c := s.core k
  let n := c.readNext r (c.startReads r) want
  let s1 := s.setCore k n.1
  if (c.startReads r).all n.2.got.contains then s1.matGo k n.2 else s1.mmaWait k n.2

/-- An operation with .gang starts only once its core's earlier arrival has fired. -/
def State.mmaHeld (s : State) (k : Nat) (i : Instr) : Bool := (matParts i).any (fun p => p.2.2.2) && s.arrived k

/-- The slice takes a command, or goes on with one that has still to read. -/
def State.matStart (s : State) (core : Nat) (want : Option Nat) : State :=
  match (s.core core).mat.run with
  | some r => if r.phase ≠ 7 || !s.works core || s.mmaHeld core r.cmd.instr then s else s.matBegin core r want
  | none => s.startNext core .mat fun q s1 =>
    match q.instr with
    | .mma .. | .mmag .. => if s.mmaHeld core q.instr then s else s1.matBegin core q.begin want
    | .mdrain .. => s1.matBegin core q.begin want
    | .mchk .. => s1.setCore core ((s1.core core).setRun .mat (some { q.begin with phase := 2 }))
    | _ => s1.setCore core ((s1.core core).setRun .mat (some q.begin))

/-- MATRIX_COMMAND_START (R254 to R259): the slice takes a command, or goes on with one that waits for its list, its area or its tables (R382). -/
def execMatrixCommandStart (core : Nat) (s : State) : Res := .next (s.matStart core none)

/-! ### The bridle (R238, R250) -/

/-- The cores that a row's bridle counts. -/
def State.counted (s : State) (cl row : Nat) : List Nat := (List.range 4).filter (fun lx => s.plain (coreIn cl lx row))

/-- A matrix command of a firing that runs. -/
def State.fireRun (s : State) (row : List Nat) (k : Nat) : State :=
  match (s.core k).mat.run with
  | some r =>
    match r.mat, matParts r.cmd.instr with
    | some m, some (_, _, a1, _) =>
      (s.setCore k ((s.core k).setRun .mat (some { r with phase := 1, mat := some { m with row := row, held := none } }))).takeTag k a1 m.i32
    | _, _ => s
  | none => s

/-- A matrix command of a firing that writes nothing: its own failure, or the given cause. -/
def State.fireFail (s : State) (own : Bool) (cause : BitVec 8) (k : Nat) : State :=
  match (s.core k).mat.run with
  | some r =>
    let c := if own then r.fault.getD cause else cause
    (s.setCore k ((s.core k).setRun .mat none)).endCmd k r.cmd (.faulted c)
  | none => s

/-- Context 0 of a core whose GANG has fired is past its wait: the firing takes precedence over a stop and over an upcall (R238). -/
def State.gangFired (s : State) (k : Nat) : State :=
  if (s.core k).live 0 then s.setCtx k 0 { s.ctx k 0 with acc := some ⟨phFired, 0, none⟩ } else s

/-- BRIDLE_FIRE (R238, R250): once every counted core has arrived. -/
def execBridleFire (cluster row : Nat) (s : State) : Res :=
  let b := s.bridle cluster row
  let lxs := s.counted cluster row
  .next (
    if 4 ≤ row || lxs.isEmpty || lxs.any (fun x => (kget b.arrivals x).isNone) then s
    else
      let arr := lxs.filterMap (fun x => (kget b.arrivals x).map (fun a => (x, a)))
      let gen := b.gen + 1
      let mats := arr.filter (fun e => e.2.mat.isSome)
      let gangs := arr.filter (fun e => e.2.mat.isNone)
      let mixed := arr.any (fun e => arr.any (fun o => o.2.tag != e.2.tag))
      let res := word (gen.toNat + 2 ^ 32 * ofBool mixed)
      let s0 := s.setBridle cluster row { arrivals := [], gen := gen, results := gangs.foldl (fun r e => kput r e.1 res) b.results }
      let s1 := gangs.foldl (fun s e => s.gangFired (coreIn cluster e.1 row)) s0
      let ks := mats.map (fun e => coreIn cluster e.1 row)
      if !gangs.isEmpty then ks.foldl (fun s k => s.fireFail false illegalOp k) s1
      else
        let key (a : Arrival) : Option (Nat × Nat) × Nat := (a.mat.map (fun m => (m.1, m.2.1)), a.step)
        let ok (a : Arrival) : Bool := a.mat.any (fun m => m.2.2.1)
        if arr.all (fun e => ok e.2 && arr.all (fun o => key o.2 == key e.2)) then ks.foldl (fun s k => s.fireRun ks k) s1
        else ks.foldl (fun s k => s.fireFail true illegalFormat k) s1)

/-! ### Completion (R264) and verdicts (R258) -/

/-- A partner held by a pre-emption whose operation has been discarded ends (R263). -/
def State.heldEnds (s : State) (k : Nat) (h : Nat × Nat) : State :=
  let c := s.core h.1
  if c.mat.queue.any (fun q => q.uid == h.2) || c.mat.run.any (fun r => r.cmd.uid == h.2) then s
  else (s.endRow [k] (.faulted asyncFault)).bridleLeave k

/-- MATRIX_COMPLETE (R264): up to `steps` + 1 actions of a running MMA or MMAG, each a granule read or a K-step, of which the last ends it; a
granule of MDRAIN, which ends after its last; any other command takes its effect. -/
def execMatrixComplete (core steps : Nat) (s : State) : Res :=
  let c := s.core core
  .next (
    match c.mat.run with
    | none => s
    | some r =>
      let q := r.cmd
      let fin (c : Core) (e : Ending) : State := (s.setCore core (c.setRun .mat none)).endCmd core q e
      match r.mat.bind (·.held) with
      | some h => s.heldEnds core h
      | none =>
        if r.phase ≠ 1 then s
        else
          match q.instr with
          | .mma .. => s.matRun core (steps + 1)
          | .mmag .. => s.matRun core (steps + 1)
          | .mzero x _ _ => fin { c with slice := c.slice.zeroed x } .ok
          | .mldb a _ _ => fin { c with slice := { c.slice with bind := some (c.td a.toNat) } } .ok
          | .mprog i _ _ _ => fin { c with slice := { c.slice with prog := microProg (q.vals.headD 0), progI32 := i } } .ok
          | .mdrain _ x _ _ _ =>
            match r.writes with
            | w :: ws =>
              -- a granule write that covers part of a poisoned word fails and ends the command (R150)
              if c.writePoisoned w.1 w.2.length then fin c (.faulted uncorrectable)
              else s.setCore core ((c.lwrite w.1 w.2).setRun .mat (some { r with writes := ws }))
            | [] => fin (if wbit (q.vals.headD 0) 1 then { c with slice := c.slice.zeroed x } else c) .ok
          | _ => fin c .ok)

/-- ACC_VERDICT (R258): the 32 rows of the accumulator are checked; MCHK completes with the verdict. -/
def execAccVerdict (core : Nat) (s : State) : Res :=
  let c := s.core core
  .next (
    match c.mat.run with
    | none => s
    | some r =>
      if r.phase ≠ 2 then s
      else
        let go (a1 : Bool) : State :=
          let bad := c.slice.badRows a1
          let s1 := s.decide core .mat { r with verdict := if bad = 0 then none else some (accChecksum, word (2 ^ 32 * ofBool a1 + bad)) }
          match r.cmd.instr, bad with
          | .mchk .., 0 => (s1.setCore core ((s1.core core).setRun .mat none)).endCmd core r.cmd .ok
          | _, _ => s1
        match r.cmd.instr with
        | .mdrain _ x _ _ _ => go x
        | .mchk x _ _ => go x
        | _ => s)

/-! ### Pre-emption (R262, R263, R350) -/

/-- The operation goes back to the head of its context's queue, decided as it is (R182). -/
def Core.requeueMat (c : Core) (q : Cmd) : Core := { c with mat := { c.mat with run := none, queue := { q with decided := true } :: c.mat.queue } }

/-- The other cores of a firing hold their slices until the pre-empted one re-arrives (R263). -/
def State.holdRow (s : State) (k : Nat) (q : Cmd) (ks : List Nat) : State :=
  ks.foldl (fun s p =>
    match (s.core p).mat.run with
    | some rp =>
      match rp.mat with
      | some mp =>
        (s.setCore p ((s.core p).setRun .mat (some { rp with phase := 3, mat := some { mp with held := some (k, q.uid) } }))).bridleArrive p
          ⟨255, some (TDesc.cols mp.a, TDesc.fmt mp.b, true, 0), rp.pos⟩
      | none => s
    | none => s) s

/-- The operation of a stopped context, at a boundary: one that is killed ends, one of a firing on a draining core ends with its row, and any
other begins to be saved, its area claimed (phase 6). -/
def State.preempt (s : State) (k : Nat) (r : Started) (m : MatRun) (a1 gang : Bool) : State :=
  let c := s.core k
  if s.killedOf k r.cmd.ctx then
    ((s.setCore k (c.setRun .mat none)).endCmd k r.cmd .discarded).endRow (m.row.filter (· ≠ k)) (.faulted asyncFault)
  else if gang && s.draining k then s.endRow m.row (.faulted asyncFault)
  else if !c.canSave then s
  else
    let bytes := c.slice.saveBytes r.cmd m a1 r.pos
    let c1 := c.setRun .mat (some ({ r with phase := 6, writes := [(c.saveArea, bytes)] }).cut)
    (s.setCore k { c1 with spr := { c1.spr with msaveClaim := true } }).holdRow k r.cmd (m.row.filter (· ≠ k))

/-- Up to `n` grants of a save (R262); after the last one the operation is queued again. -/
def Core.saveGrants (c : Core) : Nat → Core
  | 0 => c
  | n + 1 =>
    match c.mat.run with
    | some r =>
      if r.writes.isEmpty then c.requeueMat { r.cmd with pos := r.pos + 1 }
      else let g := c.grant r none; (g.1.setRun .mat (some g.2)).saveGrants n
    | none => c

/-- MATRIX_PREEMPT (R262): up to `steps` + 1 actions bring the operation of a stopped context to its next boundary, where it begins to be
saved, or write its area on. One that waits at the bridle withdraws its arrival and is held, saved again if it was resumed, and so is one that
has still to read before it starts; one whose helper HKILL ends is not saved (R100). -/
def execMatrixPreempt (core steps : Nat) (s : State) : Res :=
  .next (
    match (s.core core).mat.run with
    | none => s
    | some r0 =>
      if r0.phase = 6 then s.setCore core ((s.core core).saveGrants (steps + 1))
      else if !s.stopping core r0.cmd.ctx then s
      else if (r0.phase = 3 || r0.phase = 7) && (matParts r0.cmd.instr).isSome then
        -- one that has still to read has not arrived, and its area, if it was saved, holds it still
        let leave (s : State) : State := if r0.phase = 3 then s.bridleLeave core else s
        if (r0.mat.bind (·.held)).isSome then s
        else if s.killedOf core r0.cmd.ctx then
          let c := (s.core core).setRun .mat none
          leave ((s.setCore core (if r0.cmd.pos ≠ 0 && r0.mat.isNone then c.unsave else c)).endCmd core r0.cmd .discarded)
        else if r0.cmd.pos ≠ 0 && r0.mat.isSome then
          -- a resumed operation that had not yet met its partners again: they go on waiting
          match r0.mat, matParts r0.cmd.instr with
          | some m, some (_, _, a1, _) =>
            if (s.core core).canSave then leave (s.preempt core r0 { m with row := [core] } a1 false) else s
          | _, _ => s
        else leave (s.setCore core ((s.core core).requeueMat r0.cmd))
      else if r0.phase ≠ 1 then s
      else
        match r0.mat with
        | none => s
        | some _ =>
          let s1 := s.matRun core (steps + 1)
          match (s1.core core).mat.run with
          | none => s1
          | some r =>
            match r.mat, matParts r.cmd.instr with
            | some m, some (_, _, a1, gang) => if s1.atKStep m.row then s1.preempt core r m a1 gang else s1
            | _, _ => s1)

/-! ### Grants in another order (R130) -/

/-- A running MMA or MMAG reads granule `g` for its K-step. -/
def State.matReadAt (s : State) (k g : Nat) : State :=
  match (s.core k).mat.run with
  | none => s
  | some r =>
    match r.phase, r.mat with
    | 1, some m =>
      if (TDesc.cols m.a + 31) / 32 ≤ r.pos || (s.atKStep m.row && m.row.any s.preempts) || !(m.needs r.cmd r.pos).contains g || r.got.contains g then s
      else let n := (s.core k).readNext r [g] none; s.setCore k (n.1.setRun .mat (some n.2))
    | _, _ => s

/-- The next grant of an engine's command, in granule `g` rather than in the first that it has still to read or to write: no rule orders the
grants of one command, but for the rows of MDRAIN (R257). -/
def State.grantNext (s : State) (k : Nat) (e : Eng) (cx g : Nat) (write : Bool) : State :=
  match e, write with
  | .vec, true => s.vecWrite k cx (some g)
  | .vec, false => s.vecStart k (some g)
  | .gau, true => s.gauWrite k (some g)
  | .gau, false => s.gauStart k (some g)
  | .mat, false => if (s.core k).mat.run.any (fun r => r.phase == 1) then s.matReadAt k g else s.matStart k (some g)
  | _, _ => s

end Sys2Proof.Machine
end

