-- ==== Sys2Proof/Machine/Stream.lean ====
section
/-! DEFINITION. The cluster stream (R225 to R237) and the bridle's words: SSTART, SSTOP, DETACH, JOIN (R239, R240) and GANG (R241);
STREAM_HEAD_START, STREAM_HEAD_SEND and STREAM_WORD_DELIVERY. -/

namespace Sys2Proof.Machine

/-- Whether a core's territory owns a cluster. -/
def State.inTerr (s : State) (k cl : Nat) : Bool := match s.tagOf k with | some t => (s.clus cl).owner == some t | none => false
/-- The clusters that a stream word names. -/
def State.named (s : State) (k : Nat) (terr : Bool) (cl : Nat) : List Nat :=
  if terr then (match s.tagOf k with | some t => s.clustersOf t | none => []) else [cl]

/-- The distance in clusters from a mooring cluster (R237). -/
def clusDist (a b : Nat) : Nat := (Int.natAbs ((a % 16 : Nat) - (b % 16 : Nat) : Int)) + Int.natAbs ((a / 16 : Nat) - (b / 16 : Nat) : Int)

/-- Context 0 of a core has been started, and the core's own tether is over. -/
def State.begins (s : State) (q : Nat) : Bool := (s.stat q).begun || ((s.core q).live 0 && !(s.stat q).tether)
/-- A cluster's tether ends when every enabled core of it but a die supervisor has started (R352). -/
def State.settleTether (s : State) (c : Nat) : State :=
  if ((coresOf c).filter s.plain).all (fun j => (s.stat j).begun) then s.setClus c { s.clus c with tether := false } else s
/-- The start of the head completes the streamed starts of a tethered cluster (R352). -/
def State.headBegins (s : State) (cl : Nat) : State :=
  if (s.clus cl).tether then
    (((coresOf cl).filter s.plain).foldl (fun s q => s.setStat q { s.stat q with begun := s.begins q }) s).settleTether cl
  else s

/-- A head is to start at an index, at the first beat from a time on. -/
def State.startHead (s : State) (cl idx skew at_ : Nat) : State :=
  let c := s.clus cl
  (s.setClus cl { c with head := { c.head with running := true, idx := idx, startAt := some at_, bubble := false, skew := skew } }).headBegins cl
/-- A head sends nothing more; what it sent is delivered. -/
def State.stopHead (s : State) (cl : Nat) : State :=
  let c := s.clus cl
  s.setClus cl { c with head := { c.head with running := false, startAt := none, bubble := false } }

/-- SSTART (R240). A beat is two cc. -/
def execSstart (d a : Reg) (t : Bool) (xs : BitVec 4) (s : State) : Res :=
  let i : Instr := .sstart d a t xs
  .next (s.issue i .u fun s => s.withRegs i [a] fun s =>
    if s.cur.2 ≠ 0 ∨ s.cx.streamed then s.trap illegalOp (wordOf i)
    else
      let k := s.cur.1
      let v := s.cx.reg a
      if xs = 0 ∨ bits v 24 40 ≠ 0 ∨ bits v 14 2 ≠ 0 then s.trap illegalOp (wordOf i)
      else
        let heads := s.named k t (bits v 16 8)
        if heads.any (fun c => !s.inTerr k c) then s.done d 2
        else if heads.any (fun c => (s.clus c).head.running) then s.done d 1
        else
          let m := s.moorClus (s.terrOf k)
          let when_ (c : Nat) : Nat := if t then 2 * ((s.now + 513) / 2 + 4 * xs.toNat * clusDist c m) else s.now + 8
          (heads.foldl (fun s c => s.startHead c (bits v 0 14) xs.toNat (when_ c)) s).done d 0)

/-- Context 0 leaves the stream for local mode (R234): the words behind are discarded, and from now on count as received (R235). -/
def State.leave (s : State) (pc : Nat) : State :=
  let m := s.me
  let s1 := s.setMe { m with stream := { m.stream with buf := [], got := (m.stream.buf.map (·.idx)).foldl nput [], lost := [] } }
  s1.setCx { (s1.cx.complete s.now pc) with mode := .loc }

/-- SSTOP (R240). -/
def execSstop (d a : Reg) (t : Bool) (s : State) : Res :=
  let i : Instr := .sstop d a t
  .next (s.issue i .u fun s => s.withRegs i [a] fun s =>
    if s.cur.2 ≠ 0 then s.trap illegalOp (wordOf i)
    else if s.cx.streamed then
      s.transfer (s.cx.reg a) fun s => if d ≠ 0 ∨ t then s.trap illegalOp (wordOf i) else s.leave (s.cx.reg a).toNat
    else
      let k := s.cur.1
      let v := s.cx.reg a
      if bits v 8 56 ≠ 0 then s.trap illegalOp (wordOf i)
      else
        let heads := s.named k t (bits v 0 8)
        if heads.any (fun c => !s.inTerr k c) then s.done d 2 else (heads.foldl State.stopHead s).done d 0)

/-- DETACH (R234, R240). -/
def execDetach (d a : Reg) (s : State) : Res :=
  let i : Instr := .detach d a
  .next (s.issue i .u fun s => s.withRegs i [d, a] fun s =>
    if s.cur.2 ≠ 0 ∨ !s.cx.streamed then s.trap illegalOp (wordOf i)
    else if s.cx.reg d = 0 then s.finish else s.transfer (s.cx.reg a) fun s => s.leave (s.cx.reg a).toNat)

/-- JOIN (R235, R240): it waits in its place, and the delivery of the word completes it. -/
def execJoin (a : Reg) (xi : Bool) (s : State) : Res :=
  let i : Instr := .join a xi
  .next (s.issue i .u fun s => s.withRegs i [a] fun s =>
    let n := (s.cx.reg a).toNat
    if 16383 < n then s.trap localBounds (word n)
    else if s.cur.2 ≠ 0 ∨ s.cx.streamed then s.trap illegalOp (wordOf i)
    else
      if s.me.stream.got.contains n then s.trap streamLate (word n)
      else s.park (.stream xi))

/-- GANG (R241): it waits for the context's scalar accesses, arrives once, and takes the result of the firing. -/
def execGang (d : Reg) (xi : Bool) (t : BitVec 8) (s : State) : Res :=
  let i : Instr := .gang d xi t
  .next (s.issue i .u fun s =>
    let k := s.cur.1
    if s.cur.2 ≠ 0 ∨ t = 255 ∨ isSup k then s.trap illegalOp (wordOf i)
    else
      let b := s.bridle (clusOf k) (rowOf k)
      match kget b.results (lxOf k) with
      | some w => (s.setBridle (clusOf k) (rowOf k) { b with results := kdel b.results (lxOf k) }).done d w
      | none =>
        if s.arrived k then s.park (.bridle xi)
        else s.settled fun s => (s.bridleArrive k ⟨t.toNat, none, 0⟩).park (.bridle xi))

/-! ### The head (R226) -/

/-- The target of a word that the head takes (R114). -/
def headTarget (idx : Nat) (w : BitVec 32) : Option Int :=
  let t (o : Int) : Option Int := some ((wrapI ((idx : Int) + o)).toNat : Int)
  match decodeOr w with
  | .jmp o => t o.toInt
  | .beqz a o => if a = 0 then t o.toInt else none
  | .bgez a o => if a = 0 then t o.toInt else none
  | .blez a o => if a = 0 then t o.toInt else none
  | .bfull a o => if a = 0 then t o.toInt else none
  | _ => none
/-- The index that follows a word (R236). The head takes no branch of a word that it could not read (R225). -/
def nextAfter (w : StreamWord) : Nat :=
  match (if w.bad then none else headTarget w.idx w.word) with
  | some t => if t ≤ 16383 then t.toNat else w.idx + 1
  | none => w.idx + 1

/-- The head sends the word at its index (R225, R226). A branch taken at index 16,383 to a target in range redirects it, so that it does not stop there
(DESIGN CHOICE, log entry 103). -/
def Cluster.sendWord (c : Cluster) : Cluster :=
  let h := c.head
  let w : StreamWord := ⟨h.idx, (kget c.sstore h.idx).getD 0, c.sbad.contains h.idx⟩
  let taken := headTarget h.idx w.word
  let stops := w.bad || (match decodeOr w.word with | .sstop .. => true | _ => false)
    || (match taken with | some t => 16383 < t | none => h.idx == 16383)
  { c with head := { h with idx := nextAfter w, running := !stops, bubble := !stops && taken.isSome, flight := h.flight ++ [(h.time, w)] } }

/-- The cores of a cluster that stream words reach. -/
def State.streamCores (s : State) (cl : Nat) : List Nat := (coresOf cl).filter (fun k => !s.disabled.contains k)

/-- The core buffers the words that reach it: its context 0 is streamed, or handles a trap or an upcall that it took as a streamed context (R89,
R228). A fault or a HALT leaves it so; once its image is written the buffer is gone (R236). -/
def Core.buffers (c : Core) : Bool :=
  match kget c.ctxs 0 with
  | some x => (x.streamed || (x.spr.inh && x.keeps)) && x.run != .stopped .saved
  | none => false

/-- A beat in which nothing moves (R228). -/
def State.frozen (s : State) (cl : Nat) : Bool := (s.streamCores cl).any (fun k => (s.core k).buffers && 16 ≤ (s.core k).stream.buf.length)

/-- The word that is due at a core (R227). -/
def State.due (s : State) (k : Nat) : Option (Nat × StreamWord) :=
  let h := (s.clus (clusOf k)).head
  match h.flight.find? (fun e => (s.core k).stream.from_ ≤ e.1) with
  | some e => if e.1 + h.pace * (coreX k % 4 + coreY k % 4) ≤ h.time then some e else none
  | none => none

/-- STREAM_HEAD_START (R237): the first word goes out once every word of the earlier run has arrived. -/
def execStreamHeadStart (cluster : Nat) (s : State) : Res :=
  let c := s.clus cluster
  .next (
    match c.head.startAt with
    | none => s
    | some t =>
      if s.now < t || !c.head.flight.isEmpty || s.frozen cluster then s
      else
        let s1 := (coresOf cluster).foldl (fun s k => s.setCore k { s.core k with stream := { (s.core k).stream with from_ := 0 } }) s
        s1.setClus cluster { c with head := { c.head with startAt := none, time := 0, pace := c.head.skew } }.sendWord)

/-- STREAM_HEAD_SEND (R226, R227): one beat of the stream, in which the head sends a word, makes its bubble, or has stopped. -/
def execStreamHeadSend (cluster : Nat) (s : State) : Res :=
  let c := s.clus cluster
  .next (
    if s.frozen cluster || (s.streamCores cluster).any (fun k => (s.due k).isSome) then s
    else
      let c1 := { c with head := { c.head with time := c.head.time + 1 } }
      s.setClus cluster
        (if !c.head.running || c.head.startAt.isSome then c1
        else if c.head.bubble then { c1 with head := { c1.head with bubble := false } }
        else c1.sendWord))

/-- Context 0 waits for the word of this index: in a JOIN, or resumed there. -/
def State.awaits (s : State) (k idx : Nat) : Bool :=
  match kget (s.core k).ctxs 0 with
  | none => false
  | some x =>
    match x.run, x.mode with
    | .parked _, .joining n => n == idx
    | .parked (.stream _), .loc => (match s.nextWord k 0 with | some (.join a _) => (x.reg a).toNat == idx | _ => false)
    | _, _ => false

/-- STREAM_WORD_DELIVERY (R227, R234, R235): a word reaches a core, which buffers it or discards it. -/
def execStreamWordDelivery (core : Nat) (s : State) : Res :=
  .next (
    if s.disabled.contains core then s
    else
      match s.due core with
      | none => s
      | some (e, w) =>
        let cl := clusOf core
        let joins := s.awaits core w.idx
        let m := s.core core
        let kept := joins || m.buffers
        let st : StreamBuf :=
          { m.stream with got := nput m.stream.got w.idx, lost := if joins then [] else if kept then m.stream.lost else nput m.stream.lost w.idx, last := some w.idx, next := nextAfter w, from_ := e + 1,
                          buf := if joins then [w] else if m.buffers then m.stream.buf ++ [w] else m.stream.buf }
        let m1 := { m with stream := st }
        let m2 := if joins then m1.setCtx 0 { ((m1.ctx 0).complete s.now w.idx) with mode := .streamed, latch := if (m1.ctx 0).mode = .loc then Latch.empty else (m1.ctx 0).latch } else m1
        let s1 := s.setCore core m2
        let c := s1.clus cl
        -- a word that has reached every core is under way no more
        let left := c.head.flight.filter (fun f => (s1.streamCores cl).any (fun k => (s1.core k).stream.from_ ≤ f.1))
        s1.setClus cl { c with head := { c.head with flight := left } })

end Sys2Proof.Machine
end

