-- ==== Sys2Proof/Machine/Task.lean ====
section
/-! DEFINITION. The cluster dispatcher (R270 to R276), held helpers (R349), and the power controller (R276, R358): DISPATCH_REQUEST,
HELPER_DRAIN, BUCKET_REFILL, TEMPERATURE_REFRESH, POWER_CONTROL and THERMAL_SHUTDOWN. -/

namespace Sys2Proof.Machine

/-- cc in a microsecond (R2). -/
def ccPerUs : Nat := 700

/-! ### Charges (R276) -/

def State.charge (s : State) (t c : Nat) : Nat := bits ((s.terr t).win.tclass.toList.getD c 0) 0 24
def State.fixedLatency (s : State) (t c : Nat) : Bool := wbit ((s.terr t).win.tclass.toList.getD c 0) 24
/-- A charge of a class, `n` times, fits the bucket of a cluster. -/
def State.fits (s : State) (t cl c n : Nat) : Bool :=
  let left : Int := (s.clus cl).bucket - (if s.fixedLatency t c then (0 : Nat) else bits (s.terr t).win.tpower 0 24)
  ((n * s.charge t c : Nat) : Int) ≤ left
/-- The bucket of a cluster gains or gives energy; it holds at most 64·allow. -/
def Cluster.bank (c : Cluster) (e : Int) : Cluster := { c with bucket := min (64 * c.allow : Nat) (c.bucket + e) }
def State.addEnergy (s : State) (cl : Nat) (e : Int) : State := s.setClus cl ((s.clus cl).bank e)

/-! ### Cores that qualify (R273) -/

/-- The cluster is a dispatcher's: owned by a territory that is not paused, neither tethered nor in a move past its proposal. -/
def State.dispatches (s : State) (cl : Nat) : Bool :=
  (match (s.clus cl).owner with | some t => !(s.terr t).paused | none => false) && !(s.clus cl).tether && (match (s.clus cl).move with | some m => m.phase == .proposed | none => true)

/-- A record can start on a core at all: its context 0 has been started, it works, and it is not tethered. -/
def State.startable (s : State) (k : Nat) : Bool :=
  s.plain k && s.works k && (s.stat k).begun && !(s.stat k).tether && (s.core k).live 0
/-- A core qualifies with `n` free slots and helper numbers, beside those reserved for records chosen before and for helpers that wait for a slot. -/
def State.qualifies (s : State) (k n : Nat) : Bool :=
  let c := s.core k
  let numbers := ((List.range 11).drop 1).filter c.helperFree
  s.startable k && n + s.reservedOn k + c.slotsUsed + c.slotWaiters.length ≤ c.slots && n + s.reservedOn k ≤ numbers.length

/-- The coolest core of a cluster that passes a test, ties to the lowest 4·ly + lx. -/
def State.coolest (s : State) (cl : Nat) (ok : Nat → Bool) : Option Nat :=
  ((coresOf cl).filter ok).foldl (fun b k => match b with
    | none => some k
    | some o => if (s.stat k).temp < (s.stat o).temp then some k else some o) none

/-! ### Held helpers (R349) -/

def State.entryAt (s : State) (t i : Nat) : Nat := tsaveBase (s.terr t).win.tsave + 17408 * i
/-- The header of an entry (Table 20.7). -/
def State.entryHeader (s : State) (t i : Nat) : Nat := s.gnat t (s.entryAt t i) 8

/-- The image area of Table 9.3 that a context brings to another core (R177), copied whole, and its sequencer. -/
def SavedCtx.place (v : SavedCtx) (c : Core) (k x : Nat) : Core :=
  let c1 := if v.home / 16 = k then c else { c.lwrite 0x1E000 v.area with lbad := v.areaBad.foldl nput (heal c.lbad 0x1E000 0x800) }
  match v.seq with
  | some q => { c1 with seq := { q with owner := some x } }
  | none => c1

/-- Puts the context `h` that entry `i` holds on core `k` as context `x` (R93): the commands held with it queue again, and what the core's image
area, its sequencer and its matrix save area held for it are back. -/
def State.unsaved (s : State) (t i k x : Nat) (h : Ctx) : State :=
  let sv := kget (s.terr t).saved i
  let cmds : List Cmd := match sv with | some v => v.cmds.map (fun q => { q with ctx := x }) | none => []
  let c := (match sv with | some v => v.place (s.core k) k x | none => s.core k).setCtx x h
  let c1 := cmds.foldl (fun c q => c.setEng (engOf q.instr) { c.eng (engOf q.instr) with queue := (c.eng (engOf q.instr)).queue ++ [q] }) c
  let c2 : Core :=
    if s.entryHeader t i / 2 ^ 28 % 2 = 1 then
      { c1.lwrite (256 * bits c.spr.msave 8 12) (s.gread t (s.entryAt t i + 640) 16768) with spr := { c.spr with msaveClaim := true } }
    else c1
  let s1 := s.setCore k c2
  s1.setTerr t { s1.terr t with saved := kdel (s1.terr t).saved i }

/-- Restores entry `i` as helper `x` of core `k` (R93, R94): it has no parent, and the entry is free. -/
def State.restoreHeld (s : State) (t i k x : Nat) : State :=
  let cls := s.entryHeader t i / 2 ^ 29 % 8
  let sv := kget (s.terr t).saved i
  let base : Ctx := match sv with | some v => v.ctx | none => Ctx.start 0 .u .running
  let task : TaskInfo := match sv.bind (·.task) with
    | some u => { u with own := true, pair := none, charged := s.charge t cls }
    | none => ⟨true, [], none, false, none, s.charge t cls, none⟩
  let h := Ctx.ofImage base s.now (s.gread t (s.entryAt t i + 128) 512)
  let h1 : Ctx := { h with run := .running, mode := .loc, parent := none, task := some task, rep := none, acc := none }
  ((s.unsaved t i k x h1).gwrite t (s.entryAt t i) [0]).addEnergy (clusOf k) (-(s.charge t cls : Int))

/-- A core can take an entry: a matrix area needs the save area of the core, enabled and free. -/
def State.takesEntry (s : State) (t i k : Nat) : Bool :=
  s.qualifies k 1 && (s.entryHeader t i / 2 ^ 28 % 2 == 0 || (wbit (s.core k).spr.msave 0 && !(s.core k).spr.msaveClaim))

/-- The oldest held-helper entry that some core of a cluster can take: the smallest generation, then the lowest index. -/
def State.oldestHeld (s : State) (t cl : Nat) : Option Nat :=
  ((s.saveWith t 1).filter (fun i => (s.coolest cl (s.takesEntry t i)).isSome)).foldl (fun b i => match b with
    | none => some i
    | some o => if s.entryHeader t i / 2 ^ 32 < s.entryHeader t o / 2 ^ 32 then some i else some o) none

/-! ### The choice (R272) -/

/-- A candidate: its slot, its record, and its effective key. -/
structure Cand where
  slot : Nat
  rec_ : Record
  key : Nat
  deriving DecidableEq, Repr

/-- A helper, live or ended and not drained, that was started from a record of queue `q`. -/
def TaskInfo.of (u : Option TaskInfo) (q : Nat) : Bool := u.any (fun u => u.own && u.queue == some q)

/-- Some record that queue `q` of a territory gave before is still to end and drain (R274): chosen, started on one of its cores, or held in its
save region. A held helper counts until it is restored, also when software has freed its entry or the territory was shut down and
launched again (DESIGN CHOICE, log entry 102). -/
def State.stillLive (s : State) (t q : Nat) : Bool :=
  (s.terr t).chosenOf q ≠ 0 || (s.terr t).saved.any (fun e => TaskInfo.of e.2.task q)
    || s.cores.any (fun e => s.tagOf e.1 == some t &&
        (e.2.ctxs.any (fun h => TaskInfo.of h.2.task q) || e.2.ended.any (fun d => !d.2.drained && TaskInfo.of d.2.task q)))

/-- Slots that a record takes. -/
def slotsFor (r : List Byte) : Nat := if recPaired r then 2 else 1
/-- The core of a cluster on which a record would start. -/
def State.coreFor (s : State) (cl : Nat) (r : Record) : Option Nat :=
  s.coolest cl (fun k => s.qualifies k (slotsFor r.bytes) && (match r.pin with | some p => p == k | none => true))

/-- The candidates of a cluster, best first. A head that no core of the cluster can start now, as its pin core is not free or none has two free slots for
a pair, is no candidate and holds up no other (DESIGN CHOICE, log entry 105). -/
def State.candidates (s : State) (t cl : Nat) : List Cand :=
  let one (e : Nat × QSlot) : Option Cand :=
    match e.2.recs with
    | [] => none
    | r :: _ =>
      if (s.coreFor cl r).isNone || (recBarrier r.bytes && s.stillLive t e.2.queue) then none
      else some ⟨e.1, r, recKey r.bytes - (s.now - e.2.headSince) / ccPerUs * e.2.rho⟩
  let before (a b : Cand) : Bool :=
    a.key < b.key || (a.key == b.key && (a.rec_.postedAt < b.rec_.postedAt || (a.rec_.postedAt == b.rec_.postedAt && a.slot < b.slot)))
  let rec insert (c : Cand) : List Cand → List Cand
    | [] => [c]
    | o :: os => if before c o then c :: o :: os else o :: insert c os
  ((s.terr t).slots.filterMap one).foldl (fun l c => insert c l) []

/-- A record is chosen for core `k` (R273): it leaves its queue, the bucket gives its charge, and its slots are reserved.
The time of its first refusal is forgotten, also if it comes back to its queue (DESIGN CHOICE, log entry 105). -/
def State.reserve (s : State) (t cl k : Nat) (c : Cand) : State :=
  let n := slotsFor c.rec_.bytes
  let charge := n * s.charge t (recClass c.rec_.bytes)
  let s1 := s.addEnergy cl (-(charge : Int))
  let s2 := s1.setTerr t { s1.terr t with chosen := (s1.terr t).chosen ++ [⟨cl, some k, c.rec_, charge, n⟩] }
  let s3 := s2.setRecs t c.slot ((s2.slot t c.slot).recs.drop 1)
  s3.setClus cl { s3.clus cl with refused := (s3.clus cl).refused.filter (fun f => f.rec_.id ≠ c.rec_.id) }

/-- Takes the first candidate whose charge fits; each one passed over is remembered from its first refusal. -/
def State.choose (s : State) (t cl : Nat) : List Cand → State
  | [] => s
  | c :: cs =>
    let r := c.rec_.bytes
    if s.fits t cl (recClass r) (slotsFor r) then
      match s.coreFor cl c.rec_ with
      | some k => s.reserve t cl k c
      | none => s
    else
      let f := (s.clus cl).refused
      let s1 := if f.any (fun e => e.rec_.id = c.rec_.id) then s else s.setClus cl { s.clus cl with refused := f ++ [⟨c.rec_, s.now⟩] }
      if bits (s.terr t).win.tpower 32 16 = 0 then s1 else s1.choose t cl cs

/-- DISPATCH_REQUEST (R270, R272, R273, R349): one request of a cluster's dispatcher. A held helper goes before every queue,
also while a refused record past its ageing limit holds up the queues (DESIGN CHOICE, log entry 105). A record that is chosen starts in a step of its own (`State.startChosen`). -/
def execDispatchRequest (cluster : Nat) (s : State) : Res :=
  .next (
    match (s.clus cluster).owner with
    | none => s
    | some t =>
      if !s.dispatches cluster || !(coresOf cluster).any (fun k => s.qualifies k 1) then s
      else
        match s.oldestHeld t cluster with
        | some i =>
          match s.coolest cluster (s.takesEntry t i) with
          | some k => if s.fits t cluster (s.entryHeader t i / 2 ^ 29 % 8) 1 then s.restoreHeld t i k (s.core k).freeHelper else s
          | none => s
        | none =>
          let queued (r : Record) : Bool := (s.terr t).slots.any (fun e => e.2.recs.any (fun q => q.id = r.id))
          let s1 := s.setClus cluster { s.clus cluster with refused := (s.clus cluster).refused.filter (fun f => queued f.rec_) }
          -- after the ageing limit nothing starts until the refused record fits
          let limit := ccPerUs * bits (s1.terr t).win.tpower 32 16
          let due (f : Refused) : Bool := limit ≤ s1.now - f.since && !s1.fits t cluster (recClass f.rec_.bytes) (slotsFor f.rec_.bytes)
          if (s1.clus cluster).refused.any due then s1 else s1.choose t cluster (s1.candidates t cluster))

/-! ### The start of a chosen record (R273) -/

/-- A chosen record goes back to its queue, at its key and its posting order; one whose queue has no slot any more goes to the ring, and waits
while that is full. Its charge goes back to the bucket in full. -/
def State.putBack (s : State) (t : Nat) (c : Chosen) : State :=
  let s1 := s.addEnergy c.cluster c.charge
  let out := (s1.terr t).chosen.filter (fun o => o.rec_.id ≠ c.rec_.id)
  let gone := s1.setTerr t { s1.terr t with chosen := out }
  let q := recQueue c.rec_.bytes
  match (s1.terr t).slotOf q with
  | some j => gone.setRecs t j (insertRec c.rec_ (gone.slot t j).recs)
  | none =>
    match gone.ringPost t q c.rec_.bytes c.rec_.postedAt c.rec_.pin with
    | some s2 => s2
    | none => s1.setTerr t { s1.terr t with chosen := out ++ [{ c with core := none, charge := 0 }] }

/-- Starts the helper of a chosen record, or its pair (R273, R277), on core `k`. -/
def State.startRecord (s : State) (t k : Nat) (c : Chosen) : State :=
  let r := c.rec_.bytes
  let m := s.core k
  let args : List Word := (List.range 6).map (fun i => word (recField r (8 + 8 * i) 8))
  let hb := (m.ctx 0).spr.hbtiv
  let task (p : Option (Nat × Bool)) : TaskInfo := ⟨true, r, some (recQueue r), false, p, s.charge t (recClass r), c.rec_.pin⟩
  let start (m : Core) (x : Nat) (p : Option (Nat × Bool)) : Core := m.startHelper (m.slotsUsed < m.slots) s.now x (recEntry r) args hb none (some (task p))
  let x := m.freeHelper
  let m1 :=
    if recPaired r then
      let y := (((List.range 11).drop 1).find? (fun y => y ≠ x && m.helperFree y)).getD 0
      start (start m x (some (y, false))) y (some (x, true))
    else start m x none
  (s.setCore k m1).setTerr t { s.terr t with chosen := (s.terr t).chosen.filter (fun o => o.rec_.id ≠ c.rec_.id) }

/-- The `i`-th record chosen in a territory reaches its core and starts (R273). If the core has stopped meanwhile it goes to another one of its
cluster, or back to its queue; while its core has no helper number free it waits. -/
def State.startChosen (s : State) (t i : Nat) : State :=
  match (s.terr t).chosen[i]? with
  | none => s
  | some c =>
    match c.core with
    | none => s.putBack t c
    | some k =>
      if s.dispatches c.cluster && s.startable k then
        (if c.slots ≤ (((List.range 11).drop 1).filter (s.core k).helperFree).length then s.startRecord t k c else s)
      else
        match if s.dispatches c.cluster then s.coreFor c.cluster c.rec_ else none with
        | some o => s.setTerr t { s.terr t with chosen := (s.terr t).chosen.map (fun d => if d = c then { c with core := some o } else d) }
        | none => s.putBack t c

/-- The records chosen for a cluster that starts nothing more go back (R348). -/
def State.putBackAll (s : State) (t cl : Nat) : State := ((s.terr t).chosen.filter (fun c => c.cluster == cl && c.core.isSome)).foldl (fun s c => s.putBack t c) s

/-- HELPER_DRAIN (R96, R270, R276): an ended helper's last operation is over. A task gives back what its work did not use, and a nonzero
status is faulted to the territory. -/
def execHelperDrain (core cx energy : Nat) (s : State) : Res :=
  let c := s.core core
  .next (
    match kget c.ended cx with
    | none => s
    | some d =>
      if d.drained || c.pending cx then s
      else
        let ended := if d.parent.isNone then kdel c.ended cx else kput c.ended cx { d with drained := true }
        let s1 := s.setCore core { c with ended := ended }
        match d.task with
        | none => s1
        | some u =>
          if !u.own then s1
          else
            let s2 := s1.addEnergy (clusOf core) ((u.charged : Int) - energy)
            if d.kind = 0 ∨ u.rec_.isEmpty then s2 else 
              s2.taskFault (s.terrOf core) u.rec_ d.cause (some (core, cx)) (if d.kind = 1 then d.wide.spr.eval else 0))

/-- BUCKET_REFILL (R276): every bucket gains allow. -/
def execBucketRefill (s : State) : Res :=
  .next { s with clusters := s.clusters.map (fun e => (e.1, e.2.bank e.2.allow)) }

/-- TEMPERATURE_REFRESH (R273): the readings of a cluster's cores, by 4·ly + lx. -/
def execTemperatureRefresh (cluster : Nat) (readings : List Nat) (s : State) : Res :=
  .next ((List.range 16).foldl (fun s i =>
    match readings[i]? with
    | some t => s.setStat (coreIn cluster (i % 4) (i / 4)) { s.stat (coreIn cluster (i % 4) (i / 4)) with temp := t }
    | none => s) s)

/-- ⌊E·f(T)/256⌋ of R358, up to 65,535: f falls from 1 at 85 °C to 0 at 105 °C. -/
def allowance (e t : Nat) : Nat :=
  min 65535 (if t ≤ 85 then e / 256 else if 105 ≤ t then 0 else e * (105 - t) / (20 * 256))

/-- POWER_CONTROL (R358): from the power outside the clusters, in mW, and the hottest sensor of each cluster. -/
def execPowerControl (outsideMilliwatts : Nat) (hottest : List Nat) (s : State) : Res :=
  let e := 2000000 - outsideMilliwatts
  .next ((List.range 256).foldl (fun s c =>
    let t := (hottest[c]?).getD (s.clus c).hottest
    s.setClus c (Cluster.bank { s.clus c with hottest := t, allow := allowance e t } 0)) s)

/-- THERMAL_SHUTDOWN (R358): module power goes at 110 °C, and the event is reported to the host. -/
def execThermalShutdown (reading : Nat) (s : State) : Res :=
  .next (if reading < 110 then s else { s with power := false, io := { s.io with msix0 := s.io.msix0 + 1 } })

end Sys2Proof.Machine
end

