-- ==== Sys2Proof/Machine/Stop.lean ====
section
/-! DEFINITION. Upcalls (R91, R353), stops and restores of a context (R92, R93, R236, R262), UPRET (R361), and the fence of a burner
(R104, R323): UPCALL_DELIVERY, UPCALL_RETRY, CONTEXT_STOP, CONTEXT_RESTORE, UPRET, UPRET.yield, PACKET_ABORT and BURNER_EXPIRY. -/

namespace Sys2Proof.Machine

/-! ### Boundaries -/

/-- A live context that is at an instruction boundary: no packet is open, and the word under way has had no effect yet. -/
def State.atBoundary (s : State) (k x : Nat) : Bool :=
  let c := s.ctx k x
  (s.core k).live x && c.pkt.isNone && !c.committed && c.load.isNone && (match c.run with | .stopped _ => false | _ => true)

/-- The context leaves the word it waits in: the access is dropped, and its arrivals are withdrawn (R238, R280). -/
def State.leaveWait (s : State) (k x : Nat) : State :=
  let c := s.core k
  let s1 := s.setCore k ({ c with aside := c.aside.filter (fun a => !(a.ctx == x && a.cmd.isNone)) }.setCtx x { c.ctx x with acc := none, rep := none })
  let gang := x == 0 && (kget (s.bridle (clusOf k) (rowOf k)).arrivals (lxOf k)).any (fun a => a.mat.isNone)
  (if gang then s1.bridleLeave k else s1).dropArrivals k

/-! ### An open packet in its time -/

/-- PACKET_ABORT (R194): 1,024 cc after its SNDO the packet is dropped, its token faults, and the context traps with the SNDO in EVAL, out of the word that it waits in. -/
def execPacketAbort (core cx : Nat) (s : State) : Res :=
  let c := s.ctx core cx
  .next (
    match c.pkt with
    | none => s
    | some p =>
      if !(s.core core).live cx || !s.works core || s.now < p.openedAt + 1024 || c.committed || c.load.isSome then s
      else
        let s1 := ((s.setCtx core cx { c with pkt := none }).dropPkt (some p)).settle core cx (some p.tok) (.faulted packetAbort)
        -- a context that is stopped loses its packet only
        match c.run with
        | .stopped _ => s1
        | _ => (s1.leaveWait core cx).asCtx core cx fun s => (s.setCx { s.cx with pc := s.me.stopPc s.cx }).trap packetAbort (word p.pc))

/-! ### Upcalls -/

/-- EVAL of an upcall as context 0 takes it: a LOSS names the µs left of its deadline (Table 20.10). -/
def State.upcallEval (s : State) (k : Nat) (cause : BitVec 8) (eval : Word) : Word :=
  if cause ≠ lossCause then eval
  else
    match (s.clus (clusOf k)).move with
    | none => eval
    | some m => word (eval.toNat + 2 ^ 8 * (bits m.pcfg 24 12 - (s.now - m.began) / 700))

/-- UPCALL_DELIVERY (R91): the oldest upcall of a core enters its handler. -/
def execUpcallDelivery (core : Nat) (s : State) : Res :=
  .next (
    match (s.core core).upq with
    | [] => s
    | (cause, ev) :: rest =>
      let c0 := s.ctx core 0
      if !s.works core || !s.atBoundary core 0 || c0.spr.inh || c0.stopping then s
      else
        match (s.terr (s.terrOf core)).upcallEntry cause with
        | none => s.setCore core { s.core core with upq := rest }
        | some pc =>
          let epc := (s.core core).stopPc c0
          let s1 := (s.setCore core { s.core core with upq := rest }).leaveWait core 0
          let c := s1.ctx core 0
          s1.setCtx core 0
            { c.setRun s.now .running with
              spr := { c.spr with epc := word epc, ecause := cause, eval := s.upcallEval core cause ev, hlatch := c.latch, plev := c.level,
                                  upc := true, inh := true, str := c.mode != .loc, upcall := BitVec.ofNat 2 (cause.toNat - 0x20) }
              keeps := c.streamed
              latch := Latch.empty
              level := .t
              mode := .loc
              waited := false
              ahead := []
              pc := pc })

/-- UPCALL_RETRY (R353): the oldest upcall held for a core enters its queue when there is room. -/
def execUpcallRetry (k : Nat) (s : State) : Res :=
  .next (
    match s.heldUpcalls[k]? with
    | none => s
    | some h =>
      if 8 ≤ (s.core h.core).upq.length || (s.heldUpcalls.take k).any (fun o => o.core == h.core) then s
      else { s.setCore h.core { s.core h.core with upq := (s.core h.core).upq ++ [(h.cause, h.eval)] } with heldUpcalls := s.heldUpcalls.eraseIdx k })

/-! ### Stopping (R92) -/

/-- The wide side lets a context stop (R92): nothing that it issued is started, set aside, still being pushed or sent by GSEND and not accepted, and no head of its queues can
start, so that what remains is held, and the trailer of a pair has caught up with its leader: under a guard, for queue entries that only the context could bring, as a matrix operation that has not
started or was pre-empted (R262), or behind such a command. -/
def State.stopReady (s : State) (k x : Nat) : Bool :=
  let c := s.core k
  ((kget c.pairs x).getD []).all (·.held) && !c.started x && !c.engines.any (fun e => (headsOf e.queue []).any (fun q => q.ctx == x && c.canStart q))
    && !c.aside.any (fun a => a.ctx == x && a.cmd.isSome) && !c.outs.any (fun o => o.ctx == x && (o.td.isSome || o.wide))

/-- Stops a context at a boundary: one that is streamed, or handles a trap of the stream, loses its buffer (R236), and the image is written. -/
def State.stopCtx (s : State) (k x : Nat) : State :=
  let s1 := s.leaveWait k x
  let c := s1.core k
  let h := c.ctx x
  let pc := c.stopPc h
  let c1 : Core := if x = 0 then { c with stream := { c.stream with buf := [], lost := (c.stream.buf.map (·.idx)).foldl nput c.stream.lost } } else c
  let h1 : Ctx :=
    { h.setRun s.now (.stopped .saved) with
      pc := pc, mode := if h.mode = .loc then .loc else .joining pc, keeps := false, stopping := false, waited := false, ahead := [] }
  (s1.setCore k (({ c1 with pairs := kdel c1.pairs x } : Core).setCtx x h1)).writeImage k x

/-- The context is asked to stop: it issues nothing past its next boundary. -/
def State.askStop (s : State) (k x : Nat) : State := s.setCtx k x { s.ctx k x with stopping := true }

/-- CONTEXT_STOP (R92): the context is asked to stop; at a boundary, once its wide side has come to rest, its image is written. -/
def execContextStop (core cx : Nat) (s : State) : Res :=
  .next (
    if !s.works core || !(s.core core).live cx || (match (s.ctx core cx).run with | .stopped _ => true | _ => false) then s
    else
      let s1 := s.askStop core cx
      if s1.atBoundary core cx && s1.stopReady core cx then s1.stopCtx core cx else s1)

/-- The save entry of the core's own context 0 or ballonet (Table 20.7), which a pause or a drain has put there. -/
def State.savedEntry (s : State) (core cx : Nat) : Option Nat :=
  match s.tagOf core with
  | none => none
  | some t =>
    if cx ≠ 0 ∧ cx ≠ 11 then none
    else ((s.terr t).saved.find? (fun e => e.2.home == 16 * core + cx && s.saveState t e.1 == (if cx = 0 then 2 else 3))).map (·.1)

/-- What a context does after its restore: a streamed one acts as a JOIN at its index (R236). -/
def State.resumed (s : State) (core cx : Nat) (h : Ctx) : State :=
  if h.mode = .loc then s else s.asCtx core cx fun s => s.resumeStream h.pc (s.me.stream.lost.contains h.pc)

/-- A context 0 or ballonet comes back from its save entry, which stays until firmware frees it (R93, R349, R374). That with it a paused territory
goes on is DEDUCED (log entry 62). -/
def State.restoreSaved (s : State) (core cx i : Nat) : State :=
  let t := s.terrOf core
  let base : Ctx := match kget (s.terr t).saved i with | some v => v.ctx | none => Ctx.start 0 .u .running
  let h := Ctx.ofImage base s.now (s.gread t (s.entryAt t i + 128) 512)
  let s1 := s.unsaved t i core cx { h with run := .running, acc := none }
  (s1.setTerr t { s1.terr t with paused := false }).resumed core cx h

/-- CONTEXT_RESTORE (R93, R236): the image is written back, from the core's own memory or from a save entry; a streamed context resumes as a JOIN
at its index. -/
def execContextRestore (core cx : Nat) (s : State) : Res :=
  .next (
    let c := s.core core
    if !c.live cx then
      match s.savedEntry core cx with
      | some i => if !s.works core || s.draining core then s else s.restoreSaved core cx i
      | none => s
    else if !s.works core || s.draining core || (c.ctx cx).run ≠ .stopped .saved then s
    else
      let h := c.getImage s.now cx
      (s.setCtx core cx { h with run := .running }).resumed core cx h)

/-- HELPER_SLOT_RESTORE (R94): the helper that has waited longest takes a free slot, its image read back; or, with none free, the slot of a
helper parked in HJOIN, which is stopped and waits in its place. A helper whose child is still to drain is not restored. -/
def execHelperSlotRestore (core : Nat) (s : State) : Res :=
  let c := s.core core
  let joining (x : Nat) (h : Ctx) : Bool :=
    (match h.run with | .parked (.child _) => true | _ => false) && (c.joins x).isSome && s.atBoundary core x && s.stopReady core x
  let restored (c : Core) (x : Nat) : Core := c.setCtx x ((c.getImage s.now x).setRun s.now .running)
  .next (
    match c.slotWaiters.foldl
        (fun b e => match b with
          | none => some e
          | some o => if e.2.slotAt < o.2.slotAt then some e else some o) none with
    | none => s
    | some (x, _) =>
      if c.slotsUsed + s.reservedOn core < c.slots then s.setCore core (restored c x)
      else
        match c.ctxs.find? (fun e => 1 ≤ e.1 && e.1 ≤ 10 && joining e.1 e.2) with
        | none => s
        | some (y, g) =>
          let s1 := s.leaveWait core y
          let c1 := (s1.core core).setCtx y { ((s1.core core).ctx y).setRun s.now (.stopped .slot) with stopping := g.stopping, slotAt := s.now }
          s1.setCore core (restored (c1.putImage s.now y) x))

/-! ### UPRET (R361) -/

/-- The checks of UPRET, then `k`. -/
def upretWord (i : Instr) (yield : Bool) (k : State → State) (s : State) : State :=
  s.issue i .t fun s =>
    let sp := s.cx.spr
    if !sp.inh || !sp.upc then s.trap illegalOp (wordOf i)
    else if yield && sp.upcall ≠ 1 then s.trap illegalOp (wordOf i)
    else k s

/-- What UPRET goes on with at EPC: in local mode a bad target traps, as one of ERET does (R34). -/
def State.upretTo (s : State) (k : State → State) : State :=
  if s.cx.spr.str then k s else s.transfer s.cx.spr.epc k

/-- UPRET (R361). -/
def execUpret (s : State) : Res := .next (upretWord .upret false (fun s => s.afterLoad fun s => s.upretTo State.trapReturn) s)

/-- The drain of a core waits no longer for its context 0 (R348, R361). -/
def State.endWait (s : State) (k : Nat) : State :=
  let b := clusOf k
  match (s.clus b).move with
  | some m => if m.phase = .draining then s.setClus b { s.clus b with move := some { m with yielded := nput m.yielded k } } else s
  | none => s

/-- UPRET.yield (R361): context 0 stops at EPC once its commands have completed (R92). -/
def execUpretYield (s : State) : Res :=
  .next (upretWord .upretYield true (fun s => s.afterLoad fun s => s.upretTo fun s =>
    if !s.stopReady s.cur.1 0 || s.cx.pkt.isSome then ((s.askStop s.cur.1 0).setAcc (some ⟨phYield, 0, none⟩)).park .wide
    else
      let c := s.cx
      let sp := c.spr
      let c1 : Ctx := { c with latch := sp.hlatch, level := sp.plev, acc := none, pc := sp.epc.toNat, mode := if sp.str then .joining sp.epc.toNat else .loc,
                               spr := { sp with inh := false, upc := false } }
      ((s.setCx c1).stopCtx s.cur.1 0).endWait s.cur.1) s)

/-! ### The burner (R104, R323) -/

/-- The mesh neighbours of a core: direction and core. -/
def neighbours (k : Nat) : List (Nat × Nat) :=
  let x := coreX k
  let y := coreY k
  (if 0 < y then [(0, coreAt x (y - 1))] else []) ++ (if x < 63 then [(1, coreAt (x + 1) y)] else [])
    ++ (if y < 63 then [(2, coreAt x (y + 1))] else []) ++ (if 0 < x then [(3, coreAt (x - 1) y)] else [])

/-- BURNER_EXPIRY (R104, R323): the core is fenced, its neighbours of the same territory hear of it, and so does the supervisor. -/
def execBurnerExpiry (core cx : Nat) (s : State) : Res :=
  .next (
    let c := s.ctx core cx
    if !(s.core core).live cx || !s.works core || c.spr.hbtiv = 0 || !c.run.ages || c.burnLeft s.now ≠ 0 then s
    else
      let s1 := s.setStat core { s.stat core with fenced := true }
      let s2 := (neighbours core).foldl (fun s n =>
        if (s.tagOf core).isSome && s.tagOf n.2 == s.tagOf core && (s.core n.2).live 0 && !s.disabled.contains n.2 then
          s.upcall n.2 neighbourFenced (word ((n.1 + 2) % 4 * 2 ^ 12 + core))
        else s) s1
      s2.report core 0 0 0 5 cx 0 0)

end Sys2Proof.Machine
end

