-- ==== Sys2Proof/Machine/Supervisor.lean ====
section
/-! DEFINITION. The supervisor's work: TINVB (R312), SCRUB (R325) and TAILRD (R326); walks (R310, R374); fault messages (R315); the control
packets (R316, R324); and the kill of a unit (R320, R322). -/

namespace Sys2Proof.Machine

/-! ### Zeroing -/

/-- Link registers of the neighbours that face a core are emptied (R325), where `out` holds of the neighbour. -/
def State.emptyFacing (s : State) (k : Nat) (out : Nat → Bool) : State :=
  (neighbours k).foldl (fun s n =>
    if out n.2 then s.setCore n.2 { s.core n.2 with links := Vector.ofFn (fun i => if i.val = (n.1 + 2) % 4 then none else (s.core n.2).links[i]) } else s) s

/-- A core as SCRUB leaves it (R325): zeroed, with no live context; CYC starts again, and its arrivals at a bridle or a group are withdrawn. -/
def State.zeroCore (s : State) (k : Nat) : State :=
  let s1 := s.setCore k { Core.reset k with ctxs := [], slots := (s.core k).slots, corrected := (s.core k).corrected }
  let s2 := s1.setStat k { s.stat k with killed := false, begun := false, cyc0 := s.now }
  (s2.bridleLeave k).dropArrivals k

/-- A context that a rule about stopped contexts does not cover: live, and neither stopped nor behind a fence (R381, R323). -/
def State.unstopped (s : State) (k : Nat) : Bool :=
  !(s.stat k).fenced && (s.core k).ctxs.any (fun e => match e.2.run with | .stopped _ => false | _ => true)

/-- The slice line that holds an address (R292), in 64-bit words. -/
def lineWords (pa : Nat) : List Nat := (List.range 16).map (pa / 128 * 16 + ·)

/-- SCRUB.line (R325): the correctable words of a line of this die are rewritten. -/
def scrubLine (d : Reg) (pa : Nat) (s : State) : State :=
  let h := homeOf pa
  if !(isGddr pa || isBase pa) || s.noStorage pa || h / 64 ≠ dieOf s.cur.1 then s.done d 2
  else
    let ws := lineWords pa
    let sl := s.slice h
    let weak := sl.weak.filter ws.contains
    let s1 := s.setSlice h { sl with weak := sl.weak.filter (fun w => !ws.contains w), corr := sl.corr + BitVec.ofNat 32 weak.length }
    s1.done d (if s.gbad.any ws.contains then 3 else if weak.isEmpty then 0 else 1)

/-- SCRUB of a core or of a cluster (R325): the cores named are zeroed, and the links that face them are emptied. -/
def scrubCores (d : Reg) (clus : Bool) (v : Nat) (target : List Nat) (s : State) : State :=
  if target.any (fun c => dieOf c ≠ dieOf s.cur.1) then s.done d 2
  else if target.any s.unstopped then s.done d 1
  else
    let cores := target.filter (fun c => !s.disabled.contains c)
    let s1 := cores.foldl State.zeroCore s
    let s2 := cores.foldl (fun s c => s.emptyFacing c (fun n => !target.contains n)) s1
    (if clus then s2.setClus v { s2.clus v with sstore := [], sbad := [], tlb := [], walks := [] } else s2).done d 0

/-- SCRUB (R325): it waits for the context's earlier accesses as FENCE.rel.core does. -/
def execScrub (d a : Reg) (m : BitVec 2) (s : State) : Res :=
  let i : Instr := .scrub d a m
  .next (s.issue i .s fun s => s.withRegs i [a] fun s =>
    let v := s.cx.reg a
    let target := if m = 0 then [v.toNat] else coresOf v.toNat
    if m = 3 then s.trap illegalOp (wordOf i)
    else if m = 2 then s.fenceRel 0 (fun _ => true) (scrubLine d v.toNat)
    else if (if m = 0 then bits v 12 52 ≠ 0 else bits v 8 56 ≠ 0) || target.contains s.cur.1 then s.trap illegalOp (wordOf i)
    else s.fenceRel 0 (fun _ => true) (scrubCores d (m == 1) v.toNat target))

/-- TAILRD (R326). -/
def execTailrd (d a : Reg) (p : Bool) (s : State) : Res :=
  let i : Instr := .tailrd d a p
  .next (s.issueLocal i .u [a] (fun c => [(c.reg a).toNat]) fun s => s.withRegs i [a] fun s =>
    let at_ := (s.cx.reg a).toNat
    s.localAccess at_ 16 16 true fun s =>
      let r := s.me.tail
      match r.entries with
      | [] => s.done d (word (2 ^ 32 * r.lost.toNat))
      | e :: es =>
        let left := if p then r.entries else es
        let c := s.me.lwrite at_ (leBytes 16 e.toNat)
        (s.setMe { c with tail := { r with entries := left } }).done d (word (2 ^ 32 * r.lost.toNat + 512 + left.length)))

/-! ### TINVB (R312) -/

/-- Acknowledgements of an invalidation are awaited. -/
def phTinvb : Nat := 11

/-- TINVB (R312): the release, the invalidation to every cluster, and the wait for all of them. -/
def execTinvb (d a : Reg) (m : BitVec 2) (s : State) : Res :=
  let i : Instr := .tinvb d a m
  .next (s.issue i .s fun s => s.withRegs i [d, a] fun s =>
    let k := s.cur.1
    let t := s.cx.reg d
    if m = 3 ∨ bits t 8 56 ≠ 0 then s.trap illegalOp (wordOf i)
    else
      match s.cx.acc with
      | some ⟨11, uid, _⟩ => if (s.me.out uid).isSome then s.park .memory else s.finish
      | _ =>
        s.fenceRel 3 (fun _ => true) fun s =>
          let uid := s.uid
          let s1 := s.bump.addOut k ⟨uid, s.cur.2, none, 256, false, false, false, none, none, true, false, false⟩
          let s2 := (List.range 256).foldl (fun s c =>
            s.send { src := .core k, dst := .cluster c, vc := 3, terr := none, fab := none, sentAt := s.now,
                     body := .tinvb k uid t.toNat (s.cx.reg a).toNat m.toNat }) s1
          (s2.setAcc (some ⟨phTinvb, uid, none⟩)).park .memory)

/-- An entry that an invalidation names. Territory 0 stands for the die supervisors too, whose TERR reads 0. -/
def TlbEntry.hit (e : TlbEntry) (t va mode : Nat) : Bool :=
  let own := e.terr == t || (t == 0 && 256 ≤ e.terr)
  mode == 2 || (own && (mode == 1 || e.vpn == va / 2 ^ e.lg))

/-- Accesses of a cluster's cores that are still outstanding (R312): requests and register writes that have not reached their home, and copies that
have not been answered or acknowledged there. -/
def State.accessing (s : State) (c : Nat) : Bool :=
  s.net.any (fun m => match m.body with | .req r => clusOf r.core == c | .regWrite k _ _ _ _ _ _ _ => clusOf k == c | _ => false)
    || (coresOf c).any (fun k => (s.core k).outs.any (fun o => o.copy && o.left ≠ 0) || (s.core k).psh.older.any (fun r => r.phase == 4))

/-- TINVB_INVALIDATE (R312): a cluster drops the entries, and acknowledges once its accesses have landed. -/
def execTinvbInvalidate (k : Nat) (s : State) : Res :=
  .next (
    match s.arriving k with
    | some m =>
      match m.dst, m.body with
      | .cluster c, .tinvb _ uid t va mode =>
        let q := s.clus c
        let s1 := s.setClus c { q with tlb := q.tlb.filter (fun e => !e.hit t va mode) }
        if s1.accessing c then s1 else (s1.remove k).accept m uid
      | _, _ => s
    | none => s)

/-! ### Walks (R310) -/

/-- A waiting access is set aside under TMIG.pull (R374); with the fault table full it goes on waiting. -/
def State.pullAside (s : State) (k x va acc : Nat) : State × Bool :=
  let c := s.core k
  if 4 ≤ c.aside.length then (s, false)
  else
    let h := c.ctx x
    let c1 : Core := { c with aside := c.aside ++ [⟨c.nextFid, none, x, va, none⟩], nextFid := (c.nextFid + 1) % 256 }
    (((s.setCore k (c1.setCtx x { h with acc := some ⟨phPull, 4 * va + acc, none⟩ })).report k (if acc = 0 then 0 else 2) c.nextFid 1 7 x 0 (word va)), true)

/-- The contexts of a cluster that wait for a walk: their access is of its kind, and to its page. -/
def State.waiters (s : State) (cl : Nat) (w : Walk) : List (Nat × Nat × Nat) :=
  (coresOf cl).flatMap (fun k =>
    if s.trId k ≠ w.terr then []
    else (s.core k).ctxs.filterMap (fun e => match e.2.acc with
      | some ⟨1, u, none⟩ => if u % 4 = w.acc && u / 4 / 4096 == w.va / 4096 then some (k, e.1, u) else none
      | _ => none))

/-- The pool of walkers that a cluster's misses use: its die's, by halves of the die's cluster columns. -/
def walkPool (cl : Nat) : Nat := 2 * dieOfClus cl + cl % 8 / 4
/-- A walker of the pool has the walk: fewer than 128 walks of the pool asked before it (R310). -/
def State.walking (s : State) (cl : Nat) (w : Walk) : Bool :=
  ((s.clusters.filter (fun e => walkPool e.1 == walkPool cl)).map (fun e => (e.2.walks.filter (fun o => o.no < w.no)).length)).sum < 128

/-- WALK_COMPLETE (R310): a success enters the translation cache; a failure reaches the accesses that wait for it. -/
def execWalkComplete (cluster k : Nat) (s : State) : Res :=
  let q := s.clus cluster
  .next (
    match q.walks[k]? with
    | none => s
    | some w =>
      let q1 := { q with walks := q.walks.eraseIdx k }
      if !s.walking cluster w then s
      else
        match s.walk w.terr w.acc w.va with
        | .ok l => s.setClus cluster (q1.fill (l.entry w.terr w.va) w.va)
        | .error f =>
          let pull := w.terr < 256 && wbit (s.terr w.terr).win.tmig 0 && f == (1, 1)
          let r := (s.waiters cluster w).foldl (fun (a : State × Bool) e =>
            if pull then
              let p := a.1.pullAside e.1 e.2.1 (e.2.2 / 4) w.acc
              (p.1, a.2 && p.2)
            else
              (a.1.setCtx e.1 e.2.1 { a.1.ctx e.1 e.2.1 with acc := some ⟨phWalk, e.2.2, some ⟨8 * f.1 + f.2, false, some translation⟩⟩ }, a.2)) (s, true)
          -- an access that found no room in the fault table keeps its walk
          if r.2 then
            r.1.setClus cluster { r.1.clus cluster with
              walks := q1.walks, walkFails := (r.1.clus cluster).walkFails ++ w.keys.map (fun u => ⟨u, w.va, w.acc, f⟩) }
          else r.1)

/-! ### Fault messages (R315) -/

/-- FAULT_MESSAGE_ARRIVAL (R315): the message enters the ring of a die supervisor, or goes back to its sender. -/
def execFaultMessageArrival (k : Nat) (s : State) : Res :=
  .next (
    match s.arriving k with
    | some m =>
      match m.dst, m.body with
      | .core q, .fault bytes =>
        if m.vc ≠ 3 then s
        else
          let s1 := s.remove k
          let w := (s1.core q).spr.fring
          let lg := bits w 20 4
          let tail := bits w 36 12
          if wbit w 0 && (tail + 4096 - bits w 24 12) % 4096 < 2 ^ lg then
            let c := (s1.core q).lwrite (256 * bits w 8 12 + 32 * (tail % 2 ^ lg)) bytes
            (s1.setCore q { c with spr := { c.spr with fring := word (w.toNat % 2 ^ 36 + (tail + 1) % 4096 * 2 ^ 36) } }).wake q 0
          else s1.send { m with src := m.dst, dst := m.src, vc := 1, sentAt := s.now }
      | _, _ => s
    | none => s)

/-- FAULT_MESSAGE_RESEND (R315): a microsecond after its refusal a message goes out again. -/
def execFaultMessageResend (k : Nat) (s : State) : Res :=
  .next (
    match s.net[k]? with
    | some m =>
      match m.body with
      | .fault _ =>
        if m.vc = 1 ∧ m.sentAt + 700 ≤ s.now then (s.remove k).send { m with src := m.dst, dst := m.src, vc := 3, sentAt := s.now } else s
      | _ => s
    | none => s)

/-! ### Control packets (R316, Table 17.7) -/

/-- A control packet for `dst` at core `q`: refused as any packet is, or acted on and accepted. -/
def State.control (s : State) (k dst : Nat) (act : Nat → Word → State → State) : State :=
  match s.arriving k with
  | some m =>
    match m.dst, m.body with
    | .core q, .packet uid hdr words bad _ =>
      if m.vc ≠ 3 || hdrMail hdr || hdrDst hdr ≠ dst then s
      else
        match s.controlRefusal m q dst, words with
        | none, [w] => if bad then (s.remove k).refuse m uid uncorrectable else (act q w (s.remove k)).accept m uid
        | _, _ => s
    | _, _ => s
  | none => s

/-- RESUME (R316): a copy will translate again and go on; a parked access translates again. -/
def execResumeCopy (k : Nat) (s : State) : Res :=
  .next (s.control k 0xFF000 fun q w s =>
    let c := s.core q
    match c.aside.find? (fun a => a.fid == bits w 0 8) with
    | none => s
    | some a =>
      match a.cmd with
      | some _ => s.setCore q { c with aside := c.aside.map (fun b => if b = a then { b with verdict := some (true, 0) } else b) }
      | none =>
        let c1 := { c with aside := c.aside.filter (· ≠ a) }
        let h := c1.ctx a.ctx
        s.setCore q (if c1.live a.ctx then c1.setCtx a.ctx { h with acc := h.acc.map (fun u => { u with ans := some ⟨0, false, none⟩ }) } else c1))

/-- ABORT (R316): a copy ends and its token faults; a parked access traps the cause. -/
def execAbortCopy (k : Nat) (s : State) : Res :=
  .next (s.control k 0xFF008 fun q w s =>
    let c := s.core q
    let cause : BitVec 8 := BitVec.ofNat 8 (bits w 8 8)
    match c.aside.find? (fun a => a.fid == bits w 0 8) with
    | none => s
    | some a =>
      let c1 := { c with aside := c.aside.filter (· ≠ a) }
      match a.cmd with
      | some p =>
        match c1.out p.uid with
        | some o => s.setCore q (c1.setOut { o with sending := false, cause := match o.cause with | some x => some x | none => some cause })
        | none => s.setCore q c1
      | none =>
        let h := c1.ctx a.ctx
        s.setCore q (if c1.live a.ctx then c1.setCtx a.ctx { h with acc := h.acc.map (fun u => { u with ans := some ⟨0, false, some cause⟩ }) } else c1))

/-- RESTART (R316, R328): a halted context resumes at its PC, with nothing fetched ahead. -/
def execRestart (k : Nat) (s : State) : Res :=
  .next (s.control k 0xFF010 fun q w s =>
    let x := bits w 0 4
    let h := s.ctx q x
    if (s.core q).live x ∧ h.run = .stopped .halted then
      let s1 := s.setCtx q x { h.setRun s.now .running with ahead := [] }
      if x = 0 then s1.setStat q { s1.stat q with begun := true } else s1
    else s)

/-- UNFENCE (R324): the fence of a burner ends, and every context's count is loaded again. -/
def execUnfence (k : Nat) (s : State) : Res :=
  .next (s.control k 0xFF018 fun q _ s =>
    if (s.stat q).fenced then
      let c := s.core q
      let c1 : Core := { c with ctxs := c.ctxs.map (fun e => (e.1, e.2.reload s.now)) }
      -- the count of a stopped context is the one in its image
      let stopped := c1.ctxs.filter (fun e => e.2.run == .stopped .slot || e.2.run == .stopped .saved)
      (s.setCore q (stopped.foldl (fun c e => c.putImage s.now e.1) c1)).setStat q { s.stat q with fenced := false }
    else s)

/-! ### Containment (R320, R322) -/

/-- The enabled rectangle of a die that holds a core: x0, y0, x1, y1. A rectangle over the supervisor core is none. -/
def State.rectangle (s : State) (d n : Nat) : Option (Nat × Nat × Nat × Nat) :=
  let w := s.crect d n
  if wbit w 0 then some (bits w 5 5, bits w 10 5, bits w 15 5, bits w 20 5) else none

def inRect (k : Nat) (r : Nat × Nat × Nat × Nat) : Bool :=
  let x := coreX k % 32
  let y := coreY k % 32
  r.1 ≤ x && x ≤ r.2.2.1 && r.2.1 ≤ y && y ≤ r.2.2.2
/-- The cores of a rectangle. -/
def rectCores (d : Nat) (r : Nat × Nat × Nat × Nat) : List Nat :=
  ((List.range 1024).map (fun i => supOf d + 64 * (i / 32) + i % 32)).filter (fun k => inRect k r)

/-- A core's kill unit. -/
def State.killUnit (s : State) (k : Nat) : List Nat :=
  match ((List.range 64).filterMap (s.rectangle (dieOf k))).find? (inRect k) with
  | some r => rectCores (dieOf k) r
  | none => [k]

/-- The kill of a unit (R322): its cores return to their reset state behind a fence, and a kind 6 message goes out. -/
def State.kill (s : State) (ks : List Nat) : State :=
  let s1 := (ks.filter (fun k => !s.disabled.contains k)).foldl (fun s k =>
    (s.zeroCore k).setStat k { s.stat k with killed := true, fenced := false, begun := false, cyc0 := s.now }) s
  match ks with
  | [] => s1
  | k :: _ => s1.report k 0 0 uncorrectable.toNat 6 0 0 0

/-- CONTAINMENT_KILL (R322): the unit of a core is killed. -/
def execContainmentKill (core : Nat) (s : State) : Res :=
  .next (if s.disabled.contains core then s else s.kill (s.killUnit core))

end Sys2Proof.Machine
end

