-- ==== Sys2Proof/Machine/TerrOps.lean ====
section
/-! DEFINITION. TSHAPE, TFREEZE, TTHAW and PRESS (R360, R361), and PRESSURE_GOSSIP (R341). -/

namespace Sys2Proof.Machine

/-- The clusters of a territory as a little-endian string of 256 bits. -/
def State.shape (s : State) (t : Nat) : Nat := (s.clustersOf t).foldl (fun v c => v + 2 ^ c) 0

/-- TSHAPE (R361). -/
def execTshape (d a : Reg) (s : State) : Res :=
  let i : Instr := .tshape d a
  .next (s.issueLocal i .u [a] (fun c => [(c.reg a).toNat]) fun s => s.withRegs i [a] fun s =>
    let p := (s.cx.reg a).toNat
    s.localAccess p 32 32 true fun s =>
      let t := s.terrOf s.cur.1
      (s.setMe (s.me.lwrite p (leBytes 32 (s.shape t)))).done d (word (s.terr t).gen.toNat))

/-- A cluster in a move past its proposal. -/
def Cluster.moving (c : Cluster) : Bool := c.move.any (fun m => m.phase != .proposed)

/-- A cluster is locked by a move past PROPOSE (R344, R361): its own, or that of the cluster whose window it lies in. -/
def State.lockedPast (s : State) (c : Nat) : Bool := (s.clus c).moving || (s.clus c).lock.any (fun b => (s.clus b).moving)

/-- TFREEZE and TTHAW. -/
def freezeWord (i : Instr) (d a : Reg) (all_ v : Bool) (s : State) : State :=
  s.issue i .t fun s => s.withRegs i (if all_ then [] else [a]) fun s =>
    let k := s.cur.1
    let w := s.cx.reg a
    if !all_ && bits w 8 56 ≠ 0 then s.trap illegalOp (wordOf i)
    else
      let cs := s.named k all_ (bits w 0 8)
      if cs.any (fun c => !s.inTerr k c) then s.done d 1
      else
        let locked := cs.any s.lockedPast
        let s1 := (cs.filter (fun c => !s.lockedPast c)).foldl (fun s c => s.setClus c { s.clus c with frozen := v }) s
        s1.done d (if locked then 2 else 0)

/-- TFREEZE (R361). -/
def execTfreeze (d a : Reg) (l : Bool) (s : State) : Res := .next (freezeWord (.tfreeze d a l) d a l true s)
/-- TTHAW (R361). -/
def execTthaw (d a : Reg) (l : Bool) (s : State) : Res := .next (freezeWord (.tthaw d a l) d a l false s)

/-- The 4-neighbour cluster in a direction: 0 north, 1 east, 2 south, 3 west. -/
def clusNext (c dir : Nat) : Option Nat :=
  let x := c % 16
  let y := c / 16
  if dir = 0 then (if 0 < y then some (c - 16) else none)
  else if dir = 1 then (if x < 15 then some (c + 1) else none)
  else if dir = 2 then (if y < 15 then some (c + 16) else none)
  else (if 0 < x then some (c - 1) else none)

/-- PRESS (R361), mode 0: the cluster's view of its own territory. -/
def execPress (d : Reg) (s : State) : Res :=
  .next (s.issue (.press d) .u fun s => s.done d (s.clus (clusOf s.cur.1)).view.word)

/-- PRESS.nb (R361). -/
def execPressNb (d a : Reg) (s : State) : Res :=
  let i : Instr := .pressNb d a
  .next (s.issue i .u fun s => s.withRegs i [a] fun s =>
    let v := s.cx.reg a
    if bits v 2 62 ≠ 0 then s.trap illegalOp (wordOf i)
    else
      let cl := clusOf s.cur.1
      match clusNext cl v.toNat with
      | none => s.done d (BitVec.allOnes 64)
      | some _ =>
        match kget (s.clus cl).nviews v.toNat with
        | some w => s.done d (word (w.p * 2 ^ 48 + w.t * 2 ^ 40 + w.n % 512))
        | none => s.done d 0)

/-- PRESS.cfg (R361). -/
def execPressCfg (d : Reg) (s : State) : Res :=
  .next (s.issue (.pressCfg d) .u fun s => s.done d s.pcfg)

/-- PRESS.set (R361). -/
def execPressSet (a : Reg) (s : State) : Res :=
  let i : Instr := .pressSet a
  .next (s.issue i .s fun s => s.withRegs i [a] fun s =>
    let v := s.cx.reg a
    if bits v 49 15 ≠ 0 ∨ bits v 0 16 = 0 ∨ bits v 16 8 = 0 ∨ bits v 24 12 = 0 then s.trap illegalOp (wordOf i)
    else { s with pcfg := v }.finish)

/-! ### Gossip (R341) -/

/-- What a cluster shows its neighbours: what it holds of its own territory; zeros while it is scrubbed. -/
def Cluster.shows (c : Cluster) : View := match c.owner with | some t => { c.view with t := t } | none => ⟨0, 0, 0, 0, 0⟩

/-- A cluster's view a microsecond on: its mooring cluster's own values, or the newest that a neighbour of its territory held. -/
def State.nextView (s : State) (c : Nat) : View :=
  let me := s.clus c
  match me.owner with
  | none => ⟨0, 0, 0, 0, 0⟩
  | some t =>
    if t = 0 then ⟨0, 0, 0, 0, s.now⟩
    else if s.moorClus t = c then s.pressure t
    else
      ([0, 1, 2, 3].filterMap (clusNext c)).foldl (fun b n =>
        let o := s.clus n
        if o.owner = some t ∧ o.view.t = t ∧ b.at_ < o.view.at_ then o.view else b)
        (if me.view.t = t then me.view else ⟨t, 0, 0, 0, 0⟩)

/-- PRESSURE_GOSSIP (R341): one microsecond of it, for every cluster at once. -/
def execPressureGossip (s : State) : Res :=
  let one (c : Nat) : Cluster :=
    let nv := [0, 1, 2, 3].filterMap (fun d => (clusNext c d).map (fun n => (d, (s.clus n).shows)))
    { s.clus c with view := s.nextView c, nviews := nv }
  .next ((List.range 256).foldl (fun t c => t.setClus c (one c)) s)

end Sys2Proof.Machine
end

