-- ==== Sys2Proof/Machine/Move.lean ====
section
/-! DEFINITION. Territories that change (R337 to R357): the drift rule, the four phases of a move, launch and shutdown, pause (R374), and the
mapping of queues (R355): DRIFT_EVALUATE, PROPOSE_CONFIRM, DRAIN_DEADLINE, SCRUB_PHASE, TRANSFER_PHASE, TERRITORY_LAUNCH,
TERRITORY_SHUTDOWN, TERRITORY_PAUSE, QUEUE_MAP and QUEUE_UNMAP. -/

namespace Sys2Proof.Machine

/-! ### Territory configuration (Tables 20.2, 20.3) -/

def State.tmin (s : State) (t : Nat) : Nat := bits (s.terr t).win.tcfg 10 9
def State.tmax (s : State) (t : Nat) : Nat := bits (s.terr t).win.tcfg 19 9
def State.tshort (s : State) (t : Nat) : Bool := wbit (s.terr t).win.tcfg 28
/-- A short cluster: some core of it is disabled or a die supervisor (R80, R340). -/
def State.shortClus (s : State) (c : Nat) : Bool := !(coresOf c).all s.plain
def pcHyst (w : Word) : Nat := bits w 0 16
def pcPer (w : Word) : Nat := bits w 16 8
def pcDl (w : Word) : Nat := bits w 24 12
def pcCool (w : Word) : Nat := bits w 36 12
def pcEn (w : Word) : Bool := wbit w 48
/-- The territory takes part in the drift rule: territory 0, or a live one. -/
def State.drifts (s : State) (t : Nat) : Bool := t == 0 || (s.tlive t && !(s.terr t).closing)

/-! ### Table 20.4 -/

/-- Neighbour k of a cluster, clockwise from north. -/
def clusRing (b k : Nat) : Option Nat :=
  let dx : Int := if k = 1 ∨ k = 2 ∨ k = 3 then 1 else if k = 5 ∨ k = 6 ∨ k = 7 then -1 else 0
  let dy : Int := if k = 7 ∨ k = 0 ∨ k = 1 then -1 else if k = 3 ∨ k = 4 ∨ k = 5 then 1 else 0
  let x : Int := (b % 16 : Nat) + dx
  let y : Int := (b / 16 : Nat) + dy
  if 0 ≤ x ∧ x < 16 ∧ 0 ≤ y ∧ y < 16 then some (16 * y.toNat + x.toNat) else none

/-- N4 of Table 20.4 from the ring x0 to x7. -/
def n4 (x : Nat → Nat) : Int :=
  ([0, 2, 4, 6].map (fun k => (x k : Int) - x k * x (k + 1) * x ((k + 2) % 8))).foldl (· + ·) 0

/-- A cluster can leave its territory without cutting it. -/
def State.removable (s : State) (b own : Nat) : Bool :=
  n4 (fun k => match clusRing b k with | some c => ofBool ((s.clus c).owner == some own) | none => 0) == 1

/-- The conditions of Table 20.4 for territory `a` to annex cluster `c` from `b`, with the values given for each. -/
def State.mayAnnex (s : State) (a b c : Nat) (va vb : View) : Bool :=
  let cl := s.clus c
  [0, 1, 2, 3].any (fun d => match clusNext c d with | some n => (s.clus n).owner == some a | none => false)
    && vb.p + pcHyst s.pcfg ≤ va.p
    && (if b = 0 then 0 < va.w else vb.w * vb.w * va.n * (va.n + 1) < va.w * va.w * vb.n * (vb.n - 1))
    && (b == 0 || (s.removable c b && s.tmin b + 1 ≤ vb.n && s.moorClus b != c))
    && !cl.frozen && cl.cooldown ≤ s.now
    && va.n + 1 ≤ s.tmax a && (!s.shortClus c || s.tshort a)

/-- What cluster `c` holds of a territory: its own view, or the newest that a neighbour gave it. -/
def Cluster.heldView (c : Cluster) (t : Nat) : Option View :=
  if t = 0 then some ⟨0, 0, 0, 0, 0⟩
  else if c.owner = some t then (if c.view.t = t then some c.view else none)
  else (c.nviews.filter (fun e => e.2.t == t)).foldl (fun b e => match b with
    | none => some e.2
    | some o => if o.at_ < e.2.at_ then some e.2 else b) none

/-- The window of a cluster: Chebyshev distance 1 or less (R344). -/
def clusWindow (b : Nat) : List Nat := b :: (List.range 8).filterMap (clusRing b)

/-- A lock that a proposal of cluster `b` can take: none, or that of a higher cluster id whose move has not passed PROPOSE (R344). -/
def State.contestable (s : State) (b c : Nat) : Bool :=
  match (s.clus c).lock with
  | none => true
  | some o =>
    match (s.clus o).move with
    | some m => m.phase == .proposed && b < o
    | none => true

/-- A cluster evaluates: its window is not locked, but by a proposal of this very µs that its own one can contest (R343, R344). -/
def State.evaluates (s : State) (b : Nat) : Bool :=
  match (s.clus b).lock with
  | none => true
  | some o => s.contestable b b && (s.clus o).move.all (fun m => m.began / ccPerUs == s.now / ccPerUs)

/-- The window of a move unlocks. -/
def State.unlock (s : State) (b : Nat) : State :=
  (clusWindow b).foldl (fun s c => if (s.clus c).lock = some b then s.setClus c { s.clus c with lock := none } else s) s
/-- A proposal is given up. -/
def State.abandon (s : State) (b : Nat) : State := (s.setClus b { s.clus b with move := none }).unlock b

/-- The candidate that cluster `b` proposes to (R343): the highest pressure, ties to the lower id. -/
def State.candidate (s : State) (b own : Nat) : Option Nat :=
  let q := s.clus b
  match q.heldView own with
  | none => none
  | some vb =>
    let owners := ([0, 1, 2, 3].filterMap (fun d => (clusNext b d).bind (fun n => (s.clus n).owner))).filter (fun a => a ≠ 0 && a ≠ own && s.drifts a)
    (owners.filterMap (fun a => match q.heldView a with
      | some va => if s.mayAnnex a own b va vb then some (a, va.p) else none
      | none => none)).foldl (fun (best : Option (Nat × Nat)) c => match best with
        | none => some c
        | some o => if o.2 < c.2 || (o.2 == c.2 && c.1 < o.1) then some c else best) none |>.map (·.1)

/-- DRIFT_EVALUATE (R343, R344): at its µs boundary a cluster evaluates the drift rule and locks the window of its proposal. -/
def execDriftEvaluate (cluster : Nat) (s : State) : Res :=
  let t := s.now / ccPerUs
  .next (
    match (s.clus cluster).owner with
    | none => s
    | some own =>
      if !pcEn s.pcfg || s.now % ccPerUs ≠ 0 || t % pcPer s.pcfg ≠ cluster % pcPer s.pcfg || !s.evaluates cluster || !s.drifts own
          || (s.clus cluster).move.isSome then s
      else
        match s.candidate cluster own with
        | none => s
        | some a =>
          let w := clusWindow cluster
          if !w.all (s.contestable cluster) then s
          else
            let s1 := (w.filterMap (fun c => (s.clus c).lock)).foldl State.abandon s
            let s2 := w.foldl (fun s c => s.setClus c { s.clus c with lock := some cluster }) s1
            s2.setClus cluster { s2.clus cluster with move := some ⟨.proposed, a, own, s.now, s.pcfg, [], [], []⟩ })

/-! ### Closing a territory (R339) -/

/-- DRAIN begins on a cluster (R348): records chosen for it and not started go back, and context 0 of each enabled core has a LOSS. -/
def State.beginDrain (s : State) (b : Nat) (m : Move) : State :=
  let s0 := s.setClus b { s.clus b with move := some { m with phase := .draining, began := s.now, pcfg := s.pcfg, drained := [], yielded := [], entries := [] } }
  let s1 := s0.putBackAll m.from_ b
  ((coresOf b).filter s.plain).foldl (fun s k => if (s.core k).live 0 then s.upcall k lossCause (word (m.taker * 2 ^ 40 + b)) else s) s1

/-- The clusters of a territory that closes begin to drain as they are free of locks, the mooring cluster last; without clusters it has closed
and its slots' records are discarded. -/
def State.closeOne (s : State) (t : Nat) : State :=
  if !(s.terr t).closing then s
  else
    let cs := s.clustersOf t
    let scrubbed := (List.range 256).any (fun c => (s.clus c).move.any (fun m => m.from_ == t && m.phase == .scrubbing))
    if cs.isEmpty then (if scrubbed then s else s.setTerr t 
      { s.terr t with closing := false, paused := false, chosen := [], slots := (s.terr t).slots.map (fun e => (e.1, { e.2 with recs := [] })) })
    else
      let moor := s.moorClus t
      let next := if cs.all (· == moor) && !scrubbed then cs else cs.filter (· ≠ moor)
      (next.filter (fun c => (s.clus c).lock.isNone && (s.clus c).move.isNone)).foldl (fun s c =>
        (s.setClus c { s.clus c with lock := some c }).beginDrain c ⟨.draining, 0, t, s.now, s.pcfg, [], [], []⟩) s
/-- Every territory that closes, after a window has unlocked. -/
def State.closeAll (s : State) : State := (s.terrs.map (·.1)).foldl State.closeOne s

/-! ### PROPOSE (R345) -/

/-- A mooring cluster is in another move past its proposal. -/
def State.moorBusy (s : State) (t b : Nat) : Bool :=
  t ≠ 0 && s.clusters.any (fun e => e.1 ≠ b && e.2.move.any (fun m => (m.taker == t || m.from_ == t) && m.phase != .proposed))

/-- PROPOSE_CONFIRM (R345): the mooring clusters recheck with exact values; the move drains, or is abandoned. -/
def execProposeConfirm (cluster : Nat) (s : State) : Res :=
  .next (
    match (s.clus cluster).move with
    | none => s
    | some m =>
      if m.phase ≠ .proposed then s
      else if s.drifts m.taker && s.drifts m.from_ && !s.moorBusy m.taker cluster && !s.moorBusy m.from_ cluster
          && (s.clus cluster).owner == some m.from_ && s.mayAnnex m.taker m.from_ cluster (s.pressure m.taker) (s.pressure m.from_) then
        s.beginDrain cluster m
      else (s.abandon cluster).closeAll)

/-! ### DRAIN (R348 to R350) -/

/-- The commands of a context leave the engines' queues. -/
def Core.dropCmds (c : Core) (x : Nat) : Core :=
  let cut (e : Engine) : Engine := { e with queue := e.queue.filter (fun q => q.ctx ≠ x) }
  { c with vec := cut c.vec, psh := cut c.psh, mat := cut c.mat, gau := cut c.gau }

/-- Writes save entry `i` (Table 20.7), which the move of a draining cluster remembers. Its generation is that after the move, as it stands then. -/
def State.writeEntry (s : State) (t i : Nat) (gen cls : Nat) (mx : Bool) (k x kind : Nat) (body area : List Byte) : State :=
  let hd := gen % 2 ^ 32 * 2 ^ 32 + cls * 2 ^ 29 + ofBool mx * 2 ^ 28 + k * 2 ^ 16 + x * 2 ^ 8 + kind
  let b := clusOf k
  let s1 := if (s.clus b).move.any (fun m => m.phase == .draining) then
      s.setClus b { s.clus b with move := (s.clus b).move.map (fun m => { m with entries := nput m.entries i }) } else s
  (s1.gwrite t (s.entryAt t i) (leBytes 8 hd ++ leBytes 120 0 ++ body)).gwrite t (s.entryAt t i + 640) area

/-- The contexts that leave a core with `x`: a pair goes as its leader (R277). -/
def Ctx.trailer (h : Ctx) : List Nat := match h.task.bind (·.pair) with | some (y, false) => [y] | _ => []

/-- A pair's trailer leaves its core; its charge goes back. -/
def State.dropTrailer (s : State) (k x : Nat) : State :=
  let c := s.core k
  (s.setCore k (c.bury x)).addEnergy (clusOf k) ((((c.ctx x).task.map (·.charged)).getD 0 : Nat) : Int)

/-- A stopped context leaves its core for a save entry of territory `t`; without a free one a helper is killed, and context 0 or the ballonet
is lost and reported. `energy` is what the helper has used so far. -/
def State.saveOut (s : State) (t gen k x energy : Nat) : State :=
  let c := s.core k
  let h := c.ctx x
  match (s.saveWith t 0).head? with
  | none =>
    if 1 ≤ x ∧ x ≤ 10 then (x :: h.trailer).foldl (fun s y => (s.setCore k ((s.core k).discard y)).endHelper k y 2 territory) s
    else
      (s.setCore k ((c.discard x).bury x)).faultRing t (leBytes 64 0) (faultBytes (s.timeFor t) 1 t 0 territory.toNat 0 x k 0 0)
  | some i =>
    let kind := if x = 0 then 2 else if x = 11 then 3 else 1
    let own := h.task.any (·.own)
    let cls := if own then recClass ((h.task.map (·.rec_)).getD []) else 0
    let cmds := [c.vec, c.psh, c.mat, c.gau].flatMap (fun e => e.queue.filter (fun q => q.ctx == x))
    let mx := cmds.any (fun q => q.pos != 0 && (matParts q.instr).isSome)
    -- what has settled since the stop shows in the image
    let h1 := c.getImage s.now x
    let img := h1.image s.now h1.pc (x = 0 ∧ c.upq ≠ [])
    let mine := c.seq.owner == some x
    let c1 := (c.dropCmds x).bury x
    let c2 : Core := { c1 with spr := if mx then { c1.spr with msaveClaim := false } else c1.spr, seq := if mine then Sequencer.reset else c1.seq }
    let s1 := (s.setCore k c2).writeEntry t i gen cls mx k x kind img (if mx then c.lread c.saveArea 16768 else [])
    let sv : SavedCtx :=
      { home := 16 * k + x, task := h.task, cmds := cmds, ctx := h1, area := c.lread 0x1E000 0x800
        areaBad := c.lbad.filter (fun w => 0x1E000 ≤ 8 * w && 8 * w < 0x1E800), seq := if mine then some c.seq else none }
    let s2 := s1.setTerr t { s1.terr t with saved := kput (s1.terr t).saved i sv }
    let s3 := h.trailer.foldl (fun s y => s.dropTrailer k y) s2
    if own then s3.addEnergy (clusOf k) (((h.task.map (·.charged)).getD 0 : Nat) - (energy : Int)) else s3

/-- Whether nothing that a stopped context issued is still to settle. -/
def Core.quiet (c : Core) (x : Nat) : Bool :=
  !c.mat.run.any (fun r => r.cmd.ctx == x) && !c.outs.any (fun o => o.ctx == x && o.tok.isSome)

/-- One context of a core that drains: it is asked to stop, stops when it can, and leaves when it is quiet. A pair that has diverged is killed
first. -/
def State.drainCtx (s : State) (t gen k x energy : Nat) : State :=
  let s1 : State :=
    match (s.ctx k x).run with
    | .stopped .saved => s
    | .stopped _ => if s.stopReady k x && !(s.ctx k x).task.any (·.diverged) then s.stopCtx k x else s
    | _ =>
      if (s.ctx k x).task.any (·.diverged) then s
      else
      let s0 := s.askStop k x
      if s0.atBoundary k x && s0.stopReady k x then s0.stopCtx k x else s0
  if (s1.ctx k x).run = .stopped .saved ∧ (s1.core k).quiet x then s1.saveOut t gen k x energy else s1

/-- The contexts of a core in order: helpers, the ballonet, context 0; each one waits for those before it. -/
def State.drainList (s : State) (t gen k : Nat) (e : List (Nat × Nat)) : List Nat → State
  | [] => s
  | x :: xs =>
    if !(s.core k).live x then s.drainList t gen k e xs
    else
      -- a trailer goes with its leader
      let y := match (s.ctx k x).task.bind (·.pair) with | some (y, true) => if (s.core k).live y then y else x | _ => x
      let s1 := s.drainCtx t gen k y ((kget e (16 * k + y)).getD 0)
      if (s1.core k).live x then s1 else s1.drainList t gen k e xs

/-- A core without live contexts has given up everything: every dirty stash word is written back, and the retirement tracker is empty. -/
def Core.emptied (c : Core) : Bool :=
  c.ctxs.isEmpty && c.ended.all (fun e => e.2.drained) && c.rx.spill.isNone && !c.outs.any (·.wback)

/-- The drain of one core, as far as it goes now. -/
def State.drainCore (s : State) (t gen k : Nat) (e : List (Nat × Nat)) : State :=
  let s1 := s.drainList t gen k e ((List.range 11).drop 1 ++ [11, 0])
  if !(s1.core k).ctxs.isEmpty then s1
  else
    let s2 := s1.writeBacks k 0 (fun l => l.d ≠ 0)
    match (s2.core k).rx.spill with
    | none => s2
    | some sp =>
      let c := s2.core k
      let s3 := s2.setCore k { c with rx := { c.rx with spill := none } }
      match (s3.saveWith t 0).head? with
      | some i => s3.writeEntry t i gen 0 false k 0 4 sp.2 []
      | none => s3

/-- DRAIN_DEADLINE (R348, R349): once context 0 has yielded or the deadline has passed, a core of a draining cluster is force-saved as far as
its contexts can stop now. -/
def execDrainDeadline (core : Nat) (energies : List (Nat × Nat)) (s : State) : Res :=
  let b := clusOf core
  .next (
    match (s.clus b).move with
    | none => s
    | some m =>
      if m.phase ≠ .draining || !s.plain core || m.drained.contains core then s
      else
        if !m.yielded.contains core && s.now < m.began + ccPerUs * pcDl m.pcfg then s
        else
          let s1 := s.drainCore m.from_ ((s.terr m.from_).gen.toNat + 1) core energies
          if (s1.core core).emptied then
            s1.setClus b { s1.clus b with move := (s1.clus b).move.map (fun m => { m with drained := nput m.drained core }) }
          else s1)

/-- TERRITORY_PAUSE (R374): every context of a territory is stopped into its save region, as far as it can now, and nothing more starts. -/
def execTerritoryPause (terr : Nat) (energies : List (Nat × Nat)) (s : State) : Res :=
  .next (
    if terr = 0 || !s.tlive terr then s
    else
      let s0 := s.setTerr terr { s.terr terr with paused := true }
      let s1 := (s0.clustersOf terr).foldl (fun s c => s.putBackAll terr c) s0
      (((s1.clustersOf terr).filter (fun c => !(s1.clus c).moving)).flatMap coresOf).foldl (fun s k =>
        if s.plain k then s.drainCore terr (s.terr terr).gen.toNat k energies else s) s1)

/-! ### SCRUB and TRANSFER (R351, R352) -/

/-- A cluster is untagged and emptied, its tether ends, and its key becomes the taker's. -/
def State.scrubClus (s : State) (b taker : Nat) : State :=
  let cores := (coresOf b).filter s.plain
  let old := (s.clus b).owner
  let s1 := cores.foldl (fun s k => let s' := s.zeroCore k; s'.setStat k { s'.stat k with tether := false }) s
  let s2 := cores.foldl (fun s c => s.emptyFacing c (fun n => clusOf n ≠ b)) s1
  let q := s2.clus b
  let q1 : Cluster :=
    { q with
      owner := none, tether := false, sstore := [], sbad := [], head := Head.reset, tlb := [], walks := [], refused := [], frozen := false, key := taker
      bridles := Vector.ofFn (fun i => { q.bridles[i] with arrivals := [], results := [] }) }
  let s3 := { s2.setClus b q1 with heldUpcalls := s2.heldUpcalls.filter (fun h => !cores.contains h.core) }
  match old with
  | some t => s3.fireGroups t
  | none => s3

/-- The cluster passes to its new owner. To territory 0 it comes as R328 leaves a die's cores; to any other it is tethered. -/
def State.transferClus (s : State) (b taker from_ cool : Nat) : State :=
  let cores := (coresOf b).filter s.plain
  let s1 := s.setClus b { s.clus b with owner := some taker, tether := taker != 0, cooldown := s.now + ccPerUs * cool, view := ⟨taker, 0, 0, 0, 0⟩ }
  let s2 := cores.foldl (fun s k =>
    let s' := s.setStat k { s.stat k with tether := taker != 0, begun := false }
    if taker = 0 then s'.setCore k { Core.reset k with slots := (s.core k).slots, corrected := (s.core k).corrected } else s') s1
  -- records pinned to its cores are faulted to the giver
  (s2.terr from_).slots.foldl (fun s e =>
    let gone (r : Record) : Bool := r.pin.any (fun p => cores.contains p)
    let rs := (s.slot from_ e.1).recs
    if !rs.any gone then s
    else (rs.filter gone).foldl (fun s r => s.taskFault from_ r.bytes territory none 0) (s.setRecs from_ e.1 (rs.filter (fun r => !gone r)))) s2

def State.advanceGen (s : State) (t : Nat) : State := s.setTerr t { s.terr t with gen := (s.terr t).gen + 1 }

/-- SCRUB_PHASE (R351): once every enabled core has drained, the cluster is scrubbed. -/
def execScrubPhase (cluster : Nat) (s : State) : Res :=
  .next (
    match (s.clus cluster).move with
    | none => s
    | some m =>
      if m.phase ≠ .draining || !((coresOf cluster).filter s.plain).all m.drained.contains then s
      else
        let s1 := s.scrubClus cluster m.taker
        s1.setClus cluster { s1.clus cluster with move := some { m with phase := .scrubbing } })

/-- The entries that the cores of a cluster have written in its move take the giver's generation after the move (Table 20.7); one that has been
freed, or taken by another core, meanwhile does not. -/
def State.settleGen (s : State) (b : Nat) (m : Move) : State :=
  m.entries.foldl (fun s i =>
    let hd := s.entryHeader m.from_ i
    if hd % 256 ≠ 0 ∧ clusOf (hd / 2 ^ 16 % 4096) = b then s.gwrite m.from_ (s.entryAt m.from_ i + 4) (leBytes 4 (s.terr m.from_).gen.toNat) else s) s

/-- TRANSFER_PHASE (R352): owner, generations, cooldown, tether and GAIN; the window unlocks. -/
def execTransferPhase (cluster : Nat) (s : State) : Res :=
  .next (
    match (s.clus cluster).move with
    | none => s
    | some m =>
      if m.phase ≠ .scrubbing then s
      else
        let s1 := (((s.transferClus cluster m.taker m.from_ (pcCool m.pcfg)).advanceGen m.taker).advanceGen m.from_).settleGen cluster m
        let s2 := if m.taker = 0 then s1
          else s1.upcall (s1.moorCore m.taker) gainCause (word (m.from_ * 2 ^ 40 + (s1.terr m.taker).gen.toNat * 2 ^ 8 + cluster))
        (s2.abandon cluster).closeAll)

/-! ### Register writes that change a territory (R339, R355) -/

/-- A register write that has arrived: its message, uid, level, address, width and value. -/
structure RegWr where
  msg : Msg
  uid : Nat
  level : Level
  pa : Nat
  n : Nat
  val : Nat

def State.regWr (s : State) (k : Nat) : Option RegWr :=
  match s.arriving k with
  | some m =>
    match m.dst, m.body with
    | .io, .regWrite _ _ uid lv _ pa n v => some ⟨m, uid, lv, pa, n, v⟩
    | _, _ => none
  | none => none

/-- The territory window field that a write names, when its requester may write it (R338): territory and offset. -/
def RegWr.window (r : RegWr) : Option (Nat × Nat) :=
  match windowOf r.pa with
  | some (t, o) =>
    if r.n ≠ 8 ∨ t = 0 ∨ (r.level ≠ .s ∧ r.msg.terr ≠ some t) ∨ !(windowT o || windowS o) ∨ o % 8 ≠ 0 ∨ (windowS o ∧ r.level ≠ .s) then none
    else some (t, o)
  | none => none

/-- TCFG as a write leaves it: reserved bits read 0, and a live territory keeps its mooring cluster. -/
def tcfgWith (old : Word) (v : Nat) : Word :=
  let w := word v &&& 0x3FFFFCFF#64
  if wbit old 29 then w &&& ~~~0xFF#64 ||| (old &&& 0xFF#64) else w

/-- A set of clusters is 4-connected: what `n` rounds reach from one of them is all of them. -/
def connected (cs : List Nat) : Bool :=
  let rec grow : Nat → List Nat → List Nat
    | 0, got => got
    | n + 1, got => grow n (cs.filter (fun c => got.contains c || [0, 1, 2, 3].any (fun d => match clusNext c d with | some m => got.contains m | none => false)))
  match cs with
  | [] => false
  | c :: _ => (grow cs.length [c]).length == cs.length

/-- The clusters that TINIT names. -/
def State.tinit (s : State) (t : Nat) : List Nat :=
  (List.range 256).filter (fun c => wbit ((s.terr t).win.tinit.toList.getD (c / 64) 0) (c % 64))

/-- The checks of a launch (R339) for a TCFG value; it is step 6 of the bring-up (R359), and none takes place on a die whose supervisor image was
refused (R328). -/
def State.launchOk (s : State) (w : Word) (cs : List Nat) : Bool :=
  cs.all (fun c => (s.clus c).owner == some 0) && cs.contains (bits w 0 8) && connected cs && bits w 10 9 ≤ cs.length
    && cs.length ≤ bits w 19 9 && (wbit w 28 || !cs.any s.shortClus) && s.io.bring == 5 && !cs.any (fun c => s.io.bootErrors.contains (dieOfClus c))

/-- A write of TCFG: the territory and the value it leaves. -/
def State.tcfgWrite (s : State) (k : Nat) : Option (RegWr × Nat × Word) :=
  match s.regWr k with
  | none => none
  | some r =>
    match r.window with
    | some (t, 0) => some (r, t, tcfgWith (s.terr t).win.tcfg r.val)
    | _ => none

def State.setWin (s : State) (t : Nat) (w : Window) : State := s.setTerr t { s.terr t with win := w }

/-- TERRITORY_LAUNCH (R339): live goes from 0 to 1. The clusters of TINIT pass through SCRUB and TRANSFER, and the loader's tables come with
them. A write that fails a check changes nothing; a cluster in a locked window waits for it, and so does a territory that still closes. An image that
places a core in a fifth group is refused by the loader (R279, status 9), which ends the territory again (R84). -/
def execTerritoryLaunch (k : Nat) (tables : LaunchTables) (s : State) : Res :=
  .next (
    match s.tcfgWrite k with
    | none => s
    | some (r, t, w) =>
      if s.tlive t || !wbit w 29 then s
      else
        let cs := s.tinit t
        if (s.terr t).closing || cs.any (fun c => (s.clus c).lock.isSome) then s
        else if !s.launchOk w cs then (s.remove k).accept r.msg r.uid
        else
          let s1 := cs.foldl (fun s c => (s.scrubClus c t).transferClus c t 0 (pcCool s.pcfg)) (s.remove k)
          let s2 := (s1.advanceGen 0).advanceGen t
          let s3 := s2.setWin t { (s2.terr t).win with tcfg := w }
          let groups : KMap Group := tables.groups.foldl (fun g e => kput g e.1 (s3.newGroup t e.2)) []
          let upcalls : KMap Nat := tables.upcalls.foldl (fun g e => kput g e.1 e.2) []
          let regions : KMap Region := (tables.regions.take 64).mapIdx (fun i e => (i, ⟨e.1, e.2.1, e.2.2⟩))
          let e := s3.terr t
          let s4 :=
            if s3.groupsOk t tables.groups then
              s3.setTerr t { e with groups := groups, templates := tables.templates, upcalls := upcalls, regions := regions, paused := false }
            else (s3.setTerr t { e with win := { e.win with tcfg := w &&& ~~~(1#64 <<< 29) }, closing := true }).closeOne t
          s4.accept r.msg r.uid)

/-- TERRITORY_SHUTDOWN (R339): live goes from 1 to 0, and the clusters begin to drain to territory 0. -/
def execTerritoryShutdown (k : Nat) (s : State) : Res :=
  .next (
    match s.tcfgWrite k with
    | none => s
    | some (r, t, w) =>
      if !s.tlive t || wbit w 29 then s
      else
        let e := s.terr t
        (((s.remove k).setTerr t { e with win := { e.win with tcfg := w }, closing := true }).closeOne t).accept r.msg r.uid)

/-! ### Queues (R355) -/

/-- A write of the first word of a slot: the territory and the slot. -/
def State.slotWrite (s : State) (k : Nat) : Option (RegWr × Nat × Nat) :=
  match s.regWr k with
  | none => none
  | some r =>
    match r.window with
    | some (t, o) => if 0x100 ≤ o ∧ o < 0x200 ∧ o % 16 = 0 then some (r, t, (o - 0x100) / 16) else none
    | none => none

/-- A slot is left unmapped, with a queue id and a rate in its register, and its records go back to their queue's ring: none when they do not
fit. -/
def State.unmapSlot (s : State) (t j q rho : Nat) : Option State :=
  let o := s.slot t j
  let off (s : State) : State := s.setSlot t j ⟨false, q, rho, [], s.now⟩
  if !o.mapped then some (off s)
  else
    let v := s.qcb t o.queue
    if 2 ^ qcbLg v < qcbHeld v + o.recs.length + s.landingsOf t o.queue then none
    else
      let place (r : KMap (Nat × Option Nat)) (e : Nat × Record) : KMap (Nat × Option Nat) :=
        kput r (65536 * o.queue + (qcbTail v + e.1) % 65536) (e.2.postedAt, e.2.pin)
      let s0 := s.setTerr t { s.terr t with ring := ((List.range o.recs.length).zip o.recs).foldl place (s.terr t).ring }
      let s1 := ((List.range o.recs.length).zip o.recs).foldl (fun s e => s.gwrite t (qcbRing v + 64 * ((qcbTail v + e.1) % 2 ^ qcbLg v)) e.2.bytes) s0
      some (off (s1.gwrite t (s.qcbAt t o.queue) (leBytes 16 (qcbWith v (qcbHead v) (qcbTail v + o.recs.length) true))))

/-- A queue takes a free slot: up to 1,024 records of its ring move, in key order, and a ring left empty pends no more. Each record keeps when it
was posted, and its pin core (R215, R271); one that software wrote into the ring itself counts as posted now and has no pin (DESIGN CHOICE, log
entry 104). -/
def State.mapSlot (s : State) (t j q rho : Nat) : State :=
  let v := s.qcb t q
  let n := min (1024 - s.landingsOf t q) (qcbHeld v)
  let keyOf (i : Nat) : Nat := 65536 * q + (qcbHead v + i) % 65536
  let recs := (List.range n).map (fun i =>
    let known := (kget (s.terr t).ring (keyOf i)).getD (s.now, none)
    (⟨s.gread t (qcbRing v + 64 * ((qcbHead v + i) % 2 ^ qcbLg v)) 64, known.1, known.2, s.uid + i⟩ : Record))
  let s0 := s.setTerr t { s.terr t with ring := (List.range n).foldl (fun r i => kdel r (keyOf i)) (s.terr t).ring }
  let s1 := s0.gwrite t (s.qcbAt t q) (leBytes 16 (qcbWith v (qcbHead v + n) (qcbTail v) (qcbPend v && n != qcbHeld v)))
  ({ s1 with uid := s.uid + n }.setSlot t j ⟨true, q, rho, [], s.now⟩).setRecs t j (recs.foldl (fun l r => insertRec r l) [])

/-- QUEUE_MAP (R355): a write with map set. It is ignored when the queue does not exist or another slot maps it. -/
def execQueueMap (k : Nat) (s : State) : Res :=
  .next (
    match s.slotWrite k with
    | none => s
    | some (r, t, j) =>
      if !wbit (word r.val) 32 then s
      else
        let q := bits (word r.val) 0 16
        let rho := bits (word r.val) 16 16
        let s0 := s.remove k
        let o := s0.slot t j
        let s1 : State :=
          if s.qcount t ≤ q || (match (s.terr t).slotOf q with | some i => i != j | none => false) then s0
          else if o.mapped && o.queue == q then s0.setSlot t j { o with rho := rho }
          else match s0.unmapSlot t j q rho with | some s2 => s2.mapSlot t j q rho | none => s0
        s1.accept r.msg r.uid)

/-- QUEUE_UNMAP (R355): a write with map clear. It is ignored when the ring lacks room; the slot keeps the queue id and the rate written. -/
def execQueueUnmap (k : Nat) (s : State) : Res :=
  .next (
    match s.slotWrite k with
    | none => s
    | some (r, t, j) =>
      if wbit (word r.val) 32 then s
      else (((s.remove k).unmapSlot t j (bits (word r.val) 0 16) (bits (word r.val) 16 16)).getD (s.remove k)).accept r.msg r.uid)

end Sys2Proof.Machine
end

