-- ==== Sys2Proof/Machine/Slices.lean ====
section
/-! DEFINITION. The cache slices (R289 to R299, R318, R319): SLICE_REQUEST, SLICE_FILL_RETURN, OCC_REBUILD_END and PATROL_SCRUB. The one
copy of a location that counts (R299) stands in the global memory of the state; a slice keeps the tags. -/

namespace Sys2Proof.Machine

/-! ### Sets and ways (R289, R292, R296) -/

/-- The line becomes its set's most recent, or its least recent under the evict-first hint. -/
def CacheSlice.rank (c : CacheSlice) (set w : Nat) (cool : Bool) : CacheSlice :=
  if cool then
    { c with tick := c.tick + 1, ways := c.ways.map (fun e => if e.1 = 16 * set + w then (e.1, { e.2 with lru := 0 }) else if e.1 / 16 = set then (e.1, { e.2 with lru := e.2.lru + 1 }) else e) }
  else
    { c with tick := c.tick + 1, ways := c.ways.map (fun e => if e.1 = 16 * set + w then (e.1, { e.2 with lru := c.tick }) else e) }
/-- victim(t, S) of R296. -/
def CacheSlice.victim (c : CacheSlice) (t set alloc : Nat) : Option Nat :=
  let m := (List.range c.c).filter (fun w => (c.mask t).getLsbD w)
  if alloc = 1 then none
  else
    match m.find? (fun w => (c.wayAt set w).isNone) with
    | some w => some w
    | none =>
      m.foldl (fun b w => match b with
        | none => some w
        | some o => if ((c.wayAt set w).map (·.lru)).getD 0 < ((c.wayAt set o).map (·.lru)).getD 0 then some w else some o) none

/-! ### Reports of a slice (R318, R319) -/

/-- A message about a slice: to its die supervisor, and into the fault rings of territories. -/
def State.sliceReport (s : State) (h flags kind reason pa : Nat) (terr : Nat) (rings : List Nat) : State :=
  let core := coreIn (clusOfSlice h) 0 0
  let msg (t : Nat) : List Byte := faultBytes (s.timeFor t) flags terr 0 reason kind 0 core (word pa) 0
  let s1 := s.send { src := .slice h, dst := .core (supOf (h / 64)), vc := 3, terr := none, fab := none, body := .fault (msg 0), sentAt := s.now }
  rings.foldl (fun s t => s.faultRing t (leBytes 64 0) (msg t)) s1

/-- GDDR7 shows what stands behind a line. -/
def State.behind (s : State) (y : Way) : State := { s with gmem := y.orig.foldl (fun m c => mput m c.1 c.2) s.gmem }
/-- The line leaves its way: a dirty one goes to GDDR7 under the key it was filled with (R357), and one with uncorrectable words is reported
(R319); behind a clean one GDDR7 has what it had. -/
def State.evict (s : State) (h set w : Nat) : State :=
  match (s.slice h).wayAt set w with
  | none => s
  | some y =>
    let s0 := s.setSlice h { s.slice h with ways := kdel (s.slice h).ways (16 * set + w) }
    let s1 : State := if y.dirty then { s0 with gkeys := kput s0.gkeys y.line y.key } else s0.behind y
    if y.dirty && touchesBad s.gbad (128 * y.line) 128 then
      s1.sliceReport h 1 4 uncorrectable.toNat (128 * y.line) y.owner (if y.owner = 0 then [] else [y.owner])
    else s1

/-! ### Serving (R293) -/

/-- The answer to a request leaves the slice. -/
def State.reply (s : State) (h : Nat) (r : Req) (b : Body) : State :=
  s.send { src := .slice h, dst := .core r.core, vc := 1, terr := none, fab := none, body := b, sentAt := s.now }

/-- Poisoned 64-bit words among some bytes. -/
def State.badIn (s : State) (a n : Nat) : List Nat := (wordsOf a n).filter s.gbad.contains

/-- A read at a slice corrects the correctable words that it meets (R317). -/
def State.correct (s : State) (h a n : Nat) : State :=
  let sl := s.slice h
  let hit := sl.weak.filter (wordsOf a n).contains
  if hit.isEmpty then s
  else s.setSlice h { sl with weak := sl.weak.filter (fun w => !hit.contains w), corr := sl.corr + BitVec.ofNat 32 hit.length }

/-- Serves one request under its line's lock. -/
def State.serve (s : State) (h : Nat) (r : Req) : State :=
  match r.op with
  | .read n => let s1 := s.correct h r.pa n; s1.reply h r (.data r (s1.gseen r.key r.pa n) (s1.badIn r.pa n))
  | .fill => let s1 := s.correct h r.pa 64; s1.reply h r (.data r (s1.gseen r.key r.pa 64) (s1.badIn r.pa 64))
  | .write cells bad => (s.applyWrite r.key r.pa cells bad).reply h r (.ack r.core r.uid)
  | .atomic fn n v cmp =>
    let s1 := s.correct h r.pa n
    let bad := s1.badIn r.pa n
    let old := s1.gseen r.key r.pa n
    -- an atomic that meets an uncorrectable word writes nothing
    let s2 := if bad.isEmpty then
        match [AmoFn.add, .swap, .cas, .mins, .maxs, .minn, .maxn, .and, .or, .xor].find? (fun f => f.code == fn) with
        | some f => s1.applyWrite r.key r.pa ((List.range n).zipWith (fun i b => (r.pa + i, b)) (leBytes n (amo f n (leNat old) v cmp))) []
        | none => s1
      else s1
    s2.reply h r (.data r old bad)

/-! ### The queues of a bank (R292, R293) -/

/-- The set of a request's line, in a cache way or in a base-memory way (R289, R290). -/
def reqSet (pa : Nat) : Nat := if isBase pa then (pa - 0x4000000000) / 128 % 16384 else setOf pa

/-- Two requests that are served in arrival order whatever their priorities: of one core, to one line. -/
def Req.follows (r q : Req) : Bool := r.core == q.core && r.pa / 128 == q.pa / 128

/-- A request joins a queue: before those of lower priority (R48), behind its core's earlier requests to its line. -/
def joinQueue (q : Req) : List Req → List Req
  | [] => [q]
  | r :: rs => if r.prio < q.prio && !(r :: rs).any (fun o => q.follows o) then q :: r :: rs else r :: joinQueue q rs

/-- Requests that wait in a bank's conflict queue: those of its blocked sets. -/
def CacheSlice.waiting (c : CacheSlice) (bank : Nat) : Nat :=
  ((c.blocks.filter (fun b => b.1 % 4 == bank)).map (fun b => b.2.held.length - 1 + b.2.conflict.length)).sum
def CacheSlice.bypassed (c : CacheSlice) (bank : Nat) : List Req := (kget c.bypass bank).getD []

/-- request(q, set S, line L) of R293 at the tags. A base-memory line is always in its way. -/
def State.sliceTake (s : State) (h : Nat) (r : Req) : State :=
  let sl := s.slice h
  let set := reqSet r.pa
  match kget sl.blocks set with
  | some b =>
    let b1 := if b.line = r.pa / 128 then { b with held := b.held ++ [r] } else { b with conflict := joinQueue r b.conflict }
    s.setSlice h { sl with blocks := kput sl.blocks set b1 }
  | none =>
    if isBase r.pa then s.serve h r
    else
      match sl.holds r.pa with
      | some w => (s.setSlice h (sl.rank set w false)).serve h r
      | none =>
        match sl.victim r.terr set r.alloc with
        | none => s.serve h r
        | some w =>
          let s1 := s.evict h set w
          let b : Block := ⟨r.pa / 128, w, r.alloc == 2, r.terr, r.key, [r], []⟩
          s1.setSlice h { s1.slice h with blocks := kput (s1.slice h).blocks set b }

/-- SLICE_REQUEST (R293): a slice accepts a request. With a conflict queue or a bypass queue full its bank accepts none; behind a bank head that
another set's block holds, a request takes the bypass queue, and so does one to a line for which an earlier one waits there, though its set has come to
be blocked: it is served after that one (R294). -/
def execSliceRequest (k : Nat) (s : State) : Res :=
  .next (
    match s.arriving k with
    | some m =>
      match m.dst, m.body with
      | .slice h, .req r =>
        let sl := s.slice h
        let bank := reqSet r.pa % 4
        let by_ := sl.bypassed bank
        if 8 ≤ sl.waiting bank || 16 ≤ by_.length then s
        else if s.noStorage r.pa then (s.remove k).reply h r (.nak r.core r.uid translation)
        else if ((kget sl.blocks (reqSet r.pa)).isNone && (sl.waiting bank ≠ 0 || !by_.isEmpty)) || by_.any (fun o => o.pa / 128 == r.pa / 128) then
          (s.remove k).setSlice h { sl with bypass := kput sl.bypass bank (joinQueue r by_) }
        else (s.remove k).sliceTake h r
      | _, _ => s
    | none => s)

/-- The head of a bank's bypass queue proceeds (R293). It waits while its set has come to be blocked and the conflict queue is full. -/
def State.bypassGo (s : State) (h bank : Nat) : State :=
  let sl := s.slice h
  match sl.bypassed bank with
  | [] => s
  | r :: rs =>
    if (kget sl.blocks (reqSet r.pa)).isSome && 8 ≤ sl.waiting bank then s
    else (s.setSlice h { sl with bypass := if rs.isEmpty then kdel sl.bypass bank else kput sl.bypass bank rs }).sliceTake h r

/-- A request that only reads. -/
def Req.reads (r : Req) : Bool := match r.op with | .read _ | .fill => true | _ => false

/-- The bytes that a fill brings under its key, and those that stay behind it in GDDR7 where they differ. -/
def State.fillLine (s : State) (b : Block) : State × List Host.Cell :=
  match s.crypt b.key b.line with
  | none => (s, [])
  | some _ => (s.decrypt b.key b.line, (List.range 128).map (fun i => (128 * b.line + i, mget s.gmem (128 * b.line + i))))

/-- SLICE_FILL_RETURN (R293, R296): the line takes its way; held writes apply, then waiting reads are answered, and the conflict queue
drains. -/
def execSliceFillReturn (slice set : Nat) (s : State) : Res :=
  let sl := s.slice slice
  .next (
    match kget sl.blocks set with
    | none => s
    | some b =>
      let f := s.fillLine b
      let w : Way := ⟨b.line, false, b.terr, b.key, 0, f.2⟩
      let sl1 := { sl with blocks := kdel sl.blocks set, ways := kput sl.ways (16 * set + b.way) w }
      let s1 := f.1.setSlice slice (sl1.rank set b.way b.evictFirst)
      let s2 := (b.held.filter (fun r => !r.reads)).foldl (fun s r => s.serve slice r) s1
      let s3 := (b.held.filter Req.reads).foldl (fun s r => s.serve slice r) s2
      b.conflict.foldl (fun s r => s.sliceTake slice r) s3)

/-- OCC_REBUILD_END (R318): the scan of the tags ends, and OCC is exact. -/
def execOccRebuildEnd (slice : Nat) (s : State) : Res :=
  .next (s.setSlice slice { s.slice slice with occExtra := [] })

/-- PATROL_SCRUB (R149): in a cc in which its bank grants no other access, a granule's correctable words are corrected and counted; its
uncorrectable words stay poisoned. -/
def execPatrolScrub (core granule : Nat) (s : State) : Res := .next (if s.disabled.contains core then s else s.mend core (64 * granule) 64 false)

end Sys2Proof.Machine
end

