-- ==== Sys2Proof/Machine/RegWrites.lean ====
section
/-! DEFINITION. Writes of memory-mapped registers (R295, R298, R320, R338, R352, R366, R367, R369, R373): each arrives as a message, is
written or refused, and is answered. TOFF_WRITE, TETHER_STORE_WRITE, START, SGO, TDONE, WMASK_WRITE, SCFG_WRITE, ROUTE_WRITE, PKGID_WRITE
and REGISTER_WRITE. -/

namespace Sys2Proof.Machine

/-- The register takes the write and acknowledges it. -/
def State.written (s : State) (r : RegWr) : State := s.accept r.msg r.uid
/-- The write is refused, and its access traps TRANSLATION. -/
def State.rejected (s : State) (r : RegWr) : State := s.refuse r.msg r.uid translation

/-! ### Which register a write names -/

/-- A slice's register: slice and offset (Table 16.6). -/
def RegWr.sliceReg (r : RegWr) : Option (Nat × Nat) :=
  if r.pa < 0x8004000000 && r.pa % 0x1000000 < 0x40000 then
    some (64 * ((r.pa - 0x8000000000) / 0x1000000) + r.pa % 0x1000000 / 0x1000, r.pa % 0x1000)
  else none
/-- A containment rectangle: its number by 64·die + n. -/
def RegWr.crectReg (r : RegWr) : Option Nat :=
  let o := r.pa % 0x1000000
  if r.pa < 0x8004000000 && 0x40000 ≤ o && o < 0x40200 && o % 8 == 0 && r.n == 8 then
    some (64 * ((r.pa - 0x8000000000) / 0x1000000) + (o - 0x40000) / 8)
  else none
/-- An offset in the I/O die's range (Table 22.1). -/
def RegWr.ioReg (r : RegWr) : Option Nat := if 0x8004000000 ≤ r.pa && r.pa < 0x8100000000 then some (r.pa - 0x8004000000) else none
/-- A place in the tether aperture: cluster and offset (Table 20.8). -/
def RegWr.aperture (r : RegWr) : Option (Nat × Nat) :=
  if isAperture r.pa then some ((r.pa - 0x8100000000) / 0x200000, (r.pa - 0x8100000000) % 0x200000) else none

def RegWr.isScfg (r : RegWr) : Option Nat :=
  match r.sliceReg with | some (h, o) => if o = 0 && r.n == 8 then some h else none | none => none
/-- A way mask: slice and territory. -/
def RegWr.isWmask (r : RegWr) : Option (Nat × Nat) :=
  match r.sliceReg with
  | some (h, o) => if 0x200 ≤ o && o < 0x400 && o % 2 == 0 && r.n == 2 then some (h, (o - 0x200) / 2) else none
  | none => none
/-- A ROUTE entry: the package id. -/
def RegWr.isRoute (r : RegWr) : Option Nat :=
  match r.ioReg with | some o => if 0x10000 ≤ o && o < 0x30000 && o % 2 == 0 && r.n == 2 then some ((o - 0x10000) / 2) else none | none => none
def RegWr.isPkgid (r : RegWr) : Bool := r.ioReg == some 0x1100 && r.n == 8
def RegWr.isToff (r : RegWr) : Option Nat := match r.window with | some (t, 0x308) => some t | _ => none

/-- What an aperture offset names. -/
inductive ApPart where
  | istore (core a : Nat)
  | image (core a : Nat)
  | start (core : Nat)
  | sstore (i : Nat)
  | sgo
  | tdone
  deriving DecidableEq, Repr

def apPart (c o : Nat) : Option ApPart :=
  if o < 0x100000 then
    let k := coreIn c (o / 0x10000 % 4) (o / 0x40000)
    let a := o % 0x10000
    if a < 0x8000 then some (.istore k a)
    else if a < 0x8800 then some (.image k (a - 0x8000))
    else if a = 0x8800 then some (.start k)
    else none
  else if o < 0x110000 then some (.sstore ((o - 0x100000) / 4))
  else if o = 0x110000 then some .sgo
  else if o = 0x110004 then some .tdone
  else none

/-- The core that a part belongs to. -/
def ApPart.core? : ApPart → Option Nat
  | .istore k _ | .image k _ | .start k => some k
  | _ => none

/-- A write that the aperture takes (R352): the cluster and the part. Once the cluster's tether has ended, TDONE is refused like any other
access. -/
def State.apWrite (s : State) (r : RegWr) : Option (Nat × ApPart) :=
  match r.aperture with
  | none => none
  | some (c, o) =>
    let q := s.clus c
    match apPart c o with
    | none => none
    | some p =>
      let mine := (r.level == .s && r.msg.terr.isNone) || (r.msg.terr.isSome && r.msg.terr == q.owner && r.level != .u)
      let coreOk := match p.core? with | some k => s.plain k && (s.stat k).tether | none => true
      if r.n = 4 && q.tether && mine && coreOk then some (c, p) else none

/-- The on-module operating system, which runs on the I/O die, writes a register of that die or of a territory window (R338, R366), and has taken
the answers to what it wrote before. -/
def State.osWrite (s : State) (pa n v : Nat) : State :=
  let answer (m : Msg) : Bool := m.dst == .io && (match m.body with | .ack .. | .nak .. => true | _ => false)
  if (windowOf pa).isNone && !(0x8004000000 ≤ pa && pa < 0x8100000000) then s
  else
    State.send { s with uid := s.uid + 1, net := s.net.filter (fun m => !answer m) }
      { src := .io, dst := .io, vc := 0, terr := none, fab := none, sentAt := s.now, body := .regWrite 0 0 s.uid .s 0 pa n v }

/-! ### Rows -/

/-- TOFF_WRITE (R373): an offset that would take TIME below TLAST is ignored and sets err. -/
def execToffWrite (k : Nat) (s : State) : Res :=
  .next (
    match s.regWr k with
    | none => s
    | some r =>
      match r.isToff with
      | none => s
      | some t =>
        let w := (s.terr t).win
        let bad : Bool := (s.io.tbase : Int) + (word r.val).toInt < (w.tlast.toNat : Int)
        let w1 : Window := if bad then { w with tmig := w.tmig ||| 4#64 } else { w with toff := word r.val, tmig := w.tmig &&& 3#64 }
        ((s.remove k).setWin t w1).written r)

/-- TETHER_STORE_WRITE (R352, Table 20.8): four bytes of an instruction store or a core image, or a stream-store word. -/
def execTetherStoreWrite (k : Nat) (s : State) : Res :=
  .next (
    match s.regWr k with
    | none => s
    | some r =>
      let bs := leBytes 4 r.val
      match s.apWrite r with
      | some (_, .istore q a) => ((s.remove k).setCore q ((s.core q).istoreWrite a bs)).written r
      | some (_, .image q a) => ((s.remove k).setCore q (if inEngineState (0x1E000 + a) then s.core q else (s.core q).lwrite (0x1E000 + a) bs)).written r
      | some (c, .sstore i) =>
        let q := s.clus c
        let v := BitVec.ofNat 32 r.val
        ((s.remove k).setClus c { q with sstore := if v = 0 then kdel q.sstore i else kput q.sstore i v, sbad := ndel q.sbad i }).written r
      | _ => s)

/-- A value that Table 20.9 allows. -/
def startOk (v : Word) : Bool := bits v 15 12 == 0 && bits v 27 3 ≤ 4 && (if wbit v 31 then !wbit v 14 else bits v 0 2 == 0)

/-- A core's own tether ends. A streamed start is complete only when the cluster's head starts (R352). -/
def State.endTether (s : State) (c q : Nat) (streamed : Bool) : State :=
  (s.setStat q { s.stat q with tether := false, begun := !streamed }).settleTether c

/-- START (R352, Table 20.9): context 0 of a tethered core starts (R86), locally or as a JOIN, with the stash size written first and the
image's region table in place (R144). -/
def execStart (k : Nat) (s : State) : Res :=
  .next (
    match s.regWr k with
    | none => s
    | some r =>
      match s.apWrite r with
      | some (c, .start q) =>
        let v := word r.val
        let s0 := s.remove k
        if !startOk v then s0.rejected r
        else
          let lv : Level := if wbit v 30 then .t else .u
          let n := bits v 0 15
          let m := { (s0.core q).resize (BitVec.ofNat 3 (bits v 27 3)) with regions := (s.terr ((s.clus c).owner.getD 0)).regions }
          let start (h : Ctx) : State := (s0.setCore q (m.setCtx 0 { h with burnAt := s.now })).endTether c q (wbit v 31)
          let s1 :=
            if !wbit v 31 then start (Ctx.start n lv .running)
            else if m.stream.got.contains n then (start (Ctx.start n lv .running)).asCtx q 0 fun s => s.trap streamLate (word n)
            else start { Ctx.start n lv (.parked (.stream false)) with mode := .joining n }
          s1.written r
      | _ => s)

/-- SGO (R352, R240): the head of a tethered cluster starts. -/
def execSgo (k : Nat) (s : State) : Res :=
  .next (
    match s.regWr k with
    | none => s
    | some r =>
      match s.apWrite r with
      | some (c, .sgo) =>
        let v := word r.val
        if bits v 18 14 ≠ 0 ∨ bits v 0 4 = 0 ∨ (s.clus c).head.running then (s.remove k).rejected r
        else ((s.remove k).startHead c (bits v 4 14) (bits v 0 4) (s.now + 8)).written r
      | _ => s)

/-- TDONE (R352): a write of 0 ends the cluster's tether, and the streamed starts in it are complete. -/
def execTdone (k : Nat) (s : State) : Res :=
  .next (
    match s.regWr k with
    | none => s
    | some r =>
      match s.apWrite r with
      | some (c, .tdone) =>
        if r.val % 2 ^ 32 ≠ 0 then (s.remove k).rejected r
        else
          let s1 := (coresOf c).foldl (fun s q => s.setStat q { s.stat q with tether := false, begun := s.begins q }) (s.remove k)
          (s1.setClus c { s1.clus c with tether := false }).written r
      | _ => s)

/-- WMASK_WRITE (R295). -/
def execWmaskWrite (k : Nat) (s : State) : Res :=
  .next (
    match s.regWr k with
    | none => s
    | some r =>
      match r.isWmask with
      | none => s
      | some (h, t) =>
        let c := s.slice h
        let v := BitVec.ofNat 16 r.val
        ((s.remove k).setSlice h { c with wmask := if v = 0xFFFF then kdel c.wmask t else kput c.wmask t v }).written r)

/-- The lines in ways of a slice from `n` on leave them. -/
def State.dropWays (s : State) (h n : Nat) : State :=
  (((s.slice h).ways.map (·.1)).filter (fun i => n ≤ i % 16)).foldl (fun s i => s.evict h (i / 16) (i % 16)) s

/-- The base-memory ways of a slice stand under other offsets when its count of cache ways goes from `c` to `n` (R290): what a way holds stays in
the way. A way that was a cache way reads as memory that nothing has written (DESIGN CHOICE, log entry 87). -/
def State.rebase (s : State) (h c n : Nat) : State :=
  let lo := 0x4000000000 + 2 ^ 31 * (h / 64) + 2 ^ 25 * (h % 64)
  let mine (a : Nat) : Bool := lo ≤ a && a < lo + 2 ^ 25
  let moved (unit a : Nat) : Option Nat := if lo + n * 2 ^ 21 ≤ unit * a + c * 2 ^ 21 then some ((unit * a + c * 2 ^ 21 - n * 2 ^ 21) / unit) else none
  let words (l : List Nat) : List Nat := ((l.filter (fun w => mine (8 * w))).filterMap (moved 8)).foldl nput (l.filter (fun w => !mine (8 * w)))
  let sl := s.slice h
  { s.setSlice h { sl with weak := words sl.weak } with
    gmem := (s.gmem.filter (fun e => mine e.1)).foldl (fun m e => match moved 1 e.1 with | some a => mput m a e.2 | none => m)
      (s.gmem.filter (fun e => !mine e.1))
    gbad := words s.gbad }

/-- SCFG_WRITE (R298): ignored once locked, as is a count of ways that Table 16.6 does not list. Lines in ways that are cache ways no more go;
the write waits for the fills in flight and for what waits in the banks. -/
def execScfgWrite (k : Nat) (s : State) : Res :=
  .next (
    match s.regWr k with
    | none => s
    | some r =>
      match r.isScfg with
      | none => s
      | some h =>
        let c := s.slice h
        if !c.blocks.isEmpty || !c.bypass.isEmpty then s
        else if c.lock then (s.remove k).written r
        else
          let n := r.val % 32
          if n % 4 ≠ 0 ∨ 16 < n then (s.remove k).written r
          else
            let s1 := ((s.remove k).dropWays h n).rebase h c.c n
            (s1.setSlice h { s1.slice h with c := n, lock := wbit (word r.val) 8 }).written r)

/-- ROUTE_WRITE (R369): the entry changes once the frames that left under the old one are done. -/
def execRouteWrite (k : Nat) (s : State) : Res :=
  .next (
    match s.regWr k with
    | none => s
    | some r =>
      match r.isRoute with
      | none => s
      | some p =>
        let old := (kget s.io.route p).getD 0
        let v := BitVec.ofNat 16 r.val &&& 0x800F#16
        if old.getLsbD 15 && s.net.any (fun m => m.dst == .port (old.toNat % 16) && (match m.src with | .core _ => true | _ => false) && m.fab.any (fun f => f.pkg == p)) then s
        else ({ s.remove k with io := { s.io with route := if v = 0 then kdel s.io.route p else kput s.io.route p v } }).written r)

/-- PKGID_WRITE (R366): the first write after reset; a later one is refused. -/
def execPkgidWrite (k : Nat) (s : State) : Res :=
  .next (
    match s.regWr k with
    | none => s
    | some r =>
      if !r.isPkgid then s
      else if s.io.pkgWritten then (s.remove k).rejected r
      else ({ s.remove k with io := { s.io with pkgid := word (r.val % 65536), pkgWritten := true } }).written r)

/-! ### The other registers -/

/-- A window field takes a value (Tables 20.1, 22.6); reserved and read-only bits stay. TINIT is ignored while the territory lives. -/
def Window.write (w : Window) (o v : Nat) : Window :=
  let x := word v
  if o = 8 then { w with root1 := x }
  else if o = 0x10 then { w with root2 := x &&& 0xF3FFFFFFFFFFFFFF#64 }
  else if o = 0x18 then { w with tsave := x &&& 0xFFF000FFFFFFF000#64 }
  else if o = 0x20 then { w with tfring := (x &&& 0x00000FFFFFFFFF80#64) ||| (w.tfring &&& 0xFFFFF00000000000#64) }
  else if o = 0x28 then { w with tfhead := x &&& 0xFFF#64 }
  else if o = 0x30 then { w with tpower := x &&& 0x0000FFFF00FFFFFF#64 }
  else if o < 0x80 then { w with tclass := Vector.ofFn (fun i => if i.val = (o - 0x40) / 8 then x &&& 0x1FFFFFF#64 else w.tclass[i]) }
  else if o = 0x80 then { w with tqcb := x &&& 0x00FFFFFFFFFFFFC0#64 }
  else if o < 0x200 then w
  else if o < 0x240 then (if wbit w.tcfg 29 then w else { w with tinit := Vector.ofFn (fun i => if i.val = (o - 0x220) / 8 then x else w.tinit[i]) })
  else if o = 0x300 then { w with tfab := x &&& 0x1FFFF#64 }
  else { w with tmig := (x &&& 3#64) ||| (w.tmig &&& 4#64) }

/-- An I/O die register without a row of its own (Table 22.1): FPCFG, whose up bit is the link's, and SHKEY. -/
def IoDie.write (d : IoDie) (o n v : Nat) : Option IoDie :=
  if n ≠ 8 then none
  else if o < 0x1000 ∧ o % 256 = 0 then
    some { d with fpcfg := Vector.ofFn (fun i => if i.val = o / 256 then (word v &&& 0x0000FFFFFFFFFF03#64) ||| (d.fpcfg[i] &&& 4#64) else d.fpcfg[i]) }
  else if 0x1000 ≤ o ∧ o < 0x1080 ∧ o % 8 = 0 then
    some { d with shkey := Vector.ofFn (fun i => if i.val = (o - 0x1000) / 8 then word v &&& 0xFF0FFFFFFFFFFFFF#64 else d.shkey[i]) }
  else none

/-- A containment rectangle takes a value (R320); a kill bit kills what it now encloses (R322). -/
def State.crectWrite (s : State) (i : Nat) (w : Word) : State :=
  let v := w &&& 0x01FFFFE1#64
  let s1 := { s with crects := if v = 0 then kdel s.crects i else kput s.crects i v }
  if !wbit w 32 then s1
  else match s1.rectangle (i / 64) (i % 64) with | some r => s1.kill (rectCores (i / 64) r) | none => s1

/-- REGISTER_WRITE (R298, R338, R366): every write without a row of its own, and every one that is refused. -/
def execRegisterWrite (k : Nat) (s : State) : Res :=
  .next (
    match s.regWr k with
    | none => s
    | some r =>
      let s0 := s.remove k
      if r.isScfg.isSome || r.isWmask.isSome || r.isRoute.isSome || r.isPkgid then s
      else
        match r.aperture with
        | some _ => if (s.apWrite r).isSome then s else s0.rejected r
        | none =>
          match r.crectReg, r.ioReg, r.window with
          | some i, _, _ => (s0.crectWrite i (word r.val)).written r
          | _, some o, _ => (match s.io.write o r.n r.val with | some d => ({ s0 with io := d }).written r | none => s0.rejected r)
          | _, _, some (t, o) =>
            let w := (s.terr t).win
            if o = 0 then
              let v := tcfgWith w.tcfg r.val
              if wbit v 29 != wbit w.tcfg 29 then s else (s0.setWin t { w with tcfg := v }).written r
            else if o = 0x308 || (0x100 ≤ o && o < 0x200 && o % 16 == 0) then s
            else (s0.setWin t (w.write o r.val)).written r
          | _, _, none => s0.rejected r)

end Sys2Proof.Machine
end

