-- ==== Sys2Proof/Machine/Fabric.lean ====
section
/-! DEFINITION. The outside world: the fabric (R367 to R369), detector ingress (R370), time (R372), the host and attestation (R376, R377),
and fabric link training. FABRIC_FRAME_RECEIVE, FABRIC_ACK_TIMEOUT, INGRESS_FRAME, TIME_DISCIPLINE, SPDM_GET_MEASUREMENTS, HOST_DMA_ACCESS
and FABRIC_LINK_TRAINING. -/

namespace Sys2Proof.Machine

/-! ### The fabric (R368) -/

/-- A port is in fabric mode (Table 22.2); at one that is not, no frame of the fabric is delivered. -/
def State.fabricMode (s : State) (p : Nat) : Bool := bits (s.io.fpcfg.toList.getD p 0) 0 2 == 1

/-- What comes in at a fabric port: an answer to a core of this package, or a request, which waits for its admission. -/
def State.fromWire (s : State) (p vc : Nat) (f : Fab) (b : Body) : State :=
  let m (dst : Agent) (v : Nat) (fab : Option Fab) : Msg := { src := .port p, dst := dst, vc := v, terr := none, fab := fab, body := b, sentAt := s.now }
  if !s.fabricMode p then s else
  match b with
  | .ack .. | .nak .. => s.send (m (.core f.here) 1 none)
  | .push .. | .packet .. | .post .. | .mail .. => s.send (m (.port p) vc (some f))
  | _ => s

/-- The fate of a request at the receiving package (Table 22.3): none when it is admitted. A die supervisor takes traffic of any territory
(R340). -/
def State.admission (s : State) (m : Msg) (f : Fab) : Option (BitVec 8) :=
  match s.refusal { m with terr := none } f.here with
  | some c => some c
  | none =>
    if isSup f.here then none
    else
      let w := (s.terr (s.terrOf f.here)).win.tfab
      if wbit w 16 && bits w 0 16 == f.tag then none else some territory

/-- The uid that a request's answer names. -/
def Body.uid? : Body → Option Nat
  | .push u _ _ _ _ _ | .packet u _ _ _ _ | .post u _ _ _ _ | .mail u _ _ _ _ => some u
  | _ => none

/-- FABRIC_FRAME_RECEIVE (R368): an incoming request is delivered on this package's mesh, or refused. -/
def execFabricFrameReceive (k : Nat) (s : State) : Res :=
  .next (
    match s.arriving k with
    | some m =>
      match m.src, m.dst, m.fab, m.body.uid? with
      | .port p, .port _, some f, some uid =>
        let s1 := s.remove k
        if !s.fabricMode p then s1 else
        match s1.admission m f with
        | some cause => s1.refuse m uid cause
        | none => s1.send { m with dst := .core f.here, terr := s1.tagOf f.here, sentAt := s1.now }
      | _, _, _, _ => s
    | none => s)

/-- cc in the 1 ms of Table 22.3. -/
def ackLimit : Nat := 700000

/-- FABRIC_ACK_TIMEOUT (R368): a frame that no acknowledgement has met in 1 ms is given up, and its token faults. -/
def execFabricAckTimeout (k : Nat) (s : State) : Res :=
  .next (
    match s.net[k]? with
    | some m =>
      match m.src, m.dst, m.fab, m.body.uid? with
      | .core q, .port _, some _, some uid => if m.sentAt + ackLimit ≤ s.now then (s.remove k).acked q uid (some uncorrectable) else s
      | _, _, _, _ => s
    | none => s)

/-- FABRIC_LINK_TRAINING (R367, Table 22.2): the link of a port trains, or loses training. -/
def execFabricLinkTraining (port : Nat) (up : Bool) (s : State) : Res :=
  .next { s with io := { s.io with fpcfg := Vector.ofFn (fun i =>
    if i.val = port then (s.io.fpcfg[i] &&& ~~~4#64) ||| (if up then 4#64 else 0#64) else s.io.fpcfg[i]) } }

/-! ### Detector ingress (R370) -/

/-- A port's frame count goes up: accepted, or dropped. -/
def IoDie.countFrame (d : IoDie) (p : Nat) (ok : Bool) : IoDie :=
  { d with
    fseq := Vector.ofFn (fun i => if i.val = p then d.fseq[i] + 1 else d.fseq[i])
    fpcnt := Vector.ofFn (fun i =>
      let w := d.fpcnt[i]
      if i.val ≠ p then w
      else if ok then word (bits w 32 32 * 2 ^ 32 + (bits w 0 32 + 1) % 2 ^ 32)
      else word ((bits w 32 32 + 1) % 2 ^ 32 * 2 ^ 32 + bits w 0 32)) }

/-- Chunk `j` of a frame as its slot holds it (Table 22.5). -/
def ingressSlot (seq f j c port box narr time : Nat) (fcsBad : Bool) (frame : List Byte) : List Byte :=
  let last := j + 1 == c
  let part := (frame.drop (176 * j)).take 176
  leBytes 4 seq ++ leBytes 2 f ++ leBytes 1 j ++ leBytes 1 c ++ leBytes 1 (port + 16 * ofBool last + 32 * ofBool (last && fcsBad)) ++ leBytes 3 0
    ++ leBytes 4 box ++ part ++ leBytes (176 - part.length) 0 ++ leBytes 4 0 ++ leBytes 4 (if last then narr else 0) ++ leBytes 8 time

/-- The posting of an ingress frame (R215, R370), with key 0x807FFFFF: its record, and whether it can be posted. Which of the frame's slots it
names is open. -/
def State.ingressRec (s : State) (i : Inbound) : List Byte × Bool :=
  let d := (s.core i.core).mbox i.box
  s.mailRec i.core 0x7F800000 ((i.slot + (Config.freeByte i.draw).toNat % i.chunks) % d.slots) i.box d.task

/-- The next step of a frame that a port is writing: a granule of its chunk's slot (R130), traced (R302); the slot's descriptor bits; the count at
bar; and, after the last chunk, tail and narr, with pend where the mailbox's task is posted and none is pending; and that posting. Its chunks
travel on the data channel, and wait where that waits (R371). A core that no longer works, or has left the port's territory, takes nothing
more. The answer is what is left of the frame. -/
def State.chunkStep (s : State) (i : Inbound) : State × Option Inbound :=
  let k := i.core
  let c := s.core k
  let d := c.mbox i.box
  let sl := (i.slot + i.next) % d.slots
  if !s.works k || s.tagOf k != some i.terr then (s, none)
  else if c.dataBlocked || c.lands i.box then (s, some i)
  else
    match i.stage, i.todo with
    | 0, (p, bs) :: rest =>
      ((s.setCore k (c.lwrite p bs)).trace k (supOf (i.port / 4) + 64 * 31 + 31) 2 p bs.length none,
        some { i with todo := rest, stage := if rest.isEmpty then 1 else 0 })
    | 1, _ => (s.setCore k (c.setMbox i.box ((d.put (384 + sl) 1 1).put (448 + sl) 1 1)), some { i with stage := 2 })
    | 2, _ =>
      (s.setCore k (if d.bar = 0 then c else c.countAt (some d.bar) 208),
        some (if i.next + 1 < i.chunks then { i with next := i.next + 1, stage := 0 } else { i with stage := 3 }))
    | 3, _ =>
      let posts := d.task ≠ 0xFFFF && !d.pend
      let d1 := (d.put 224 6 ((i.slot + i.chunks) % d.slots)).put 288 32 ((d.narr + 1) % 2 ^ 32)
      (s.setCore k (c.setMbox i.box (if posts && (s.ingressRec i).2 then d1.put 205 1 1 else d1)), if posts then some { i with stage := 4 } else none)
    | 4, _ =>
      let pr := s.ingressRec i
      (if pr.2 then s.postOrHold k i.box pr.1 else s.taskFault (s.terrOf k) pr.1 localBounds none 0, none)
    | _, _ =>
      let bytes := ingressSlot i.seq i.frame.length i.next i.chunks i.port i.box ((d.narr + 1) % 2 ^ 32) i.time i.fcsBad i.frame
      (s, some { i with todo := cutAt64 (d.slotAt sl, bytes) })

/-- The next step of the oldest frame that a port is writing. -/
def State.nextChunk (s : State) (port : Nat) : State :=
  match s.io.inbound.find? (fun i => i.port == port) with
  | none => s
  | some i =>
    let r := s.chunkStep i
    let put (l : List Inbound) : List Inbound :=
      match r.2 with | some n => l.map (fun o => if o = i then n else o) | none => l.erase i
    { r.1 with io := { r.1.io with inbound := put r.1.io.inbound } }

/-- The first 176 bytes of a well-formed frame reach an ingress port: it is to be written, or the whole frame is dropped. -/
def State.ingress (s : State) (port : Nat) (frame : List Byte) (fcsBad : Bool) : State :=
  let w := s.io.fpcfg.toList.getD port 0
  let k := bits w 8 12
  let a := bits w 20 20
  let t := bits w 40 8
  let n := (frame.length + 175) / 176
  let c := s.core k
  let d := c.mbox a
  let drop : State := { s with io := s.io.countFrame port false }
  if !s.works k || s.tagOf k != some t || !c.mboxAt a || c.poisoned a 64 || c.mboxMalformed d || d.edge || !d.isOpen || 64 < n || d.slots < n then drop
  else if (List.range n).any (fun j => d.fresh ((d.tail + j) % d.slots)) then drop
  else
    let io := s.io.countFrame port true
    let i : Inbound :=
      { port := port, core := k, box := a, terr := t, slot := d.tail, chunks := n, next := 0, seq := (s.io.fseq.toList.getD port 0).toNat
        time := (s.timeFor t).toNat, frame := frame, fcsBad := fcsBad, draw := s.free, todo := [], stage := 0 }
    { s with io := { io with inbound := io.inbound ++ [i] }, free := s.free + 1 }

/-- INGRESS_FRAME (R370): a frame of 64 B or more, from destination address through FCS, arrives at a port in ingress mode, which writes it cut
through, each access by a turn of its own. -/
def execIngressFrame (port : Nat) (frame : List Byte) (fcsBad : Bool) (s : State) : Res :=
  .next (if 16 ≤ port || frame.length < 64 || bits (s.io.fpcfg.toList.getD port 0) 0 2 ≠ 2 then s else s.ingress port frame fcsBad)

/-! ### Time, the host and the root of trust -/

/-- TIME_DISCIPLINE (R372): so many ns of the time base, slewed by at most 500 ppm. -/
def execTimeDiscipline (elapsed : Nat) (slew : Int) (s : State) : Res :=
  let most : Int := (elapsed * 500 / 1000000 : Nat)
  let d : Int := max (-most) (min most slew)
  .next { s with io := { s.io with tbase := ((s.io.tbase + elapsed : Nat) + d).toNat } }

/-- SPDM_GET_MEASUREMENTS (R377): the signed measurement registers go out over DOE, or by a port in management mode. -/
def execSpdmGetMeasurements (viaPort : Option Nat) (s : State) : Res :=
  let meas := s.io.meas.toList
  let go : State := { s with io := { s.io with spdm := s.io.spdm ++ [(viaPort, meas, Config.signature meas)] } }
  .next (
    match viaPort with
    | none => go
    | some p => if p < 16 && bits (s.io.fpcfg.toList.getD p 0) 0 2 == 3 then go else s)

/-- HOST_DMA_ACCESS (R376): the host reads or writes GDDR7, at the lines' home slices. A read changes nothing. -/
def execHostDmaAccess (pa : Nat) (data : Option (List Byte)) (len : Nat) (s : State) : Res :=
  .next (
    match data with
    | none => s
    | some bs =>
      let b := bs.take len
      if b.isEmpty || !isGddr (pa + b.length - 1) then s
      else
        s.gput (s.keyOf 0 pa) pa b)

end Sys2Proof.Machine
end

