-- ==== Sys2Proof/Machine/Boot.lean ====
section
/-! DEFINITION. Reset and bring-up (R328, R359, R377): DIE_RESET, SUPERVISOR_IMAGE_PLACE and MODULE_BRINGUP; and SOFT_ERROR (R317, R318). -/

namespace Sys2Proof.Machine

/-! ### Die reset (R328) -/

/-- The die of an agent. -/
def Agent.die : Agent → Option Nat
  | .core k => some (dieOf k)
  | .slice h => some (h / 64)
  | .cluster c => some (dieOfClus c)
  | _ => none

/-- The cores, clusters and slices of a die. -/
def dieCores (d : Nat) : List Nat := (List.range 1024).map (fun i => supOf d + 64 * (i / 32) + i % 32)
def dieClusters (d : Nat) : List Nat := (List.range 256).filter (fun c => dieOfClus c == d)
def dieSlices (d : Nat) : List Nat := (List.range 64).map (64 * d + ·)

/-- A slice starts afresh: what its dirty lines held is lost, and GDDR7 has what it had (R292). -/
def State.resetSlice (s : State) (h : Nat) : State :=
  (s.slice h).ways.foldl (fun s e => s.behind e.2) (s.setSlice h CacheSlice.reset)

/-- DIE_RESET (R328): the routers and slices start, and every enabled core but the supervisor stands zeroed in territory 0, its context 0
halted. As SCRUB mode 0 does, this empties the link registers of other dies' cores that face a core of this one (R325). -/
def execDieReset (die : Nat) (s : State) : Res :=
  .next (
    if 4 ≤ die then s
    else
      let here (a : Agent) : Bool := a.die == some die
      let s0 : State := { s with net := s.net.filter (fun m => !here m.src && !here m.dst), heldUpcalls := s.heldUpcalls.filter (fun h => dieOf h.core ≠ die)
                                 crects := s.crects.filter (fun e => e.1 / 64 ≠ die), suproots := kdel s.suproots die }
      let s1 := (dieCores die).foldl (fun s k => (s.setCore k (Core.reset k)).setStat k { CoreStat.reset with cyc0 := s.now, temp := (s.stat k).temp }) s0
      let s2 := (dieClusters die).foldl (fun s c => s.setClus c Cluster.reset) s1
      let s3 := (dieCores die).foldl (fun s k => s.emptyFacing k (fun n => dieOf n ≠ die)) s2
      -- the groups of the territories that had cores here lose their members (R280)
      let s4 := ((dieClusters die).filterMap (fun c => (s.clus c).owner)).eraseDups.foldl State.fireGroups s3
      (dieSlices die).foldl State.resetSlice s4)

/-! ### The supervisor image (R328) -/

/-- Places one section on a core (steps 1 to 4 of Table 4.7). A descriptor is written as the image has it, without the checks that R178 gives TDSET and
the loader (DESIGN CHOICE, log entry 100). -/
def Core.placeSection (c : Core) : ImageSection → Core
  | .bank a bs => c.lwrite a bs
  | .istore a bs => c.istoreWrite a bs
  | .tdesc k bound d => if k < 32 then c.setTd k ((TDesc.put d 253 1 (ofBool bound)).withSt (if bound then 1 else 2)) else c
  | .mailbox a d => c.lwrite a (leBytes 64 d.toNat)

/-- An entry that the boot firmware accepts. -/
def entryOk (e : Nat) : Bool := e % 4 == 0 && e < 0x8000

/-- SUPERVISOR_IMAGE_PLACE (R328): the image is placed on the die's supervisor core and its context 0 starts at level S; an image with a bad
entry is refused and reported. It comes after the loading of the keys (R359). -/
def execSupervisorImagePlace (die : Nat) (img : SupervisorImage) (s : State) : Res :=
  .next (
    let k := supOf die
    if 4 ≤ die || s.io.bring < 2 || (s.core k).live 0 then s
    else if !entryOk img.entry then { s with io := { s.io with bootErrors := nput s.io.bootErrors die } }
    else
      let c := img.sections.foldl Core.placeSection (s.core k)
      (s.setCore k (c.setCtx 0 { Ctx.start img.entry .s .running with burnAt := s.now })).setStat k { s.stat k with begun := true })

/-! ### Bring-up (R359, R377) -/

/-- Steps 3 and 4 of Table 20.13 are complete: each die's supervisor is placed, or its image was refused, and the slices of each started die
are configured and locked. -/
def State.diesUp (s : State) : Bool :=
  (List.range 4).all (fun d => s.io.bootErrors.contains d || ((s.core (supOf d)).live 0 && (dieSlices d).all (fun h => (s.slice h).lock)))

/-- MODULE_BRINGUP (R359): a measured boot stage, the loading of the keys, or the free pool. Each comes in its order: a step that is out of it
does not take place. -/
def execModuleBringup (stage : BringUp) (s : State) : Res :=
  .next (
    match stage with
    | .measured k digest =>
      if 1 < s.io.bring then s
      else { s with io := { s.io with bring := 1, meas := Vector.ofFn (fun i =>
          if i.val = k then Config.sha384 (leBytes 48 s.io.meas[i].toNat ++ leBytes 48 digest.toNat) else s.io.meas[i]) } }
    | .keys => if s.io.bring = 1 then { s with io := { s.io with keysLoaded := true, bring := 2 } } else s
    | .pool =>
      if s.io.bring ≠ 2 || !s.diesUp then s
      else { s with io := { s.io with bring := 5 }, pcfg := 0x0000_0640_320A_0040#64, clusters := s.clusters.map (fun e => (e.1, { e.2 with owner := some 0 })) })

/-! ### Soft errors (Table 17.9) -/

/-- Kind 3, possibly lost write, of a stash: to the supervisor and into the ring of the core's territory (R149, R318). -/
def State.lostWrite (s : State) (k : Nat) : State :=
  let t := s.terrOf k
  let s1 := s.report k 0 0 uncorrectable.toNat 3 0 0 0
  if t = 0 then s1 else s1.faultRing t (leBytes 64 0) (faultBytes (s.timeFor t) 1 t 0 uncorrectable.toNat 3 0 k 0 0)

/-- An uncorrectable tag (R318): the readable dirty lines of its set are written back, all of its lines go, and the failing way's data is lost. -/
def State.tagError (s : State) (h set w : Nat) : State :=
  let bad := (s.slice h).wayAt set w
  let s1 : State :=
    match bad with
    | some y => s.behind y
    | none => s
  let s2 := (List.range 16).foldl (fun s v => if v = w then s else s.evict h set v) (s1.setSlice h { s1.slice h with ways := kdel (s1.slice h).ways (16 * set + w) })
  let extra := match bad with | some y => nput (s2.slice h).occExtra y.owner | none => (s2.slice h).occExtra
  let s3 := s2.setSlice h { s2.slice h with occExtra := extra, uncorr := (s2.slice h).uncorr + 1 }
  s3.sliceReport h 0 3 uncorrectable.toNat 0 0 (((List.range 256).drop 1).filter (fun t => s3.tlive t && ((s3.slice h).mask t).getLsbD w))

/-- The words of a message under way arrive poisoned. -/
def Body.poisoned : Body → Body
  | .push u i a bs _ bar => .push u i a bs (wordsOf a bs.length) bar
  | .packet u h ws _ n => .packet u h ws true n
  | .post u x r v _ => .post u x r v true
  | .mail u wf h b _ => .mail u wf h b true
  | .data r bs _ => .data r bs (wordsOf r.pa bs.length)
  | .req r => match r.op with
    | .write cs _ => .req { r with op := .write cs ((cs.map (fun c => c.1 / 8)).foldl nput []) }
    | _ => .req r
  | b => b

def State.onCtx (s : State) (k x : Nat) (f : Ctx → Ctx) : State := if (s.core k).live x then s.setCtx k x (f (s.ctx k x)) else s

/-- SOFT_ERROR (R317): what an error that cannot be corrected leaves, array by array; and a correctable word of a core's banks, of a slice or
of GDDR7. -/
def execSoftError (site : SoftError) (s : State) : Res :=
  .next (
    match site with
    | .bank k a => if a < 0x60000 then s.setCore k ((s.core k).poison [a / 8]) else s
    | .coreWord k a => if a < 0x60000 && !s.disabled.contains k then s.setCore k { s.core k with weak := nput (s.core k).weak (a / 8) } else s
    | .istore k a => if a < 0x8000 then s.setCore k { s.core k with ibad := nput (s.core k).ibad (a / 4) } else s
    | .sstore c i => if i < 16384 then s.setClus c { s.clus c with sbad := nput (s.clus c).sbad i } else s
    | .reg k x r => s.onCtx k x fun c => if r = 0 then c else { c with bad := c.bad ||| (1#32 <<< r.toNat) }
    | .qw k x p => s.onCtx k x fun c =>
        { c with qw := (List.range c.qw.length).zipWith (fun i e => if i = p then { e with val := e.val.map (fun v => (v.1, true)) } else e) c.qw }
    | .qs k x p => s.onCtx k x fun c => if p < c.qs.length then { c with qsBad := c.qsBad ||| (1#8 <<< p) } else c
    | .mask k x m => s.onCtx k x fun c => if m = 0 then c else { c with mbad := c.mbad ||| (1#8 <<< m.toNat) }
    | .acc k a1 r c v =>
      let y := (s.core k).slice
      if 32 ≤ r ∨ 128 ≤ c then s
      else s.setCore k { s.core k with slice := if a1 then { y with a1 := hput y.a1 (128 * r + c) v.toNat } else { y with a0 := hput y.a0 (128 * r + c) v.toNat } }
    | .checksum k a1 r v =>
      let y := (s.core k).slice
      if 32 ≤ r then s
      else s.setCore k { s.core k with slice := if a1 then { y with cs1 := hput y.cs1 r v.toNat } else { y with cs0 := hput y.cs0 r v.toNat } }
    | .latch k => s.setCore k { s.core k with slice := { (s.core k).slice with latchBad := true } }
    | .stashTag k set w =>
      match kget (s.core k).lines (8 * set + w) with
      | none => s
      | some _ => (s.setCore k { s.core k with lines := kdel (s.core k).lines (8 * set + w) }).lostWrite k
    | .tlb c p => s.setClus c { s.clus c with tlb := (List.range (s.clus c).tlb.length).zipWith (fun i e => if i = p then { e with bad := true } else e) (s.clus c).tlb }
    | .control k => if s.disabled.contains k then s else s.kill (s.killUnit k)
    | .header k => s.kill (s.killUnit k)
    | .flit k =>
      match s.net[k]? with
      | some m => { s with net := s.net.set k { m with body := m.body.poisoned } }
      | none => s
    | .data pa =>
      if !(isGddr pa || isBase pa) || s.noStorage pa then s
      else
        let h := homeOf pa
        { s.setSlice h { s.slice h with uncorr := (s.slice h).uncorr + 1 } with gbad := nput s.gbad (pa / 8) }
    | .sliceTag h set w => if w < (s.slice h).c then s.tagError h set w else s
    | .corrected pa =>
      if !(isGddr pa || isBase pa) || s.noStorage pa then s
      else s.setSlice (homeOf pa) { s.slice (homeOf pa) with weak := nput (s.slice (homeOf pa)).weak (pa / 8) })

end Sys2Proof.Machine
end

