-- ==== Sys2Proof/Machine/Branch.lean ====
section
/-! DEFINITION. Branches, jumps, calls and returns (R110 to R114). In a stream the head acts on JMP and on BR over g0; the cores take
them as no-ops, and every other transfer traps (R114). -/

namespace Sys2Proof.Machine

/-- In streamed mode a word that the head acted on is a no-op, unless its target leaves the indices 0 to 16,383 (R114). -/
def streamedHop (taken : Bool) (off : Int) (s : State) : State :=
  let target : Word := wrapI (s.cx.pc + off)
  if taken && 16383 < target.toNat then s.trap localBounds target else s.finish

/-- A conditional branch on a value (R110). -/
def brWord (i : Instr) (f : Cond) (a : Reg) (o : BitVec 18) (s : State) : State :=
  s.issue i .u fun s =>
    if s.cx.streamed && a == 0 then streamedHop (f.holds 0) o.toInt s
    else s.withLocalRegs i [a] fun s =>
      if f.holds (s.cx.reg a) then
        let t := relTarget s.cx.pc o.toInt
        s.transfer t fun s => s.jump t.toNat
      else s.finish

/-- BFULL and BEMPTY (R111): the full bit alone is tested, and nothing parks. g0 tests full. -/
def brFullWord (i : Instr) (want : Bool) (a : Reg) (o : BitVec 18) (s : State) : State :=
  s.issue i .u fun s =>
    if s.cx.streamed then
      if a = 0 then streamedHop want o.toInt s else s.trap illegalOp (wordOf i)
    else if s.cx.isFull a = want then
      let t := relTarget s.cx.pc o.toInt
      s.transfer t fun s => s.jump t.toNat
    else s.finish

/-- BEQZ (R110). -/
def execBeqz (a : Reg) (o : BitVec 18) (s : State) : Res := .next (brWord (.beqz a o) .eqz a o s)
/-- BNEZ (R110). -/
def execBnez (a : Reg) (o : BitVec 18) (s : State) : Res := .next (brWord (.bnez a o) .nez a o s)
/-- BLTZ (R110). -/
def execBltz (a : Reg) (o : BitVec 18) (s : State) : Res := .next (brWord (.bltz a o) .ltz a o s)
/-- BGEZ (R110). -/
def execBgez (a : Reg) (o : BitVec 18) (s : State) : Res := .next (brWord (.bgez a o) .gez a o s)
/-- BGTZ (R110). -/
def execBgtz (a : Reg) (o : BitVec 18) (s : State) : Res := .next (brWord (.bgtz a o) .gtz a o s)
/-- BLEZ (R110). -/
def execBlez (a : Reg) (o : BitVec 18) (s : State) : Res := .next (brWord (.blez a o) .lez a o s)
/-- BFULL (R111). -/
def execBfull (a : Reg) (o : BitVec 18) (s : State) : Res := .next (brFullWord (.bfull a o) true a o s)
/-- BEMPTY (R111). -/
def execBempty (a : Reg) (o : BitVec 18) (s : State) : Res := .next (brFullWord (.bempty a o) false a o s)

/-- JMP (R112, R114). -/
def execJmp (o : BitVec 26) (s : State) : Res :=
  .next (s.issue (.jmp o) .u fun s =>
    if s.cx.streamed then streamedHop true o.toInt s
    else
      let t := relTarget s.cx.pc o.toInt
      s.transfer t fun s => s.jump t.toNat)

/-- g31 takes the address after the word (R112). -/
def linked (s : State) : State := s.setCx (s.cx.setReg 31 (word (s.cx.pc + 4)))

/-- CALL (R112). -/
def execCall (o : BitVec 26) (s : State) : Res :=
  .next (s.issue (.call o) .u fun s => s.notStreamed (.call o) fun s =>
    let t := relTarget s.cx.pc o.toInt
    s.transfer t fun s => (linked s).jump t.toNat)

/-- JR (R113). -/
def execJr (a : Reg) (w : Bool) (s : State) : Res :=
  .next (s.issue (.jr a w) .u fun s => s.withLocalRegs (.jr a w) [a] fun s =>
    let t := s.cx.reg a
    s.transfer t fun s => (s.take w a).jump t.toNat)

/-- CALLR (R113): the old value of ra is the target, even when ra is g31. -/
def execCallr (a : Reg) (w : Bool) (s : State) : Res :=
  .next (s.issue (.callr a w) .u fun s => s.withLocalRegs (.callr a w) [a] fun s =>
    let t := s.cx.reg a
    s.transfer t fun s => (linked (s.take w a)).jump t.toNat)

/-- RET (R113). -/
def execRet (s : State) : Res :=
  .next (s.issue .ret .u fun s => s.withLocalRegs .ret [31] fun s =>
    let t := s.cx.reg 31
    s.transfer t fun s => s.jump t.toNat)

end Sys2Proof.Machine
end

