-- ==== Sys2Proof/Machine/GaussianWords.lean ====
section
/-! DEFINITION. The Gaussian words (R203 to R211): each issues its command (R173). -/

namespace Sys2Proof.Machine

/-- GACC (R205). -/
def execGacc (d : BitVec 3) (a : BitVec 3) (b : BitVec 3) (n : BitVec 6) (t : BitVec 3) (u : BitVec 3) (s : State) : Res := .next (wideIssue (.gacc d a b n t u) false s)
/-- GSUB (R205). -/
def execGsub (d : BitVec 3) (a : BitVec 3) (b : BitVec 3) (n : BitVec 6) (t : BitVec 3) (u : BitVec 3) (s : State) : Res := .next (wideIssue (.gsub d a b n t u) false s)
/-- GELIM (R207). -/
def execGelim (d : BitVec 3) (a : BitVec 3) (k : BitVec 3) (e : BitVec 3) (t : BitVec 3) (u : BitVec 3) (s : State) : Res := .next (wideIssue (.gelim d a k e t u) false s)
/-- GDAMP (R205). -/
def execGdamp (d : BitVec 3) (a : BitVec 3) (b : BitVec 3) (n : BitVec 6) (t : BitVec 3) (u : BitVec 3) (s : State) : Res := .next (wideIssue (.gdamp d a b n t u) false s)
/-- GMEAN (R208). -/
def execGmean (d : BitVec 3) (a : BitVec 3) (n : BitVec 6) (t : BitVec 3) (u : BitVec 3) (s : State) : Res := .next (wideIssue (.gmean d a n t u) false s)
/-- GRESID (R206). -/
def execGresid (a : BitVec 3) (b : BitVec 3) (n : BitVec 6) (t : BitVec 3) (u : BitVec 3) (s : State) : Res := .next (wideIssue (.gresid a b n t u) false s)
/-- GREG (R205). -/
def execGreg (d : BitVec 3) (a : BitVec 3) (n : BitVec 6) (t : BitVec 3) (u : BitVec 3) (s : State) : Res := .next (wideIssue (.greg d a n t u) false s)
/-- GSEND (R211). -/
def execGsend (a : BitVec 3) (n : BitVec 6) (t : BitVec 3) (u : BitVec 3) (s : State) : Res := .next (wideIssue (.gsend a n t u) false s)
/-- GCOPY (R205). -/
def execGcopy (d : BitVec 3) (a : BitVec 3) (n : BitVec 6) (t : BitVec 3) (u : BitVec 3) (s : State) : Res := .next (wideIssue (.gcopy d a n t u) false s)

end Sys2Proof.Machine
end

