-- ==== Sys2Proof/Machine/Hint.lean ====
section
/-! DEFINITION. The hint words (R45 to R49): each records its payload in the latch and has no other effect. -/

namespace Sys2Proof.Machine

/-- A hint word completes: its payload is in the latch, which is not consumed (R45). A REP target never is one. -/
def State.hintDone (s : State) (l : Latch) : State :=
  let c := s.cx
  let c1 : Ctx := { c.setRun s.now .running with latch := l, acc := none, waited := false }
  if c.streamed then
    let m := s.me
    let m1 := { m with stream := { m.stream with buf := m.stream.buf.drop 1 } }
    (s.setMe m1).setCx { c1 with pc := m1.nextIdx }
  else s.setCx { c1 with pc := c.pc + 4, ahead := c.aheadOf (c.pc + 4) }

/-- HIMM (R46): the first gives bits [37:12], the second bits [63:38], a third is refused. -/
def execHimm (p : BitVec 26) (s : State) : Res :=
  let l := s.cx.latch
  .next (if l.imx = 0 then s.hintDone { l with imx := 1, mid := p }
    else if l.imx = 1 then s.hintDone { l with imx := 2, hi := p }
    else s.trap illegalOp (wordOf (.himm p)))

/-- HWAIT (R47, Table 2.15). A later one replaces the first (R45). -/
def execHwait (i n : Bool) (m : BitVec 8) (s : State) : Res :=
  .next (s.hintDone { s.cx.latch with wait := some (BitVec.ofBool i ++ BitVec.ofBool n ++ m) })

/-- HCACHE (R48, Table 2.16). -/
def execHcache (p sl st : BitVec 2) (s : State) : Res :=
  .next (if (Instr.hcache p sl st).wf then s.hintDone { s.cx.latch with cache := some (p ++ sl ++ st) }
    else s.trap illegalOp (wordOf (.hcache p sl st)))

/-- HSCHED (R49, Table 2.17). -/
def execHsched (y : Bool) (w : BitVec 3) (s : State) : Res :=
  .next (s.hintDone { s.cx.latch with sched := some (BitVec.ofBool y ++ w) })

/-- A word that is no instruction traps ILLEGAL_OP (R37, R41, R44, R45, R56). In a repetition whose Form Z immediate outgrew its field,
EVAL of MFS and MTS holds the stepped number (R53, R116). -/
def execIllegalWord (w : BitVec 32) (s : State) : Res :=
  .next (
    match s.cx.rep with
    | some r =>
      if r.word.toNat / 67108864 = 15 ∧ r.smask.getLsbD 0 then
        s.trap illegalOp (word (r.word.toNat % 2048 + r.step * r.i))
      else s.trap illegalOp (trapVal (.illegalWord w))
    | none => s.trap illegalOp (trapVal (.illegalWord w)))

end Sys2Proof.Machine
end

