-- ==== Sys2Proof/Machine/MatrixWords.lean ====
section
/-! DEFINITION. The matrix words (R254 to R259): each issues its command (R173). -/

namespace Sys2Proof.Machine

/-- MMA (R254). -/
def execMma (a : BitVec 5) (p : Bool) (x : Bool) (g : Bool) (c : BitVec 5) (t : BitVec 3) (u : BitVec 3) (s : State) : Res := .next (wideIssue (.mma a p x g c t u) false s)
/-- MMAG (R254). -/
def execMmag (a : BitVec 5) (p : Bool) (x : Bool) (g : Bool) (c : BitVec 5) (t : BitVec 3) (u : BitVec 3) (s : State) : Res := .next (wideIssue (.mmag a p x g c t u) false s)
/-- MZERO (R255). -/
def execMzero (x : Bool) (t : BitVec 3) (u : BitVec 3) (s : State) : Res := .next (wideIssue (.mzero x t u) false s)
/-- MDRAIN (R257). -/
def execMdrain (a : BitVec 5) (x : Bool) (c : BitVec 5) (t : BitVec 3) (u : BitVec 3) (s : State) : Res := .next (wideIssue (.mdrain a x c t u) false s)
/-- MLDB (R255). -/
def execMldb (a : BitVec 5) (t : BitVec 3) (u : BitVec 3) (s : State) : Res := .next (wideIssue (.mldb a t u) false s)
/-- MPROG (R259). -/
def execMprog (i : Bool) (c : BitVec 5) (t : BitVec 3) (u : BitVec 3) (s : State) : Res := .next (wideIssue (.mprog i c t u) false s)
/-- MCHK (R258). -/
def execMchk (x : Bool) (t : BitVec 3) (u : BitVec 3) (s : State) : Res := .next (wideIssue (.mchk x t u) false s)

end Sys2Proof.Machine
end

