-- ==== Sys2Proof/Machine/PushWords.lean ====
section
/-! DEFINITION. The push words (R189 to R191): each issues its command (R173). -/

namespace Sys2Proof.Machine

/-- PUSH (R191). -/
def execPush (a : BitVec 5) (m : Bool) (g : BitVec 5) (t : BitVec 3) (c : BitVec 3) (s : State) : Res := .next (wideIssue (.push a m g t c) false s)
/-- PUSHG (R191). -/
def execPushg (a : BitVec 5) (m : Bool) (g : BitVec 5) (t : BitVec 3) (c : BitVec 3) (s : State) : Res := .next (wideIssue (.pushg a m g t c) false s)
/-- PUSHS (R191). -/
def execPushs (a : BitVec 5) (m : Bool) (g : BitVec 5) (t : BitVec 3) (c : BitVec 3) (s : State) : Res := .next (wideIssue (.pushs a m g t c) false s)
/-- PUSHL (R191). -/
def execPushl (a : BitVec 5) (m : Bool) (g : BitVec 5) (t : BitVec 3) (c : BitVec 3) (s : State) : Res := .next (wideIssue (.pushl a m g t c) false s)

end Sys2Proof.Machine
end

