-- ==== Sys2Proof/Machine/Queue.lean ====
section
/-! DEFINITION. The pointer words (R168) and QPUSH, QPOP and QCNT (R176). -/

namespace Sys2Proof.Machine

/-- The pointer that a 5-bit field names. -/
def ptrOf (r : Reg) : Ptr := r.truncate 3

/-- PSET (Table 8.8). -/
def execPset (d a b : Reg) (w : Bool) (s : State) : Res :=
  let i : Instr := .pset d a b w
  .next (s.issue i .u fun s => s.withRegs i [a, b] fun s =>
    let c := s.cx
    ((s.setCx (c.setPtr (ptrOf d) ⟨(c.reg a).truncate 20, (c.reg b).truncate 16⟩)).take w a).finish)

/-- PGET (Table 8.8). -/
def execPget (d a : Reg) (s : State) : Res :=
  let i : Instr := .pget d a
  .next (s.issue i .u fun s =>
    let p := s.cx.ptr (ptrOf a)
    s.done d ((p.step ++ p.addr : BitVec 36).zeroExtend 64))

/-- PADD (Table 8.8). -/
def execPadd (d a : Reg) (w : Bool) (s : State) : Res :=
  let i : Instr := .padd d a w
  .next (s.issue i .u fun s => s.withRegs i [a] fun s =>
    let c := s.cx
    let p := c.ptr (ptrOf d)
    ((s.setCx (c.setPtr (ptrOf d) { p with addr := p.addr + (c.reg a).truncate 20 })).take w a).finish)

/-- PSTEP (Table 8.8). -/
def execPstep (d a : Reg) (w : Bool) (s : State) : Res :=
  let i : Instr := .pstep d a w
  .next (s.issue i .u fun s => s.withRegs i [a] fun s =>
    let c := s.cx
    ((s.setCx (c.setPtr (ptrOf d) { c.ptr (ptrOf d) with step := (c.reg a).truncate 16 })).take w a).finish)

/-- QPUSH (R176). -/
def execQpush (a : Reg) (w : Bool) (s : State) : Res :=
  let i : Instr := .qpush a w
  .next (s.issue i .u fun s => s.withRegs i [a] fun s =>
    let c := s.cx
    if 8 ≤ c.qs.length then s.park .queue
    else ((s.setCx { c with qs := c.qs ++ [c.reg a] }).take w a).finish)

/-- Commands of a context that owe a QW entry: queued, or started and not yet delivered (R176). -/
def Core.owed (c : Core) (x : Nat) : Nat := ((c.cmdsOf x).filter (fun q => qwGives q.instr)).length

/-- A running sequencer of the context still has a command to place that delivers an entry; its repetitions count as issued at RPBGO (R197). -/
def Core.seqOwes (c : Core) (x : Nat) : Bool :=
  c.seq.running && c.seq.owner == some x && c.seq.words.any (fun w => match decode w with | some i => qwGives i | none => false)

/-- QPOP (R176). -/
def execQpop (d : Reg) (s : State) : Res :=
  let i : Instr := .qpop d
  .next (s.issue i .u fun s =>
    let c := s.cx
    match c.qw with
    | [] => if s.me.owed s.cur.2 = 0 ∧ !s.me.seqOwes s.cur.2 then s.trap illegalOp (wordOf i) else s.park .queue
    | e :: r =>
      match e.val with
      | none => s.park .queue
      | some (v, bad) =>
        let popped (s : State) : State := s.setCx { s.cx with qw := r }
        if bad then s.trapWith popped uncorrectable 0 else (popped s).done d v)

/-- QCNT (R176). The commands that a running sequencer has still to place do not count among the owed here, though QPOP waits for them (DESIGN CHOICE, log
entry 34). -/
def execQcnt (d : Reg) (s : State) : Res :=
  let i : Instr := .qcnt d
  .next (s.issue i .u fun s =>
    let c := s.cx
    let held := (c.qw.filter (fun e => e.val.isSome)).length
    s.done d (word (8 - c.qs.length + 16 * held + 256 * min 15 (s.me.owed s.cur.2))))

end Sys2Proof.Machine
end

