-- ==== Sys2Proof/Machine/Rpb.lean ====
section
/-! DEFINITION. RPBLD, RPBGO, RPBSTOP (R196) and SEQUENCER_PLACE (R197, R198). -/

namespace Sys2Proof.Machine

/-- The majors that a captured word may have (R196). -/
def capturable (w : BitVec 32) : Bool :=
  let m := w.toNat / 67108864
  (0x10 ≤ m && m ≤ 0x13) || m == 0x1A || m == 0x22 || m == 0x23 || (0x31 ≤ m && m ≤ 0x33)

/-- Fetches `n` words from `a` in order (R34), then goes on with them. -/
def State.fetchMany (s : State) : Nat → Nat → List (BitVec 32) → (List (BitVec 32) → State → State) → State
  | 0, _, ws, k => k ws.reverse s
  | n + 1, a, ws, k => s.fetchAt a fun w s => s.fetchMany n (a + 4) (w :: ws) k

/-- RPBLD (R196). -/
def execRpbld (n : BitVec 5) (s : State) : Res :=
  let i : Instr := .rpbld n
  .next (s.issue i .u fun s => s.seqFailure fun s => s.notStreamed i fun s =>
    if s.me.seq.running then s.park .sequencer
    else
      let pc := s.cx.pc
      s.fetchMany n.toNat (pc + 4) [] fun ws s =>
        match ws.find? (fun w => !capturable w) with
        | some w => s.trap illegalOp (word w.toNat)
        | none =>
          let c := s.me.lwrite 0x1E400 (ws.flatMap (fun w => leBytes 4 w.toNat))
          (s.setMe { c with seq := { c.seq with words := ws, owner := some s.cur.2 } }).jump (pc + 4 + 4 * n.toNat))

/-- RPBGO (R196). The owner is a context number: a context that ended and was started afresh under it owns the buffer as before (DESIGN CHOICE, log
entry 101). -/
def execRpbgo (a : Reg) (xs : BitVec 5) (p : BitVec 3) (s : State) : Res :=
  let i : Instr := .rpbgo a xs p
  .next (s.issue i .u fun s => s.withLocalRegs i [a] fun s => s.seqFailure fun s =>
    let q := s.me.seq
    if q.owner ≠ some s.cur.2 then s.trap illegalOp (wordOf i)
    else if q.running then s.park .sequencer
    else
      let n := (s.cx.reg a).toNat
      let q1 : Sequencer :=
        { q with running := n ≠ 0, count := n, rep := 0, idx := 0, st := xs.toNat, sp := p.toNat, ptrs := s.cx.p.toList, done := 0
                 latch := Latch.empty, stop := false, base := s.uid }
      ({ s.setMe { s.me with seq := q1 } with uid := s.uid + n * q.words.length }).finish)

/-- RPBSTOP (R196). -/
def execRpbstop (d : Reg) (s : State) : Res :=
  let i : Instr := .rpbstop d
  .next (s.issue i .u fun s => s.seqFailure fun s => s.notStreamed i fun s =>
    let q := s.me.seq
    if q.running then (s.setMe { s.me with seq := { q with stop := true } }).park .sequencer else s.done d (word q.done))

/-- A captured word that fails ends the run (R198, Table 9.20). -/
def Sequencer.fail (q : Sequencer) (cause : BitVec 8) : Sequencer :=
  { q with running := false, stat := BitVec.ofNat 64 (q.rep % 2 ^ 32 * 2 ^ 32 + 2 ^ 12 + q.idx * 256 + cause.toNat) }

/-- A command joins its engine's queue in its context's program order. -/
def Engine.insert (e : Engine) (q : Cmd) : Engine :=
  { e with queue := e.queue.takeWhile (fun p => !(p.ctx == q.ctx && q.uid < p.uid)) ++ [q]
                      ++ e.queue.dropWhile (fun p => !(p.ctx == q.ctx && q.uid < p.uid)) }

/-- SEQUENCER_PLACE (R197): one captured word of the present repetition goes to its engine's queue, or its hint to the word that follows. It
waits while its context is to stop, and, as a context would, on a full queue, a descriptor that is not ready and a token at 255. What depends on
its register operands, which it takes when it starts (R175), is checked then (`State.lateFault`). -/
def execSequencerPlace (core : Nat) (s : State) : Res :=
  let c := s.core core
  let q := c.seq
  .next (
    match q.owner with
    | none => s
    | some x =>
      let h := c.wctx x
      if !s.works core || !q.running || h.run == .stopped .saved || h.run == .stopped .killed || (c.live x && (h.halting || h.yielding)) then s
      else
        let put (q1 : Sequencer) (s : State) : State := s.setCore core { s.core core with seq := q1 }
        let cmd := c.seqCmd q x
        if touchesBad c.lbad (0x1E400 + 4 * q.idx) 4 then put (q.fail uncorrectable) s
        else if !cmd.instr.wf then put (q.fail illegalOp) s
        else
          match cmd.instr with
          | .hwait i n m => put ({ q with latch := { q.latch with wait := some (BitVec.ofBool i ++ BitVec.ofBool n ++ m) } }.next) s
          | .hcache p a b => put ({ q with latch := { q.latch with cache := some (p ++ a ++ b) } }.next) s
          | .hsched y w => put ({ q with latch := { q.latch with sched := some (BitVec.ofBool y ++ w) } }.next) s
          | i =>
            let sel := match q.latch.wait with | some p => tokensOf (p.toNat % 256) | none => []
            let any := match q.latch.wait with | some p => p.getLsbD 8 | none => false
            if !h.tokensDone any sel then s
            else if (h.faultedTok sel).isSome then put (q.fail asyncFault) s
            else
              match s.cmdCheck core h.level cmd.ptr [] i with
              | .trap cause _ => put (q.fail cause) s
              | .wait _ => s
              | .ok =>
                let room := (((c.eng (engOf i)).queue.filter (fun p => p.ctx == x && p.uid < cmd.uid)).length)
                if (engOf i).room ≤ room then s
                else if (match tokOf i with | some t => decide (255 ≤ (h.tok t).count + c.reserved x t) | none => false) then s
                else
                  let cmd1 : Cmd := { cmd with level := h.level, gthr := h.spr.gthr
                                               prio := (q.latch.sched.getD 0).toNat % 8, cache := q.latch.cache.getD 0 }
                  let c1 := c.markDrain i
                  let c2 := c1.setEng (engOf i) ((c1.eng (engOf i)).insert cmd1)
                  let h1 := match tokOf i with | some t => h.setTok t (h.tok t).arm | none => h
                  let c3 := c2.setWctx x h1
                  let q1 := if incOf i then { q with ptrs := (advanced q.ptrVec (ptrUses i)).toList } else q
                  put { q1.next with latch := Latch.empty } (s.setCore core c3))

end Sys2Proof.Machine
end

