-- ==== Sys2Proof/Machine/Sys.lean ====
section
/-! DEFINITION. TRAP, ERET, HALT and ISYNC (R121 to R124, R147). -/

namespace Sys2Proof.Machine

/-- TRAP (R122): its effect is the trap entry, with its code in EVAL. -/
def execTrap (i : BitVec 11) (s : State) : Res :=
  .next (s.issue (.trap i) .u fun s => s.trap userTrap (i.zeroExtend 64))

/-- ERET (R123). A bad EPC faults the context, since the check is made inside the handler. -/
def execEret (s : State) : Res :=
  .next (s.issue .eret .u fun s =>
    let c := s.cx
    if !c.spr.inh || c.spr.upc then s.trap illegalOp (wordOf .eret)
    else s.afterLoad fun s => if c.spr.str then s.trapReturn else s.transfer c.spr.epc fun s => s.trapReturn)

/-- HALT (R124): once the context's stores, pushes and wide-side commands have completed, it stops at the address after the word. -/
def execHalt (s : State) : Res :=
  .next (s.issue .halt .s fun s =>
    if s.scalarBusy then s.park .memory
    else if s.me.pending s.cur.2 then s.park .wide
    else
      let s1 := s.finish
      s1.setCx (s1.cx.setRun s1.now (.stopped .halted)))

/-- ISYNC (R147): once the context's earlier scalar accesses have taken effect, every later fetch of it reads the instruction store as it
then stands. -/
def execIsync (s : State) : Res :=
  .next (s.issue .isync .u fun s => s.notStreamed .isync fun s => s.settled fun s => (s.setCx { s.cx with ahead := [] }).finish)

end Sys2Proof.Machine
end

