-- ==== Sys2Proof/Machine/VectorWords.lean ====
section
/-! DEFINITION. The vector and mask words (R152 to R168): each issues its command (R173). -/

namespace Sys2Proof.Machine

/-- VADD (R157). -/
def execVadd (d : BitVec 3) (a : BitVec 3) (b : BitVec 3) (m : BitVec 3) (t : BitVec 4) (i : Bool) (z : Bool) (s : State) : Res := .next (wideIssue (.vadd d a b m t i z) false s)
/-- VSUB (R157). -/
def execVsub (d : BitVec 3) (a : BitVec 3) (b : BitVec 3) (m : BitVec 3) (t : BitVec 4) (i : Bool) (z : Bool) (s : State) : Res := .next (wideIssue (.vsub d a b m t i z) false s)
/-- VMUL (R157). -/
def execVmul (d : BitVec 3) (a : BitVec 3) (b : BitVec 3) (m : BitVec 3) (t : BitVec 4) (i : Bool) (z : Bool) (s : State) : Res := .next (wideIssue (.vmul d a b m t i z) false s)
/-- VFMA (R157). -/
def execVfma (d : BitVec 3) (a : BitVec 3) (b : BitVec 3) (m : BitVec 3) (t : BitVec 4) (i : Bool) (z : Bool) (s : State) : Res := .next (wideIssue (.vfma d a b m t i z) false s)
/-- VMIN (R157). -/
def execVmin (d : BitVec 3) (a : BitVec 3) (b : BitVec 3) (m : BitVec 3) (t : BitVec 4) (i : Bool) (z : Bool) (s : State) : Res := .next (wideIssue (.vmin d a b m t i z) false s)
/-- VMAX (R157). -/
def execVmax (d : BitVec 3) (a : BitVec 3) (b : BitVec 3) (m : BitVec 3) (t : BitVec 4) (i : Bool) (z : Bool) (s : State) : Res := .next (wideIssue (.vmax d a b m t i z) false s)
/-- VABS (R157). -/
def execVabs (d : BitVec 3) (a : BitVec 3) (m : BitVec 3) (t : BitVec 4) (i : Bool) (z : Bool) (s : State) : Res := .next (wideIssue (.vabs d a m t i z) false s)
/-- VNEG (R157). -/
def execVneg (d : BitVec 3) (a : BitVec 3) (m : BitVec 3) (t : BitVec 4) (i : Bool) (z : Bool) (s : State) : Res := .next (wideIssue (.vneg d a m t i z) false s)
/-- VAND (R156). -/
def execVand (d : BitVec 3) (a : BitVec 3) (b : BitVec 3) (m : BitVec 3) (t : BitVec 4) (i : Bool) (z : Bool) (s : State) : Res := .next (wideIssue (.vand d a b m t i z) false s)
/-- VOR (R156). -/
def execVor (d : BitVec 3) (a : BitVec 3) (b : BitVec 3) (m : BitVec 3) (t : BitVec 4) (i : Bool) (z : Bool) (s : State) : Res := .next (wideIssue (.vor d a b m t i z) false s)
/-- VXOR (R156). -/
def execVxor (d : BitVec 3) (a : BitVec 3) (b : BitVec 3) (m : BitVec 3) (t : BitVec 4) (i : Bool) (z : Bool) (s : State) : Res := .next (wideIssue (.vxor d a b m t i z) false s)
/-- VSHL (R156). -/
def execVshl (d : BitVec 3) (a : BitVec 3) (b : BitVec 3) (m : BitVec 3) (t : BitVec 4) (i : Bool) (z : Bool) (s : State) : Res := .next (wideIssue (.vshl d a b m t i z) false s)
/-- VSHR (R156). -/
def execVshr (d : BitVec 3) (a : BitVec 3) (b : BitVec 3) (m : BitVec 3) (t : BitVec 4) (i : Bool) (z : Bool) (s : State) : Res := .next (wideIssue (.vshr d a b m t i z) false s)
/-- VSRA (R156). -/
def execVsra (d : BitVec 3) (a : BitVec 3) (b : BitVec 3) (m : BitVec 3) (t : BitVec 4) (i : Bool) (z : Bool) (s : State) : Res := .next (wideIssue (.vsra d a b m t i z) false s)
/-- VCVT (R160). -/
def execVcvt (d : BitVec 3) (a : BitVec 3) (u : BitVec 3) (m : BitVec 3) (t : BitVec 4) (i : Bool) (z : Bool) (v : Bool) (xs : Bool) (s : State) : Res := .next (wideIssue (.vcvt d a u m t i z v xs) false s)
/-- VRCP (R25). -/
def execVrcp (d : BitVec 3) (a : BitVec 3) (m : BitVec 3) (t : BitVec 4) (i : Bool) (z : Bool) (s : State) : Res := .next (wideIssue (.vrcp d a m t i z) false s)
/-- VRSQ (R25). -/
def execVrsq (d : BitVec 3) (a : BitVec 3) (m : BitVec 3) (t : BitVec 4) (i : Bool) (z : Bool) (s : State) : Res := .next (wideIssue (.vrsq d a m t i z) false s)
/-- VEXP2 (R25). -/
def execVexp2 (d : BitVec 3) (a : BitVec 3) (m : BitVec 3) (t : BitVec 4) (i : Bool) (z : Bool) (s : State) : Res := .next (wideIssue (.vexp2 d a m t i z) false s)
/-- VLOG2 (R25). -/
def execVlog2 (d : BitVec 3) (a : BitVec 3) (m : BitVec 3) (t : BitVec 4) (i : Bool) (z : Bool) (s : State) : Res := .next (wideIssue (.vlog2 d a m t i z) false s)
/-- VSEL (R156). -/
def execVsel (d : BitVec 3) (a : BitVec 3) (b : BitVec 3) (m : BitVec 3) (t : BitVec 4) (i : Bool) (s : State) : Res := .next (wideIssue (.vsel d a b m t i) false s)
/-- VMOV (R156). -/
def execVmov (d : BitVec 3) (a : BitVec 3) (m : BitVec 3) (t : BitVec 4) (i : Bool) (z : Bool) (s : State) : Res := .next (wideIssue (.vmov d a m t i z) false s)
/-- VSPLAT (R161). -/
def execVsplat (d : BitVec 3) (m : BitVec 3) (t : BitVec 4) (i : Bool) (z : Bool) (s : State) : Res := .next (wideIssue (.vsplat d m t i z) false s)
/-- VCLAMP (R161). -/
def execVclamp (d : BitVec 3) (a : BitVec 3) (m : BitVec 3) (t : BitVec 4) (i : Bool) (z : Bool) (s : State) : Res := .next (wideIssue (.vclamp d a m t i z) false s)
/-- VADDS (R158). -/
def execVadds (d : BitVec 3) (a : BitVec 3) (b : BitVec 3) (m : BitVec 3) (t : BitVec 4) (i : Bool) (z : Bool) (s : State) : Res := .next (wideIssue (.vadds d a b m t i z) false s)
/-- VSUBS (R158). -/
def execVsubs (d : BitVec 3) (a : BitVec 3) (b : BitVec 3) (m : BitVec 3) (t : BitVec 4) (i : Bool) (z : Bool) (s : State) : Res := .next (wideIssue (.vsubs d a b m t i z) false s)
/-- VMULH (R156). -/
def execVmulh (d : BitVec 3) (a : BitVec 3) (b : BitVec 3) (m : BitVec 3) (t : BitVec 4) (i : Bool) (z : Bool) (s : State) : Res := .next (wideIssue (.vmulh d a b m t i z) false s)
/-- VCEQ (R162). -/
def execVceq (d : BitVec 3) (a : BitVec 3) (b : BitVec 3) (m : BitVec 3) (t : BitVec 4) (i : Bool) (z : Bool) (s : State) : Res := .next (wideIssue (.vceq d a b m t i z) false s)
/-- VCNE (R162). -/
def execVcne (d : BitVec 3) (a : BitVec 3) (b : BitVec 3) (m : BitVec 3) (t : BitVec 4) (i : Bool) (z : Bool) (s : State) : Res := .next (wideIssue (.vcne d a b m t i z) false s)
/-- VCLT (R162). -/
def execVclt (d : BitVec 3) (a : BitVec 3) (b : BitVec 3) (m : BitVec 3) (t : BitVec 4) (i : Bool) (z : Bool) (s : State) : Res := .next (wideIssue (.vclt d a b m t i z) false s)
/-- VCLE (R162). -/
def execVcle (d : BitVec 3) (a : BitVec 3) (b : BitVec 3) (m : BitVec 3) (t : BitVec 4) (i : Bool) (z : Bool) (s : State) : Res := .next (wideIssue (.vcle d a b m t i z) false s)
/-- VCGT (R162). -/
def execVcgt (d : BitVec 3) (a : BitVec 3) (b : BitVec 3) (m : BitVec 3) (t : BitVec 4) (i : Bool) (z : Bool) (s : State) : Res := .next (wideIssue (.vcgt d a b m t i z) false s)
/-- VCGE (R162). -/
def execVcge (d : BitVec 3) (a : BitVec 3) (b : BitVec 3) (m : BitVec 3) (t : BitVec 4) (i : Bool) (z : Bool) (s : State) : Res := .next (wideIssue (.vcge d a b m t i z) false s)
/-- VCUN (R162). -/
def execVcun (d : BitVec 3) (a : BitVec 3) (b : BitVec 3) (m : BitVec 3) (t : BitVec 4) (i : Bool) (z : Bool) (s : State) : Res := .next (wideIssue (.vcun d a b m t i z) false s)
/-- VRED (R163). -/
def execVred (a : BitVec 3) (m : BitVec 3) (t : BitVec 4) (i : Bool) (xs : BitVec 3) (s : State) : Res := .next (wideIssue (.vred a m t i xs) false s)
/-- VPERM (R164). -/
def execVperm (d : BitVec 3) (a : BitVec 3) (b : BitVec 3) (m : BitVec 3) (t : BitVec 4) (i : Bool) (z : Bool) (s : State) : Res := .next (wideIssue (.vperm d a b m t i z) false s)
/-- VGATH (R164). -/
def execVgath (d : BitVec 3) (a : BitVec 3) (b : BitVec 3) (m : BitVec 3) (t : BitVec 4) (i : Bool) (z : Bool) (s : State) : Res := .next (wideIssue (.vgath d a b m t i z) false s)
/-- VSCAT (R164). -/
def execVscat (d : BitVec 3) (a : BitVec 3) (b : BitVec 3) (m : BitVec 3) (t : BitVec 4) (i : Bool) (s : State) : Res := .next (wideIssue (.vscat d a b m t i) false s)
/-- VCOMP (R164). -/
def execVcomp (d : BitVec 3) (a : BitVec 3) (m : BitVec 3) (t : BitVec 4) (i : Bool) (z : Bool) (c : Bool) (s : State) : Res := .next (wideIssue (.vcomp d a m t i z c) false s)
/-- VPREF (R165). -/
def execVpref (xs : BitVec 3) (s : State) : Res := .next (wideIssue (.vpref xs) false s)
/-- MAND (R167). -/
def execMand (d : BitVec 5) (a : BitVec 5) (b : BitVec 5) (s : State) : Res := .next (wideIssue (.mand d a b) false s)
/-- MOR (R167). -/
def execMor (d : BitVec 5) (a : BitVec 5) (b : BitVec 5) (s : State) : Res := .next (wideIssue (.mor d a b) false s)
/-- MXOR (R167). -/
def execMxor (d : BitVec 5) (a : BitVec 5) (b : BitVec 5) (s : State) : Res := .next (wideIssue (.mxor d a b) false s)
/-- MNOT (R167). -/
def execMnot (d : BitVec 5) (a : BitVec 5) (s : State) : Res := .next (wideIssue (.mnot d a) false s)
/-- MPOP (R167). -/
def execMpop (a : BitVec 5) (s : State) : Res := .next (wideIssue (.mpop a) false s)
/-- MANY (R167). -/
def execMany (a : BitVec 5) (s : State) : Res := .next (wideIssue (.many a) false s)
/-- MALL (R167). -/
def execMall (a : BitVec 5) (s : State) : Res := .next (wideIssue (.mall a) false s)
/-- MSET (R167). -/
def execMset (d : BitVec 5) (a : BitVec 5) (w : Bool) (s : State) : Res := .next (wideIssue (.mset d a w) w s)
/-- MGET (R167). -/
def execMget (a : BitVec 5) (s : State) : Res := .next (wideIssue (.mget a) false s)

end Sys2Proof.Machine
end

