-- ==== Sys2Proof/Machine/Dispatch.lean ====
section
/-! DEFINITION. One arm per instruction: a direct call of its meaning. -/

namespace Sys2Proof.Machine

/-- What an instruction or a step does. -/
def exec (i : Instr) (s : State) : Host.Outcome State Fault Refusal :=
  match i with
  | .add d a b w => Sys2Proof.Machine.execAdd d a b w s
  | .sub d a b w => Sys2Proof.Machine.execSub d a b w s
  | .andR d a b w => Sys2Proof.Machine.execAndR d a b w s
  | .orR d a b w => Sys2Proof.Machine.execOrR d a b w s
  | .xorR d a b w => Sys2Proof.Machine.execXorR d a b w s
  | .shl d a b w => Sys2Proof.Machine.execShl d a b w s
  | .shr d a b w => Sys2Proof.Machine.execShr d a b w s
  | .sra d a b w => Sys2Proof.Machine.execSra d a b w s
  | .rotl d a b w => Sys2Proof.Machine.execRotl d a b w s
  | .mul d a b w => Sys2Proof.Machine.execMul d a b w s
  | .mulhs d a b w => Sys2Proof.Machine.execMulhs d a b w s
  | .mulhn d a b w => Sys2Proof.Machine.execMulhn d a b w s
  | .divs d a b w => Sys2Proof.Machine.execDivs d a b w s
  | .divn d a b w => Sys2Proof.Machine.execDivn d a b w s
  | .rems d a b w => Sys2Proof.Machine.execRems d a b w s
  | .remn d a b w => Sys2Proof.Machine.execRemn d a b w s
  | .mins d a b w => Sys2Proof.Machine.execMins d a b w s
  | .minn d a b w => Sys2Proof.Machine.execMinn d a b w s
  | .maxs d a b w => Sys2Proof.Machine.execMaxs d a b w s
  | .maxn d a b w => Sys2Proof.Machine.execMaxn d a b w s
  | .slts d a b w => Sys2Proof.Machine.execSlts d a b w s
  | .sltn d a b w => Sys2Proof.Machine.execSltn d a b w s
  | .seq d a b w => Sys2Proof.Machine.execSeq d a b w s
  | .clz d a w => Sys2Proof.Machine.execClz d a w s
  | .ctz d a w => Sys2Proof.Machine.execCtz d a w s
  | .popc d a w => Sys2Proof.Machine.execPopc d a w s
  | .sel d a b w c => Sys2Proof.Machine.execSel d a b w c s
  | .andn d a b w => Sys2Proof.Machine.execAndn d a b w s
  | .madd d a b w c => Sys2Proof.Machine.execMadd d a b w c s
  | .addi d a xi => Sys2Proof.Machine.execAddi d a xi s
  | .andi d a xi => Sys2Proof.Machine.execAndi d a xi s
  | .ori d a xi => Sys2Proof.Machine.execOri d a xi s
  | .xori d a xi => Sys2Proof.Machine.execXori d a xi s
  | .shli d a xi => Sys2Proof.Machine.execShli d a xi s
  | .shri d a xi => Sys2Proof.Machine.execShri d a xi s
  | .srai d a xi => Sys2Proof.Machine.execSrai d a xi s
  | .sltsi d a xi => Sys2Proof.Machine.execSltsi d a xi s
  | .sltni d a xi => Sys2Proof.Machine.execSltni d a xi s
  | .seqi d a xi => Sys2Proof.Machine.execSeqi d a xi s
  | .muli d a xi => Sys2Proof.Machine.execMuli d a xi s
  | .ldi d xi => Sys2Proof.Machine.execLdi d xi s
  | .beqz a o => Sys2Proof.Machine.execBeqz a o s
  | .bnez a o => Sys2Proof.Machine.execBnez a o s
  | .bltz a o => Sys2Proof.Machine.execBltz a o s
  | .bgez a o => Sys2Proof.Machine.execBgez a o s
  | .bgtz a o => Sys2Proof.Machine.execBgtz a o s
  | .blez a o => Sys2Proof.Machine.execBlez a o s
  | .bfull a o => Sys2Proof.Machine.execBfull a o s
  | .bempty a o => Sys2Proof.Machine.execBempty a o s
  | .jmp o => Sys2Proof.Machine.execJmp o s
  | .call o => Sys2Proof.Machine.execCall o s
  | .jr a w => Sys2Proof.Machine.execJr a w s
  | .callr a w => Sys2Proof.Machine.execCallr a w s
  | .ret => Sys2Proof.Machine.execRet s
  | .rep d a m xs => Sys2Proof.Machine.execRep d a m xs s
  | .rpbld n => Sys2Proof.Machine.execRpbld n s
  | .rpbgo a xs p => Sys2Proof.Machine.execRpbgo a xs p s
  | .rpbstop d => Sys2Proof.Machine.execRpbstop d s
  | .ld d b z x o f => Sys2Proof.Machine.execLd d b z x o f s
  | .st d b z o f => Sys2Proof.Machine.execSt d b z o f s
  | .ldg d b z x o f => Sys2Proof.Machine.execLdg d b z x o f s
  | .stg d b z o f => Sys2Proof.Machine.execStg d b z o f s
  | .aadd d a b z o => Sys2Proof.Machine.execAadd d a b z o s
  | .aswap d a b z o => Sys2Proof.Machine.execAswap d a b z o s
  | .acas d a b z o => Sys2Proof.Machine.execAcas d a b z o s
  | .amins d a b z o => Sys2Proof.Machine.execAmins d a b z o s
  | .amaxs d a b z o => Sys2Proof.Machine.execAmaxs d a b z o s
  | .aminn d a b z o => Sys2Proof.Machine.execAminn d a b z o s
  | .amaxn d a b z o => Sys2Proof.Machine.execAmaxn d a b z o s
  | .aand d a b z o => Sys2Proof.Machine.execAand d a b z o s
  | .aor d a b z o => Sys2Proof.Machine.execAor d a b z o s
  | .axor d a b z o => Sys2Proof.Machine.execAxor d a b z o s
  | .aaddg d a b z o xs => Sys2Proof.Machine.execAaddg d a b z o xs s
  | .aswapg d a b z o xs => Sys2Proof.Machine.execAswapg d a b z o xs s
  | .acasg d a b z o xs => Sys2Proof.Machine.execAcasg d a b z o xs s
  | .aminsg d a b z o xs => Sys2Proof.Machine.execAminsg d a b z o xs s
  | .amaxsg d a b z o xs => Sys2Proof.Machine.execAmaxsg d a b z o xs s
  | .aminng d a b z o xs => Sys2Proof.Machine.execAminng d a b z o xs s
  | .amaxng d a b z o xs => Sys2Proof.Machine.execAmaxng d a b z o xs s
  | .aandg d a b z o xs => Sys2Proof.Machine.execAandg d a b z o xs s
  | .aorg d a b z o xs => Sys2Proof.Machine.execAorg d a b z o xs s
  | .axorg d a b z o xs => Sys2Proof.Machine.execAxorg d a b z o xs s
  | .fence c o xs => Sys2Proof.Machine.execFence c o xs s
  | .acquire a xs => Sys2Proof.Machine.execAcquire a xs s
  | .release a xs => Sys2Proof.Machine.execRelease a xs s
  | .sflush a b => Sys2Proof.Machine.execSflush a b s
  | .sinval a b => Sys2Proof.Machine.execSinval a b s
  | .sbind d a b => Sys2Proof.Machine.execSbind d a b s
  | .sunbind d a => Sys2Proof.Machine.execSunbind d a s
  | .mfs d xi => Sys2Proof.Machine.execMfs d xi s
  | .mts a xi => Sys2Proof.Machine.execMts a xi s
  | .linkRead d l => Sys2Proof.Machine.execLinkRead d l s
  | .linkWrite a l => Sys2Proof.Machine.execLinkWrite a l s
  | .stashResize a => Sys2Proof.Machine.execStashResize a s
  | .hbtivWrite a => Sys2Proof.Machine.execHbtivWrite a s
  | .nflagRead d => Sys2Proof.Machine.execNflagRead d s
  | .vadd d a b m t xi z => Sys2Proof.Machine.execVadd d a b m t xi z s
  | .vsub d a b m t xi z => Sys2Proof.Machine.execVsub d a b m t xi z s
  | .vmul d a b m t xi z => Sys2Proof.Machine.execVmul d a b m t xi z s
  | .vfma d a b m t xi z => Sys2Proof.Machine.execVfma d a b m t xi z s
  | .vmin d a b m t xi z => Sys2Proof.Machine.execVmin d a b m t xi z s
  | .vmax d a b m t xi z => Sys2Proof.Machine.execVmax d a b m t xi z s
  | .vabs d a m t xi z => Sys2Proof.Machine.execVabs d a m t xi z s
  | .vneg d a m t xi z => Sys2Proof.Machine.execVneg d a m t xi z s
  | .vand d a b m t xi z => Sys2Proof.Machine.execVand d a b m t xi z s
  | .vor d a b m t xi z => Sys2Proof.Machine.execVor d a b m t xi z s
  | .vxor d a b m t xi z => Sys2Proof.Machine.execVxor d a b m t xi z s
  | .vshl d a b m t xi z => Sys2Proof.Machine.execVshl d a b m t xi z s
  | .vshr d a b m t xi z => Sys2Proof.Machine.execVshr d a b m t xi z s
  | .vsra d a b m t xi z => Sys2Proof.Machine.execVsra d a b m t xi z s
  | .vcvt d a u m t xi z v xs => Sys2Proof.Machine.execVcvt d a u m t xi z v xs s
  | .vrcp d a m t xi z => Sys2Proof.Machine.execVrcp d a m t xi z s
  | .vrsq d a m t xi z => Sys2Proof.Machine.execVrsq d a m t xi z s
  | .vexp2 d a m t xi z => Sys2Proof.Machine.execVexp2 d a m t xi z s
  | .vlog2 d a m t xi z => Sys2Proof.Machine.execVlog2 d a m t xi z s
  | .vsel d a b m t xi => Sys2Proof.Machine.execVsel d a b m t xi s
  | .vmov d a m t xi z => Sys2Proof.Machine.execVmov d a m t xi z s
  | .vsplat d m t xi z => Sys2Proof.Machine.execVsplat d m t xi z s
  | .vclamp d a m t xi z => Sys2Proof.Machine.execVclamp d a m t xi z s
  | .vadds d a b m t xi z => Sys2Proof.Machine.execVadds d a b m t xi z s
  | .vsubs d a b m t xi z => Sys2Proof.Machine.execVsubs d a b m t xi z s
  | .vmulh d a b m t xi z => Sys2Proof.Machine.execVmulh d a b m t xi z s
  | .vceq d a b m t xi z => Sys2Proof.Machine.execVceq d a b m t xi z s
  | .vcne d a b m t xi z => Sys2Proof.Machine.execVcne d a b m t xi z s
  | .vclt d a b m t xi z => Sys2Proof.Machine.execVclt d a b m t xi z s
  | .vcle d a b m t xi z => Sys2Proof.Machine.execVcle d a b m t xi z s
  | .vcgt d a b m t xi z => Sys2Proof.Machine.execVcgt d a b m t xi z s
  | .vcge d a b m t xi z => Sys2Proof.Machine.execVcge d a b m t xi z s
  | .vcun d a b m t xi z => Sys2Proof.Machine.execVcun d a b m t xi z s
  | .vred a m t xi xs => Sys2Proof.Machine.execVred a m t xi xs s
  | .vperm d a b m t xi z => Sys2Proof.Machine.execVperm d a b m t xi z s
  | .vgath d a b m t xi z => Sys2Proof.Machine.execVgath d a b m t xi z s
  | .vscat d a b m t xi => Sys2Proof.Machine.execVscat d a b m t xi s
  | .vcomp d a m t xi z c => Sys2Proof.Machine.execVcomp d a m t xi z c s
  | .vpref xs => Sys2Proof.Machine.execVpref xs s
  | .mand d a b => Sys2Proof.Machine.execMand d a b s
  | .mor d a b => Sys2Proof.Machine.execMor d a b s
  | .mxor d a b => Sys2Proof.Machine.execMxor d a b s
  | .mnot d a => Sys2Proof.Machine.execMnot d a s
  | .mpop a => Sys2Proof.Machine.execMpop a s
  | .many a => Sys2Proof.Machine.execMany a s
  | .mall a => Sys2Proof.Machine.execMall a s
  | .mset d a w => Sys2Proof.Machine.execMset d a w s
  | .mget a => Sys2Proof.Machine.execMget a s
  | .pset d a b w => Sys2Proof.Machine.execPset d a b w s
  | .pget d a => Sys2Proof.Machine.execPget d a s
  | .padd d a w => Sys2Proof.Machine.execPadd d a w s
  | .pstep d a w => Sys2Proof.Machine.execPstep d a w s
  | .qpush a w => Sys2Proof.Machine.execQpush a w s
  | .qpop d => Sys2Proof.Machine.execQpop d s
  | .qcnt d => Sys2Proof.Machine.execQcnt d s
  | .tdset a g => Sys2Proof.Machine.execTdset a g s
  | .tdget a g => Sys2Proof.Machine.execTdget a g s
  | .tdstate a g => Sys2Proof.Machine.execTdstate a g s
  | .tdbind a g => Sys2Proof.Machine.execTdbind a g s
  | .tddrop a => Sys2Proof.Machine.execTddrop a s
  | .gdclr c => Sys2Proof.Machine.execGdclr c s
  | .gdset g c => Sys2Proof.Machine.execGdset g c s
  | .gdwait g c => Sys2Proof.Machine.execGdwait g c s
  | .twait xi n m => Sys2Proof.Machine.execTwait xi n m s
  | .ttest d => Sys2Proof.Machine.execTtest d s
  | .tclr m => Sys2Proof.Machine.execTclr m s
  | .barinit a b => Sys2Proof.Machine.execBarinit a b s
  | .barexp a b => Sys2Proof.Machine.execBarexp a b s
  | .barwait d a xi => Sys2Proof.Machine.execBarwait d a xi s
  | .bartest d a => Sys2Proof.Machine.execBartest d a s
  | .baradd a b => Sys2Proof.Machine.execBaradd a b s
  | .push a m g t c => Sys2Proof.Machine.execPush a m g t c s
  | .pushg a m g t c => Sys2Proof.Machine.execPushg a m g t c s
  | .pushs a m g t c => Sys2Proof.Machine.execPushs a m g t c s
  | .pushl a m g t c => Sys2Proof.Machine.execPushl a m g t c s
  | .sndo a b t v e => Sys2Proof.Machine.execSndo a b t v e s
  | .sndw a e => Sys2Proof.Machine.execSndw a e s
  | .snde => Sys2Proof.Machine.execSnde s
  | .rpost a b c t v => Sys2Proof.Machine.execRpost a b c t v s
  | .mbpop d a => Sys2Proof.Machine.execMbpop d a s
  | .mbpopSpill d a => Sys2Proof.Machine.execMbpopSpill d a s
  | .mbpeek d a => Sys2Proof.Machine.execMbpeek d a s
  | .mbcnt d a => Sys2Proof.Machine.execMbcnt d a s
  | .lbk d a => Sys2Proof.Machine.execLbk d a s
  | .grpbar d a xi => Sys2Proof.Machine.execGrpbar d a xi s
  | .grpinfo d a => Sys2Proof.Machine.execGrpinfo d a s
  | .hstart d a n xs => Sys2Proof.Machine.execHstart d a n xs s
  | .hjoin d a => Sys2Proof.Machine.execHjoin d a s
  | .endCtx => Sys2Proof.Machine.execEndCtx s
  | .yieldSlot => Sys2Proof.Machine.execYieldSlot s
  | .wfe d a xi => Sys2Proof.Machine.execWfe d a xi s
  | .hkill d a => Sys2Proof.Machine.execHkill d a s
  | .hbt => Sys2Proof.Machine.execHbt s
  | .post d a => Sys2Proof.Machine.execPost d a s
  | .tkey d a r => Sys2Proof.Machine.execTkey d a r s
  | .sstart d a t xs => Sys2Proof.Machine.execSstart d a t xs s
  | .sstop d a t => Sys2Proof.Machine.execSstop d a t s
  | .detach d a => Sys2Proof.Machine.execDetach d a s
  | .join a xi => Sys2Proof.Machine.execJoin a xi s
  | .gang d xi t => Sys2Proof.Machine.execGang d xi t s
  | .mma a p x g c t u => Sys2Proof.Machine.execMma a p x g c t u s
  | .mmag a p x g c t u => Sys2Proof.Machine.execMmag a p x g c t u s
  | .mzero x t u => Sys2Proof.Machine.execMzero x t u s
  | .mdrain a x c t u => Sys2Proof.Machine.execMdrain a x c t u s
  | .mldb a t u => Sys2Proof.Machine.execMldb a t u s
  | .mprog xi c t u => Sys2Proof.Machine.execMprog xi c t u s
  | .mchk x t u => Sys2Proof.Machine.execMchk x t u s
  | .gacc d a b n t u => Sys2Proof.Machine.execGacc d a b n t u s
  | .gsub d a b n t u => Sys2Proof.Machine.execGsub d a b n t u s
  | .gelim d a k e t u => Sys2Proof.Machine.execGelim d a k e t u s
  | .gdamp d a b n t u => Sys2Proof.Machine.execGdamp d a b n t u s
  | .gmean d a n t u => Sys2Proof.Machine.execGmean d a n t u s
  | .gresid a b n t u => Sys2Proof.Machine.execGresid a b n t u s
  | .greg d a n t u => Sys2Proof.Machine.execGreg d a n t u s
  | .gsend a n t u => Sys2Proof.Machine.execGsend a n t u s
  | .gcopy d a n t u => Sys2Proof.Machine.execGcopy d a n t u s
  | .tshape d a => Sys2Proof.Machine.execTshape d a s
  | .tfreeze d a l => Sys2Proof.Machine.execTfreeze d a l s
  | .tthaw d a l => Sys2Proof.Machine.execTthaw d a l s
  | .upret => Sys2Proof.Machine.execUpret s
  | .upretYield => Sys2Proof.Machine.execUpretYield s
  | .press d => Sys2Proof.Machine.execPress d s
  | .pressNb d a => Sys2Proof.Machine.execPressNb d a s
  | .pressCfg d => Sys2Proof.Machine.execPressCfg d s
  | .pressSet a => Sys2Proof.Machine.execPressSet a s
  | .trap xi => Sys2Proof.Machine.execTrap xi s
  | .eret => Sys2Proof.Machine.execEret s
  | .halt => Sys2Proof.Machine.execHalt s
  | .tinvb d a m => Sys2Proof.Machine.execTinvb d a m s
  | .scrub d a m => Sys2Proof.Machine.execScrub d a m s
  | .tailrd d a p => Sys2Proof.Machine.execTailrd d a p s
  | .isync => Sys2Proof.Machine.execIsync s
  | .himm p => Sys2Proof.Machine.execHimm p s
  | .hwait xi n m => Sys2Proof.Machine.execHwait xi n m s
  | .hcache p xs t => Sys2Proof.Machine.execHcache p xs t s
  | .hsched y w => Sys2Proof.Machine.execHsched y w s
  | .illegalWord w => Sys2Proof.Machine.execIllegalWord w s
  | .upcallDelivery core => Sys2Proof.Machine.execUpcallDelivery core s
  | .rpostArrival k => Sys2Proof.Machine.execRpostArrival k s
  | .heldPostFill core k => Sys2Proof.Machine.execHeldPostFill core k s
  | .contextStop core cx => Sys2Proof.Machine.execContextStop core cx s
  | .contextRestore core cx => Sys2Proof.Machine.execContextRestore core cx s
  | .helperSlotRestore core => Sys2Proof.Machine.execHelperSlotRestore core s
  | .helperDrain core cx energy => Sys2Proof.Machine.execHelperDrain core cx energy s
  | .wfeTimeout core cx => Sys2Proof.Machine.execWfeTimeout core cx s
  | .burnerExpiry core cx => Sys2Proof.Machine.execBurnerExpiry core cx s
  | .packetAbort core cx => Sys2Proof.Machine.execPacketAbort core cx s
  | .stashFillReturn k => Sys2Proof.Machine.execStashFillReturn k s
  | .writeAck k => Sys2Proof.Machine.execWriteAck k s
  | .negativeAck k => Sys2Proof.Machine.execNegativeAck k s
  | .deliveryAck k => Sys2Proof.Machine.execDeliveryAck k s
  | .vectorCommandStart core => Sys2Proof.Machine.execVectorCommandStart core s
  | .vectorCommandComplete o => Sys2Proof.Machine.execVectorCommandComplete o s
  | .pushCommandStart o => Sys2Proof.Machine.execPushCommandStart o s
  | .pushComplete core uid => Sys2Proof.Machine.execPushComplete core uid s
  | .matrixCommandStart core => Sys2Proof.Machine.execMatrixCommandStart core s
  | .bridleFire cluster row => Sys2Proof.Machine.execBridleFire cluster row s
  | .matrixPreempt core steps => Sys2Proof.Machine.execMatrixPreempt core steps s
  | .matrixComplete core steps => Sys2Proof.Machine.execMatrixComplete core steps s
  | .accVerdict core => Sys2Proof.Machine.execAccVerdict core s
  | .gaussianCommandStart core => Sys2Proof.Machine.execGaussianCommandStart core s
  | .pivotVerdict core => Sys2Proof.Machine.execPivotVerdict core s
  | .gaussianComplete core => Sys2Proof.Machine.execGaussianComplete core s
  | .sequencerPlace core => Sys2Proof.Machine.execSequencerPlace core s
  | .pushArrival k => Sys2Proof.Machine.execPushArrival k s
  | .packetArrival k => Sys2Proof.Machine.execPacketArrival k s
  | .messageArrival k => Sys2Proof.Machine.execMessageArrival k s
  | .heldMessageRetry core => Sys2Proof.Machine.execHeldMessageRetry core s
  | .ballonetWake core => Sys2Proof.Machine.execBallonetWake core s
  | .mailboxPostRetry core => Sys2Proof.Machine.execMailboxPostRetry core s
  | .postRecordArrival k => Sys2Proof.Machine.execPostRecordArrival k s
  | .dispatchRequest cluster => Sys2Proof.Machine.execDispatchRequest cluster s
  | .bucketRefill => Sys2Proof.Machine.execBucketRefill s
  | .powerControl outsideMilliwatts hottest => Sys2Proof.Machine.execPowerControl outsideMilliwatts hottest s
  | .thermalShutdown reading => Sys2Proof.Machine.execThermalShutdown reading s
  | .groupArrival k => Sys2Proof.Machine.execGroupArrival k s
  | .groupFiringArrival k => Sys2Proof.Machine.execGroupFiringArrival k s
  | .streamHeadStart cluster => Sys2Proof.Machine.execStreamHeadStart cluster s
  | .streamHeadSend cluster => Sys2Proof.Machine.execStreamHeadSend cluster s
  | .streamWordDelivery core => Sys2Proof.Machine.execStreamWordDelivery core s
  | .sliceRequest k => Sys2Proof.Machine.execSliceRequest k s
  | .sliceFillReturn slice set => Sys2Proof.Machine.execSliceFillReturn slice set s
  | .walkComplete cluster k => Sys2Proof.Machine.execWalkComplete cluster k s
  | .tinvbInvalidate k => Sys2Proof.Machine.execTinvbInvalidate k s
  | .faultMessageArrival k => Sys2Proof.Machine.execFaultMessageArrival k s
  | .faultMessageResend k => Sys2Proof.Machine.execFaultMessageResend k s
  | .resumeCopy k => Sys2Proof.Machine.execResumeCopy k s
  | .abortCopy k => Sys2Proof.Machine.execAbortCopy k s
  | .restart k => Sys2Proof.Machine.execRestart k s
  | .unfence k => Sys2Proof.Machine.execUnfence k s
  | .containmentKill core => Sys2Proof.Machine.execContainmentKill core s
  | .occRebuildEnd slice => Sys2Proof.Machine.execOccRebuildEnd slice s
  | .patrolScrub core granule => Sys2Proof.Machine.execPatrolScrub core granule s
  | .dieReset die => Sys2Proof.Machine.execDieReset die s
  | .supervisorImagePlace die img => Sys2Proof.Machine.execSupervisorImagePlace die img s
  | .moduleBringup stage => Sys2Proof.Machine.execModuleBringup stage s
  | .pressureGossip => Sys2Proof.Machine.execPressureGossip s
  | .driftEvaluate cluster => Sys2Proof.Machine.execDriftEvaluate cluster s
  | .proposeConfirm cluster => Sys2Proof.Machine.execProposeConfirm cluster s
  | .drainDeadline core energies => Sys2Proof.Machine.execDrainDeadline core energies s
  | .scrubPhase cluster => Sys2Proof.Machine.execScrubPhase cluster s
  | .transferPhase cluster => Sys2Proof.Machine.execTransferPhase cluster s
  | .upcallRetry k => Sys2Proof.Machine.execUpcallRetry k s
  | .territoryLaunch k tables => Sys2Proof.Machine.execTerritoryLaunch k tables s
  | .territoryShutdown k => Sys2Proof.Machine.execTerritoryShutdown k s
  | .queueMap k => Sys2Proof.Machine.execQueueMap k s
  | .queueUnmap k => Sys2Proof.Machine.execQueueUnmap k s
  | .toffWrite k => Sys2Proof.Machine.execToffWrite k s
  | .tetherStoreWrite k => Sys2Proof.Machine.execTetherStoreWrite k s
  | .start k => Sys2Proof.Machine.execStart k s
  | .sgo k => Sys2Proof.Machine.execSgo k s
  | .tdone k => Sys2Proof.Machine.execTdone k s
  | .wmaskWrite k => Sys2Proof.Machine.execWmaskWrite k s
  | .scfgWrite k => Sys2Proof.Machine.execScfgWrite k s
  | .routeWrite k => Sys2Proof.Machine.execRouteWrite k s
  | .pkgidWrite k => Sys2Proof.Machine.execPkgidWrite k s
  | .registerWrite k => Sys2Proof.Machine.execRegisterWrite k s
  | .fabricFrameReceive k => Sys2Proof.Machine.execFabricFrameReceive k s
  | .fabricAckTimeout k => Sys2Proof.Machine.execFabricAckTimeout k s
  | .ingressFrame port frame fcsBad => Sys2Proof.Machine.execIngressFrame port frame fcsBad s
  | .timeDiscipline elapsed slew => Sys2Proof.Machine.execTimeDiscipline elapsed slew s
  | .spdmGetMeasurements viaPort => Sys2Proof.Machine.execSpdmGetMeasurements viaPort s
  | .softError site => Sys2Proof.Machine.execSoftError site s
  | .temperatureRefresh cluster readings => Sys2Proof.Machine.execTemperatureRefresh cluster readings s
  | .territoryPause terr energies => Sys2Proof.Machine.execTerritoryPause terr energies s
  | .hostDmaAccess pa data len => Sys2Proof.Machine.execHostDmaAccess pa data len s
  | .fabricLinkTraining port up => Sys2Proof.Machine.execFabricLinkTraining port up s

end Sys2Proof.Machine
end

