-- ==== Sys2Proof/Machine/Issue.lean ====
section
/-! DEFINITION. Barrel issue (R126, R127): which context of a core issues, what word it runs (R33, R34, R118, R229), and pairs (R277,
R278). -/

namespace Sys2Proof.Machine

/-- The stream slots of a core (R126): context 0 is streamed, or runs the trap handler of a streamed context 0. -/
def Core.streamSlots (c : Core) : Bool :=
  match kget c.ctxs 0 with
  | some x => x.streamed || (x.spr.inh && x.keeps)
  | none => false

/-- `n` context numbers in cyclic order after `r`, over `lo` to 11. -/
def cyclic (lo r : Nat) : List Nat :=
  let all := (List.range 12).filter (lo ≤ ·)
  all.filter (r < ·) ++ all.filter (· ≤ r)

/-- The contexts in the order in which a cc offers itself to them (R126). -/
def Core.order (c : Core) (cyc : Nat) : List Nat :=
  if c.streamSlots then (if cyc % 2 = 0 then 0 :: cyclic 1 c.rot else cyclic 1 c.rot)
  else cyclic 0 c.rot

/-- A context stands stopped (R92). -/
def Ctx.stopped (h : Ctx) : Bool := match h.run with | .stopped _ => true | _ => false
/-- A context is free to go on: not stopped, and not held at the boundary where a stop that was asked for takes effect (R92). -/
def Ctx.going (h : Ctx) : Bool := !h.halting && !h.stopped

/-- The load under way has failed, and its trap is to come (R139). -/
def Ctx.failedLoad (h : Ctx) : Option (Load × Ans) := h.load.bind (fun l => l.ans.map (fun a => (l, a)))

/-- The trailer of a pair may issue (R277): the oldest word that it has not issued lies 8 before one that the leader has issued, or the leader is
not to go on by itself, or it waits while a word of the pair waits in the comparator for the trailer (DESIGN CHOICE, log entry 94). -/
def Core.mayTrail (c : Core) (x : Nat) : Bool :=
  match kget c.pairs x, kget c.ctxs x with
  | some l, some h =>
    !l.isEmpty && !l.head?.any (·.entered)
      && (9 ≤ l.length || !h.going || ((match h.run with | .running => false | _ => true) && l.any (·.output)))
  | _, _ => false

/-- The trailer follows its leader: past the boundary of a stop only inside a packet of the leader, which is to be closed first (R92). -/
def Ctx.follows (g lead : Ctx) : Bool := !g.stopped && (!g.halting || lead.pkt.isSome)

/-- A context that can be offered a slot: live, not stopped, and not waiting for a stream index; the leader of a pair while its trailer can
follow, and the trailer when it may. Of a pair that has diverged, the leader ends the access or takes the trap that it has begun (R278). -/
def Core.offered (c : Core) (x : Nat) : Bool :=
  match kget c.ctxs x with
  | some h =>
    match h.task.bind (·.pair) with
    | some (y, trails) =>
      if h.task.any (·.diverged) then !trails && h.going && (h.committed || h.failedLoad.isSome)
      else if trails then (kget c.ctxs y).any h.follows && c.mayTrail y
      else h.going && (kget c.ctxs y).all (·.follows h)
    | none => h.going && (match h.mode with | .joining _ => h.failedLoad.isSome | _ => true)
  | none => false

/-- The executing context runs its next word: the trap of a load that failed before it (R139), the stream word at the head of its buffer
(R229), the repetition under way (R118), or the word at its PC (R33, R34, R149). -/
def State.runNext (s : State) : Res :=
  let c := s.cx
  match (if c.committed then none else c.failedLoad) with
  | some (l, a) => .next (s.loadTrap l a)
  | none =>
    if c.streamed then
      match s.me.stream.buf with
      | [] => .next (s.park (.stream false))
      | w :: _ =>
        let s1 := s.setCx { c with pc := w.idx }
        if w.bad then .next (s1.trap uncorrectable (word w.idx)) else exec (decodeOr w.word) s1
    else
      match c.rep with
      | some r => exec r.instr s
      | none =>
        if 0x8000 ≤ c.pc then .next (s.trap localBounds (word c.pc))
        else if (s.wordAt c.pc).2 then .next (s.trap uncorrectable (word c.pc))
        else exec (decodeOr (s.wordAt c.pc).1) s

/-- A context in local mode fetches the next word ahead of its PC, at most 4 words ahead (R147): when it does so is open. -/
def State.fetchAhead (s : State) (k x : Nat) : State :=
  let c := s.ctx k x
  if !s.works k || !(s.core k).live x || c.mode != .loc || !c.going then s
  else
    match ((List.range 4).map (fun i => c.pc + 4 * i)).find? (fun a => a < 0x8000 && (kget c.ahead a).isNone) with
    | some a => s.setCtx k x { c with ahead := kput c.ahead a ((s.core k).fetch a, (s.core k).ibad.contains (a / 4)) }
    | none => s

/-! ### Pairs (R277, R278) -/

/-- How the leader of a pair runs a word: `free` ahead of its trailer, with nothing from outside; for a value from outside (`value`), or for
what the context's own commands leave (`own`), once every output is released; as an output (`output`), which waits in the comparator while the
leader goes on; or as one that holds the leader (`holds`), which runs it once its trailer has entered its copy. -/
inductive PairKind where
  | free
  | value
  | own
  | output
  | holds
  deriving DecidableEq, Repr

def pairKind : Instr → PairKind
  | .add .. | .sub .. | .andR .. | .orR .. | .xorR .. | .shl .. | .shr .. | .sra .. | .rotl .. | .mul .. | .mulhs .. | .mulhn .. | .divs ..
  | .divn .. | .rems .. | .remn .. | .mins .. | .minn .. | .maxs .. | .maxn .. | .slts .. | .sltn .. | .seq .. | .clz .. | .ctz ..
  | .popc .. | .sel .. | .andn .. | .madd .. | .addi .. | .andi .. | .ori .. | .xori .. | .shli .. | .shri .. | .srai .. | .sltsi ..
  | .sltni .. | .seqi .. | .muli .. | .ldi .. | .beqz .. | .bnez .. | .bltz .. | .bgez .. | .bgtz .. | .blez .. | .bfull .. | .bempty ..
  | .jmp .. | .call .. | .jr .. | .callr .. | .ret .. | .rep .. | .himm .. | .hwait .. | .hcache .. | .hsched .. | .yieldSlot | .hbt => .free
  | .ld .. | .ldg .. | .mfs .. | .linkRead .. | .nflagRead .. | .qpop .. | .mbpop .. | .mbpopSpill .. | .mbpeek .. | .mbcnt .. | .hjoin ..
  | .barwait .. | .bartest .. | .grpinfo .. => .value
  | .pset .. | .pget .. | .padd ..
  | .pstep .. | .qcnt .. | .tdget .. | .tdstate .. | .twait .. | .ttest .. | .gdwait .. | .wfe .. => .own
  | .st .. | .vadd .. | .vsub .. | .vmul .. | .vfma .. | .vmin .. | .vmax .. | .vabs .. | .vneg .. | .vand .. | .vor .. | .vxor ..
  | .vshl .. | .vshr .. | .vsra .. | .vcvt .. | .vrcp .. | .vrsq .. | .vexp2 .. | .vlog2 .. | .vsel .. | .vmov .. | .vsplat .. | .vclamp ..
  | .vadds .. | .vsubs .. | .vmulh .. | .vceq .. | .vcne .. | .vclt .. | .vcle .. | .vcgt .. | .vcge .. | .vcun .. | .vred .. | .vperm ..
  | .vgath .. | .vscat .. | .vcomp .. | .vpref .. | .mand .. | .mor .. | .mxor .. | .mnot .. | .mpop .. | .many .. | .mall .. | .mset ..
  | .mget .. | .push .. | .pushg .. | .pushs .. | .pushl .. | .mma .. | .mmag .. | .mzero ..
  | .stg .. | .tkey .. | .barinit .. | .barexp .. | .baradd .. | .mdrain .. | .mchk .. | .gelim .. | .gmean ..
  | .mldb .. | .mprog .. | .gacc .. | .gsub .. | .gdamp .. | .gresid .. | .greg .. | .gsend .. | .gcopy .. => .output
  | _ => .holds

/-- A state without the parity of context `x`'s registers, which the copies of a pair do not share. -/
def State.sansParity (s : State) (k x : Nat) : State :=
  let c := s.core k
  s.setCore k { c with
    ctxs := c.ctxs.map (fun e => if e.1 = x then (e.1, { e.2 with bad := 0 }) else e)
    ended := c.ended.map (fun e => if e.1 = x then (e.1, { e.2 with wide := { e.2.wide with bad := 0 } }) else e) }

/-- A pair diverges (R278): both helpers are killed as HKILL kills. What they have not started is dropped; what has started ends first, and so does
the leader's open packet, which nothing more enters: it is aborted in its time (R194). -/
def State.diverge (s : State) (k x y : Nat) : State :=
  let mark (s : State) (z : Nat) : State := s.setCtx k z { s.ctx k z with task := (s.ctx k z).task.map (fun u => { u with diverged := true }) }
  [x, y].foldl mark (s.killAsk k [x, y])

/-- The killed pair ends: its record runs once more, or is faulted. That a full queue takes no record again, so that the record is faulted, is a
DESIGN CHOICE (log entry 94). -/
def State.endPair (s : State) (k x y : Nat) : State :=
  let h := s.ctx k x
  let again := h.task.bind (fun u => if recCtl u.rec_ / 32 % 4 = 0 && 64 ≤ u.rec_.length then some u else none)
  let s1 : State :=
    match again with
    | none => s
    | some u =>
      let r := recSeal (u.rec_.take 56 ++ [BitVec.ofNat 8 (recCtl u.rec_ + 32)] ++ u.rec_.drop 57)
      let o := s.postRecord (s.terrOf k) r u.pin
      if o.2 < 2 then o.1.setCtx k x { o.1.ctx k x with task := some { u with rec_ := [] } } else s
  (s1.endHelper k x 2 pairDiverge).endHelper k y 2 pairDiverge

/-- A pair of a core that has diverged goes as HKILL has it (R100): once the leader stands at a boundary outside a packet both stand stopped, and once
their started commands have ended and the tracker has room for them (R96) their images are written and they end. -/
def State.reapPair (s : State) (k x y : Nat) : State :=
  let h := s.ctx k x
  if h.pkt.isSome || h.committed || h.load.isSome then s
  else
    let s1 := if h.run = .stopped .killed then s else s.killStop k [x, y]
    let c := s1.core k
    if c.started x || c.started y || ((c.pending x || c.pending y) && 14 < c.retiring) then s1
    else (([x, y].foldl (fun s z => s.writeImage k z) s1).endPair k x y)

/-- The pairs of a core that have diverged. -/
def State.endPairs (s : State) (k : Nat) : State :=
  ((s.core k).ctxs.filter (fun e => e.2.task.any (fun u => u.diverged && u.pair.any (!·.2)))).foldl (fun s e =>
    match e.2.task.bind (·.pair) with
    | some (y, _) => s.reapPair k e.1 y
    | none => s) s

/-- The trailer's context where its leader stands at `h`: it holds the leader's values, and of what is under way nothing. -/
def Ctx.trailing (g h : Ctx) (now : Nat) (bad : BitVec 32) : Ctx :=
  { h.setRun now .running with bad := bad, task := g.task, pkt := none, acc := none, load := none, stopping := g.stopping }

/-- What one attempt at the executing context's word did. -/
inductive Went where
  | waits
  | departs
  | completes
  deriving DecidableEq, Repr

/-- `t` follows `s` by one word of context `x`: the word waits, or ends in a trap entry or the end of its context, or completes. -/
def State.went (s t : State) (k x : Nat) : Went :=
  match kget (t.core k).ctxs x with
  | none => .departs
  | some h =>
    match h.run with
    | .parked _ => .waits
    | .stopped _ => .departs
    | .running => if h.spr.inh && !(s.ctx k x).spr.inh then .departs else .completes

/-- The registers whose bad parity would make the executing context's word trap (R149), of those that are good now. -/
def State.parityReads (s : State) : BitVec 32 :=
  ((List.range 32).drop 1).foldl (fun b r =>
    match (s.setCx { s.cx with bad := s.cx.bad ||| (1#32 <<< r) }).runNext with
    | .next t => if s.went t s.cur.1 s.cur.2 = .departs then b ||| (1#32 <<< r) else b
    | _ => b) 0
/-- The registers that the word writes: those among `free` whose parity it makes good. -/
def State.parityWrites (s : State) (free : BitVec 32) : BitVec 32 :=
  match (s.setCx { s.cx with bad := free }).runNext with
  | .next t => free &&& ~~~(t.cx.bad)
  | _ => 0

/-- The registers that a context holds otherwise than before: written by its word, by a post or by a load. -/
def Ctx.changed (c d : Ctx) : BitVec 32 :=
  let ended (r : Nat) : Bool := c.load.any (fun l => l.rd.toNat == r) && d.load != c.load
  ((List.range 32).drop 1).foldl (fun b r =>
    let q := BitVec.ofNat 5 r
    if c.reg q != d.reg q || (d.full.getLsbD r && !c.full.getLsbD r) || ended r then b ||| (1#32 <<< r) else b) 0

/-- The words of the pair whose leader is `x`, and their change. -/
def Core.pairWords (c : Core) (x : Nat) : List PairWord := (kget c.pairs x).getD []
def Core.setPair (c : Core) (x : Nat) (l : List PairWord) : Core := { c with pairs := if l.isEmpty then kdel c.pairs x else kput c.pairs x l }

/-- The word at which a pair waits has entered the comparator in both copies and matched (R277): the leader runs it, and when it has, its trailer stands
behind it. Copies whose word ends otherwise for the parity of their registers have diverged (R278). -/
def State.leadHeld (s : State) (y : Nat) : Res :=
  let k := s.cur.1
  let x := s.cur.2
  let g := s.ctx k y
  match s.runNext, (s.setCx { s.cx with bad := g.bad }).runNext with
  | .next a, .next b =>
    if a.sansParity k x ≠ b.sansParity k x then .next (s.diverge k x y)
    else
      match s.went a k x with
      | .waits => .next a
      | _ =>
        let a1 := a.setCore k ((a.core k).setPair x [])
        match kget (a.core k).ctxs x with
        | some h => .next (a1.setCtx k y (g.trailing h s.now (b.ctx k x).bad))
        | none =>
          let e := kget (a.core k).ended x
          .next (a1.endHelper k y ((e.map (·.kind)).getD 0) ((e.map (·.cause)).getD 0))
  | r, _ => r

/-- The leader of a pair issues its next word as far as that may be (R277): its value goes into the load-value queue, its output into the
comparator. A word that holds the leader waits there for the trailer's copy. -/
def State.lead (s : State) (y : Nat) : Res :=
  let k := s.cur.1
  let x := s.cur.2
  let c := s.cx
  let l := s.me.pairWords x
  let i := match c.rep with | some r => r.instr | none => decodeOr (s.wordAt c.pc).1
  let kd := if c.failedLoad.isSome || (verdictKind i && guardOf i == 0) then .holds else pairKind i
  let wait : Res := .next (s.park .unit)
  let outs := (l.filter (·.output)).length
  let e : PairWord := { instr := i, before := c, value := false, output := false, held := false, entered := false, uid := s.uid, reads := 0, writes := 0 }
  let hold : Res :=
    if 16 ≤ outs then wait else .next ((s.setMe (s.me.setPair x (l ++ [{ e with output := true, held := true }]))).park .unit)
  if l.getLast?.any (·.held) then (if l.head?.any (·.entered) then s.leadHeld y else wait)
  else if kd = .holds || kd = .output && c.acc.isSome then (if c.acc.isSome then s.leadHeld y else hold)
  else if (kd = .value && 32 ≤ (l.filter (·.value)).length) || (kd = .output && (16 ≤ outs || c.load.isSome))
      || ((kd = .value || kd = .own) && 0 < outs) then wait
  else
    match s.runNext with
    | .next t =>
      match s.went t k x with
      | .departs => hold
      | .waits => if kd = .output then (if t.cx.acc.isSome then hold else .next (s.setCx t.cx)) else .next t
      | .completes =>
        let rs := s.parityReads
        let e1 := { e with value := kd == .value, output := kd == .output, reads := rs, writes := s.parityWrites (~~~rs &&& ~~~1#32) }
        let t1 : State := if kd = .output then { s.setCx t.cx with uid := t.uid } else t
        .next (t1.setCore k ((t1.core k).setPair x (l ++ [e1])))
    | r => r

/-- A token as it is without `n` commands that its context has issued and that are not released. -/
def Tok.unarm (before now : Tok) (n : Nat) : Tok :=
  if n = 0 then now else if before.count = 0 then before else (List.range n).foldl (fun t _ => t.settle .discarded) now

/-- The leader as it issued the word of `e`, with what has come from its wide side and from outside since: what words after `e` and `e` itself armed is
not armed. -/
def PairWord.back (e : PairWord) (es : List PairWord) (lead : Ctx) : Ctx :=
  let n (t : Nat) : Nat := ((e :: es).filter (fun f => f.output && (tokOf f.instr).any (·.toNat == t))).length
  { e.before with
    m := lead.m, mbad := lead.mbad, c := lead.c, qs := lead.qs, qsBad := lead.qsBad, qw := lead.qw, event := lead.event, burn := lead.burn
    burnAt := lead.burnAt, stopping := lead.stopping, task := lead.task, slotAt := lead.slotAt, run := .running, waited := true
    t := Vector.ofFn (fun i => Tok.unarm e.before.t[i] lead.t[i] (n i.val)) }

/-- The leader releases an output: its word takes effect, outside its context, as it does now that both copies have entered it. -/
def State.release (s : State) (k x : Nat) (e : PairWord) (es : List PairWord) : Res :=
  ({ s.setCtx k x (e.back es (s.ctx k x)) with cur := (k, x), uid := e.uid } : State).runNext

/-- The trailer of a pair issues the oldest word by which its leader is ahead (R277), in its own registers and with its leader's value. A
register whose parity is bad in its copy alone diverges (R278). A word that holds the leader only enters. An output that traps as it is released, or has
then to wait for its translation, is taken back in both copies. -/
def State.trail (s : State) (x : Nat) : Res :=
  let k := s.cur.1
  let y := s.cur.2
  let g := s.cx
  match s.me.pairWords x with
  | [] => .next (s.park .unit)
  | e :: es =>
    let lead := s.ctx k x
    let next := (es.head?.map (·.before)).getD lead
    let along (t : State) : State :=
      let t1 := t.setCore k ((t.core k).setPair x es)
      t1.setCtx k y (g.trailing next s.now (g.bad &&& ~~~(e.writes ||| e.before.changed next)))
    let back (t : State) (l : List PairWord) : State := { t.setCore k ((t.core k).setPair x l) with cur := s.cur, uid := max s.uid t.uid }
    if e.held then .next ((s.setMe (s.me.setPair x ({ e with entered := true } :: es))).park .unit)
    else if e.reads &&& g.bad ≠ 0 then .next (s.diverge k x y)
    else if !e.output then .next (along s)
    else
      match s.release k x e es with
      | .next t =>
        match s.went t k x with
        | .completes => .next ({ along (t.setCtx k x lead) with cur := s.cur, uid := max s.uid t.uid })
        | .waits =>
          if (t.ctx k x).acc.isSome then .next ((back t [{ e with held := true, entered := true }]).park .unit)
          else .next (s.park (match (t.ctx k x).run with | .parked w => w | _ => .unit))
        | .departs =>
          let t1 := back t []
          match kget (t1.core k).ctxs x with
          | some h => .next (t1.setCtx k y (g.trailing h s.now g.bad))
          | none =>
            let d := kget (t1.core k).ended x
            .next (t1.endHelper k y ((d.map (·.kind)).getD 0) ((d.map (·.cause)).getD 0))
      | r => r

/-- The context runs its next word; of a pair, the leader as far as its trailer may follow, and the trailer behind it. -/
def State.runOne (s : State) : Res :=
  match s.cx.task.bind (·.pair) with
  | some (y, false) => if s.me.live y && !s.cx.task.any (·.diverged) then s.lead y else s.runNext
  | some (x, true) => s.trail x
  | none => s.runNext

/-- Context `x` of core `k` is the one that issues. In its own slot the stream leaves the rotation where it is (R126). -/
def State.at (s : State) (k x : Nat) : State :=
  { s.setCore k { s.core k with rot := if x = 0 && (s.core k).streamSlots then (s.core k).rot else x } with cur := (k, x) }

/-- The attempt from `s` to `t` took no slot (R127): context `x` waits, and has sent nothing and done no part of its word; nor has the pair that it belongs to gone on. -/
def State.passed (s t : State) (k x : Nat) : Bool :=
  match kget (t.core k).ctxs x with
  | some h => (match h.run with | .parked _ => true | _ => false) && h.acc == (s.ctx k x).acc && t.uid == s.uid && t.net.length == s.net.length
    && (t.core k).pairs == (s.core k).pairs
  | none => false

/-- Offers the cc to contexts in turn: one that waits takes no slot (R127), one that gave up its slot is passed once (R49, R100). -/
def State.offer (s : State) (k : Nat) : List Nat → Res
  | [] => .next s
  | x :: xs =>
    if !(s.core k).offered x then s.offer k xs
    else if (s.ctx k x).yld then (s.setCtx k x { s.ctx k x with yld := false }).offer k xs
    else
      match (s.at k x).runOne with
      | .next t => if s.passed t k x then (t.setCore k { t.core k with rot := (s.core k).rot }).offer k xs else .next t
      | .fault f => .fault f
      | .refused r => .refused r

/-- One cc of a core. A fenced (R323), killed (R322) or disabled core issues nothing. -/
def State.coreStep (s : State) (k : Nat) : Res :=
  let s1 := { s with now := s.now + 1 }
  if (s.stat k).fenced || (s.stat k).killed || s.disabled.contains k then .next s1
  else
    let s2 := s1.endPairs k
    s2.offer k ((s2.core k).order (s2.cyc k))

end Sys2Proof.Machine
end

