-- ==== Sys2Proof/Machine/Step.lean ====
section
/-! DEFINITION. One step of the machine: the next turn of its schedule, or, with none left, one cc of the current core. -/

namespace Sys2Proof.Machine

/-- One step. Without power nothing runs (R358). -/
def step (s : State) : Host.Outcome State Fault Refusal :=
  if !s.power then .fault .powerRemoved
  else
    match s.turns with
    | [] => s.coreStep s.cur.1
    | .core k :: r => { s with turns := r }.coreStep k
    | .event i :: r => if (encodeNat i).isSome then .next { s with turns := r } else exec i { s with turns := r }
    | .wait n :: r => .next { s with turns := r, now := s.now + n }
    | .wire p vc f b :: r => .next (State.fromWire { s with turns := r } p vc f b)
    | .ahead k x :: r => .next (State.fetchAhead { s with turns := r } k x)
    | .record t i :: r => .next (State.startChosen { s with turns := r } t i)
    | .bypass h b :: r => .next (State.bypassGo { s with turns := r } h b)
    | .grant k e x g w :: r => .next (State.grantNext { s with turns := r } k e x g w)
    | .chunk p :: r => .next (State.nextChunk { s with turns := r } p)
    | .os pa n v :: r => .next (State.osWrite { s with turns := r } pa n v)

/-- The current context is about to fetch the word: it is live and running in local mode with the word at its PC, alone on its core. From
reset the current context is context 0 of die 0's supervisor core, started at level S as the boot firmware starts it (R328). -/
def State.withFetchWord (s : State) (_nbits w : Nat) : State :=
  let k := s.cur.1
  let x := s.cur.2
  let m := s.core k
  let h : Ctx :=
    match kget m.ctxs x with
    | some h => { h with run := .running, mode := .loc, rep := none, yld := false, load := none, ahead := [], stopping := false, task := none }
    | none => Ctx.start 0 .s .running
  let others := m.ctxs.filter (fun e => e.1 == x)
  { s with
    turns := []
    power := true }.setCore k { m with ctxs := kput others x h, istore := mputNat m.istore h.pc 4 (w % 2 ^ 32), ibad := ndel m.ibad (h.pc / 4) }

end Sys2Proof.Machine
end

