-- ==== Sys2Proof/Safety.lean ====
section
/-! DEFINITION. The terms of the claims: good states, when a word can issue, and what a step leaves alone. -/

namespace Sys2Proof.Machine

/-- The global memory and every listed core's memories are canonical. -/
def State.memOk (s : State) : Prop := s.gmem.wf = true ∧ ∀ e ∈ s.cores, e.2.lmem.wf = true ∧ e.2.istore.wf = true

/-- The level allows the word, and the latched HWAIT, if any, is complete without a fault (R54 steps 3 and 4). -/
def State.cleared (s : State) (lv : Level) : Prop :=
  lv.num ≤ s.cx.level.num
    ∧ (match s.cx.latch.wait with
       | none => True
       | some p => s.cx.tokensDone (p.getLsbD 8) (tokensOf (p.toNat % 256)) = true
           ∧ s.cx.faultedTok (tokensOf (p.toNat % 256)) = none)

/-- A word passes the checks that come before its own (R54 steps 2 to 4). -/
def State.canIssue (s : State) (i : Instr) (lv : Level) : Prop :=
  i.wf = true ∧ (s.cx.latch.imx = 0 ∨ formI i = true) ∧ s.cleared lv

/-- The context runs words in order from the instruction store, outside REP. -/
def State.inOrder (s : State) : Prop := s.cx.rep = none ∧ s.cx.mode = .loc

/-- The context can issue words of a level in order, with no immediate latched. -/
def State.ready (s : State) (lv : Level) : Prop := s.cx.latch.imx = 0 ∧ s.cleared lv ∧ s.inOrder

/-- Every register of the list is full, its parity is good, and no load under way is still to write it (R87, R139, R149). -/
def State.readable (s : State) (rs : List Reg) : Prop := ∀ r ∈ rs, s.cx.isFull r = true ∧ s.cx.isBad r = false ∧ s.cx.loading r = false

/-- Nothing outside core `k` changed. -/
def OnlyCore (s t : State) (k : Nat) : Prop := { t with cores := s.cores } = s ∧ ∀ j, j ≠ k → t.core j = s.core j

/-- Nothing outside the executing context changed. -/
def OnlyCtx (s t : State) : Prop :=
  OnlyCore s t s.cur.1 ∧ { t.me with ctxs := [] } = { s.me with ctxs := [] }
    ∧ ∀ y, y ≠ s.cur.2 → kget t.me.ctxs y = kget s.me.ctxs y

/-- The word has completed: the context runs on at `pc`, its latch consumed. -/
def Retired (s t : State) (pc : Nat) : Prop :=
  t.cx.pc = pc ∧ t.cx.latch = Latch.empty ∧ t.cx.run = .running ∧ t.cx.acc = none
    ∧ t.cx.burnLeft t.now = s.cx.burnLeft s.now ∧ t.cx.yld = (s.cx.yld || (s.cx.latch.sched.getD 0).getLsbD 3)

/-- Nothing outside the executing context changed but its core, which is now `c`, its contexts aside. -/
def CoreIs (s t : State) (c : Core) : Prop :=
  OnlyCore s t s.cur.1 ∧ { t.me with ctxs := [] } = { c with ctxs := [] } ∧ ∀ y, y ≠ s.cur.2 → kget t.me.ctxs y = kget s.me.ctxs y

/-- Of the context, only what completion changes, and g registers with their full and parity bits, may differ: the PC, the latch, the words
fetched ahead, the run state and the access under way. A load under way goes on; it may have lost its destination to a later word (R139). -/
def RegsOnly (c c' : Ctx) : Prop :=
  { c' with g := c.g, full := c.full, bad := c.bad, pc := c.pc, latch := c.latch, run := c.run, acc := c.acc, burn := c.burn,
            burnAt := c.burnAt, yld := c.yld, waited := c.waited, ahead := c.ahead, load := c.load } = c
    ∧ (c'.load = c.load ∨ c'.load = c.load.map (fun l => { l with lost := true }))

/-- The g registers after `e` was emptied and `d` took `v`: a write to g0 is discarded. -/
def RegFile (c c' : Ctx) (e : Option Reg) (d : Reg) (v : Word) : Prop :=
  (∀ r, c'.reg r = if r = d ∧ r ≠ 0 then v else c.reg r)
    ∧ (∀ r, c'.isFull r = (r == d || (c.isFull r && !(e == some r && r != 0))))
    ∧ ∀ r, c'.isBad r = (c.isBad r && r != d)

/-- The g registers are as before. -/
def RegsSame (c c' : Ctx) : Prop :=
  (∀ r, c'.reg r = c.reg r) ∧ (∀ r, c'.isFull r = c.isFull r) ∧ ∀ r, c'.isBad r = c.isBad r

/-- The word answers a next state in which the context goes on at `pc` and nothing else has changed. -/
def Goes (i : Instr) (s : State) (pc : Nat) : Prop :=
  ∃ t, exec i s = .next t ∧ OnlyCtx s t ∧ RegsOnly s.cx t.cx ∧ RegsSame s.cx t.cx ∧ Retired s t pc

/-- The word answers a next state in which the next word follows, the core is `c`, its contexts aside, and nothing else has changed. -/
def GoesCore (i : Instr) (s : State) (c : Core) : Prop :=
  ∃ t, exec i s = .next t ∧ CoreIs s t c ∧ RegsOnly s.cx t.cx ∧ RegsSame s.cx t.cx ∧ Retired s t (s.cx.pc + 4)

/-- The same, with `d` written. -/
def GivesCore (i : Instr) (s : State) (c : Core) (d : Reg) (v : Word) : Prop :=
  ∃ t, exec i s = .next t ∧ CoreIs s t c ∧ RegsOnly s.cx t.cx ∧ RegFile s.cx t.cx none d v ∧ Retired s t (s.cx.pc + 4)

/-- The word waits: it has changed no register, and nothing outside its context, and is tried again. -/
def Parks (i : Instr) (s : State) (w : Wait) : Prop :=
  ∃ t, exec i s = .next t ∧ OnlyCtx s t ∧ RegsSame s.cx t.cx ∧ t.cx.run = .parked w ∧ t.cx.pc = s.cx.pc ∧ t.cx.latch = s.cx.latch

/-- The word answers a next state in which the context goes on at `pc` with `d` written and `e` emptied, and nothing else has changed. -/
def GoesWith (i : Instr) (s : State) (pc : Nat) (e : Option Reg) (d : Reg) (v : Word) : Prop :=
  ∃ t, exec i s = .next t ∧ OnlyCtx s t ∧ RegsOnly s.cx t.cx ∧ RegFile s.cx t.cx e d v ∧ Retired s t pc

/-- The word answers a next state in which register `d` holds `v`, the source `e` it consumes is empty, the next word follows, and
nothing else has changed: no flag, no special register, no byte of memory. -/
def Gives (i : Instr) (s : State) (e : Option Reg) (d : Reg) (v : Word) : Prop := GoesWith i s (s.cx.pc + 4) e d v

/-- The word answers a next state in which the context is `c`, its registers aside, with `e` emptied and `d` written; the next word follows, and
nothing outside the context has changed. -/
def Changes (i : Instr) (s : State) (c : Ctx) (e : Option Reg) (d : Reg) (v : Word) : Prop :=
  ∃ t, exec i s = .next t ∧ OnlyCtx s t ∧ RegsOnly c t.cx ∧ RegFile s.cx t.cx e d v
    ∧ Retired s t (s.cx.pc + 4)

/-- The word has completed at `pc`; registers and memories are as before. -/
def Quiet (s t : State) (pc : Nat) : Prop :=
  RegsSame s.cx t.cx ∧ Retired s t pc ∧ t.gmem = s.gmem ∧ t.me.lmem = s.me.lmem ∧ t.me.istore = s.me.istore

/-- A hint word answers a next state in which its payload is latched and the next word follows; nothing else has changed. -/
def Latches (i : Instr) (s : State) (l : Latch) : Prop :=
  ∃ t, exec i s = .next t ∧ OnlyCtx s t ∧ RegsOnly s.cx t.cx ∧ RegsSame s.cx t.cx ∧ t.cx.latch = l ∧ t.cx.pc = s.cx.pc + 4
    ∧ t.cx.yld = s.cx.yld

/-- The executing context has taken a trap (R89): the cause, the value, the PC, the latch and the level are saved, and it runs at the
handler with the latch empty. Its registers are as before, and nothing outside it has changed. -/
def Trapped (s t : State) (cause : BitVec 8) (eval : Word) : Prop :=
  OnlyCtx s t ∧ t.cx.spr.epc = word s.cx.pc ∧ t.cx.spr.ecause = cause ∧ t.cx.spr.eval = eval ∧ t.cx.spr.hlatch = s.cx.latch
    ∧ t.cx.spr.plev = s.cx.level ∧ t.cx.spr.inh = true ∧ t.cx.spr.upc = false ∧ t.cx.spr.str = (s.cx.mode != .loc)
    ∧ t.cx.pc = 4 * (s.cx.spr.tvec.toNat / 4) ∧ t.cx.latch = Latch.empty ∧ t.cx.mode = .loc ∧ t.cx.level = s.cx.level
    ∧ RegsSame s.cx t.cx

/-- The word answers the state that a trap enters. -/
def Traps (i : Instr) (s : State) (cause : BitVec 8) (eval : Word) : Prop :=
  ∃ t, exec i s = .next t ∧ Trapped s t cause eval

/-- The access of `n` bytes meets no word with a correctable error (R149). -/
def Core.sound (c : Core) (a n : Nat) : Prop := ∀ w ∈ c.weak, 8 * w + 8 ≤ a ∨ a + n ≤ 8 * w

/-- A scalar access to `n` local bytes goes through (R128, R132, R139, R150): aligned, below the stash, outside the core image at level U, no
load of the context under way, no wide-side command of it touches them, no poison, and nothing to correct. -/
def State.localOk (s : State) (a n al : Nat) (write : Bool) : Prop :=
  a % al = 0 ∧ a + n ≤ s.me.stashBase ∧ (s.cx.level = .u → inImage a n = false) ∧ s.cx.load = none
    ∧ s.me.wideTouches s.cur.2 a n = false ∧ (if write then s.me.writePoisoned a n else s.me.poisoned a n) = false ∧ s.me.sound a n

/-- A global access of `n` bytes at `va` (`acc` 0 a load, 1 a store, 2 an atomic) comes at once to the mapped address `pa` (R288) as ordinary memory:
aligned, outside REP, no load of the context under way, no resize of the stash, and the cluster's translation cache holds the page with the right;
register ranges are IO whatever it says (R311). -/
def State.translates (s : State) (va : Word) (n acc pa : Nat) : Prop :=
  va.toNat % n = 0 ∧ s.cx.acc = none ∧ s.cx.load = none ∧ s.cx.rep = none ∧ s.me.spr.stashBusy = false ∧ inMap pa = true
    ∧ ∃ e, (s.clus (clusOf s.cur.1)).lookup (s.trId s.cur.1) va.toNat acc = some e ∧ e.result va.toNat = (pa, if isReg pa then 2 else 0)

/-- The access comes so to storage: a slice stores the address. -/
def State.globalAt (s : State) (va : Word) (n acc pa : Nat) : Prop :=
  s.translates va n acc pa ∧ isReg pa = false ∧ s.noStorage pa = false

/-- The access comes so to a register or a window, which the level may use (R298). -/
def State.globalReg (s : State) (va : Word) (n acc pa : Nat) : Prop :=
  s.translates va n acc pa ∧ isReg pa = true ∧ s.paPrivilege s.cur.1 s.cx.level pa (acc ≠ 0) = false

/-- The access in progress has been answered. -/
def State.hasAnswer (s : State) (phase : Nat) (v : Nat) : Prop := ∃ u, s.cx.acc = some ⟨phase, u, some ⟨v, false, none⟩⟩

/-- A byte as local memory holds it at an address: the two reserved bits of a descriptor read 0 (R4, Table 9.4). -/
def asHeld (a : Nat) (b : Byte) : Byte := if 0x1E000 ≤ a ∧ a < 0x1E400 ∧ a % 32 = 28 then b &&& 0xFC#8 else b

/-- The bytes at `a` of the core's local memory are now `bs`, a descriptor's reserved bits aside; every other byte of it is as before, poison of
wholly covered words is healed, and nothing else outside the executing context changed. -/
def LocalStored (s t : State) (a : Nat) (bs : List Byte) : Prop :=
  OnlyCore s t s.cur.1 ∧ (∀ i, (h : i < bs.length) → mget t.me.lmem (a + i) = asHeld (a + i) bs[i])
    ∧ (∀ b, b < a ∨ a + bs.length ≤ b → mget t.me.lmem b = mget s.me.lmem b) ∧ t.me.lbad = heal s.me.lbad a bs.length
    ∧ { t.me with ctxs := [], lmem := [], lbad := [] } = { s.me with ctxs := [], lmem := [], lbad := [] }
    ∧ ∀ y, y ≠ s.cur.2 → kget t.me.ctxs y = kget s.me.ctxs y

/-- The context waits with an access in progress: no register has changed and the word will be tried again. -/
def Waits (s t : State) (phase : Nat) : Prop :=
  RegsSame s.cx t.cx ∧ t.cx.pc = s.cx.pc ∧ t.cx.latch = s.cx.latch ∧ t.cx.run = .parked .memory ∧ t.cx.acc = some ⟨phase, s.uid, none⟩

/-- A handler can be entered (R89, R90), and no load under way has its trap before it (R139). -/
def State.canTrap (s : State) : Prop := s.cx.spr.tvec.getLsbD 0 = true ∧ s.cx.spr.inh = false ∧ s.cx.load = none

/-! ### Steps beside the words -/

/-- The step answers a next state of which `P` holds. -/
def Answers (i : Instr) (s : State) (P : State → Prop) : Prop := ∃ t, exec i s = .next t ∧ P t

/-- Nothing changed but core `k` and the messages under way. -/
def OnlyCoreNet (s t : State) (k : Nat) : Prop := { t with cores := s.cores, net := s.net } = s ∧ ∀ j, j ≠ k → t.core j = s.core j

/-- Nothing changed but cluster `c`. -/
def OnlyClus (s t : State) (c : Nat) : Prop := { t with clusters := s.clusters } = s ∧ ∀ j, j ≠ c → t.clus j = s.clus j

/-- The messages once message `n` has been taken and answered with `b` (R287). -/
def State.replied (s : State) (m : Msg) (n : Nat) (b : Body) : List Msg :=
  s.net.eraseIdx n ++ [{ src := m.dst, dst := m.src, vc := 1, terr := none, fab := none, body := b, sentAt := s.now }]

/-- Engine `e` of core `k` takes command `q` next (R49, R192), and its guard stands so (R181). -/
def State.heads (s : State) (k : Nat) (e : Eng) (q : Cmd) (g : GuardSt) : Prop :=
  s.works k = true ∧ ((s.core k).eng e).run = none ∧ engOf q.instr = e ∧ (s.core k).guardFor q = g
    ∧ (if e = .push then (s.core k).nextPush else ((s.core k).eng e).next (s.core k).canStart) = some q

/-- The command that is to start came from its context's slot (R197), and the QS entries that it takes have good parity (R317). -/
def State.plainStart (s : State) (k : Nat) (q : Cmd) : Prop :=
  q.seq = none ∧ (s.core k).live q.ctx = true ∧ (s.ctx k q.ctx).qsBad.toNat % 2 ^ qsTakes q.instr = 0

/-- The engine's queue has lost the command, whose context is the one served last. -/
def Taken (s t : State) (k : Nat) (e : Eng) (q : Cmd) : Prop :=
  ((t.core k).eng e).queue = ((s.core k).eng e).queue.filter (fun p => p.uid ≠ q.uid) ∧ ((t.core k).eng e).last = q.ctx % 12

/-- A false guard has discarded the command (R181): it has left its queue, its engine served no context by it, and its token has settled. -/
def Discarded (s t : State) (k : Nat) (e : Eng) (q : Cmd) : Prop :=
  OnlyCore s t k ∧ ((t.core k).eng e).queue = ((s.core k).eng e).queue.filter (fun p => p.uid ≠ q.uid)
    ∧ ((t.core k).eng e).last = ((s.core k).eng e).last ∧ ((t.core k).eng e).run = none
    ∧ ((∀ d, tdOf q.instr ≠ some (d, true)) → (t.core k).lmem = (s.core k).lmem)
    ∧ ∀ w, tokOf q.instr = some w → (s.core k).live q.ctx = true → (t.ctx k q.ctx).tok w = ((s.ctx k q.ctx).tok w).settle .discarded

/-- A command of core `k`'s that has written nothing yet: only the core has changed, and neither its memory nor the context's registers. -/
def Reads (s t : State) (k x : Nat) : Prop :=
  OnlyCore s t k ∧ (t.core k).lmem = (s.core k).lmem ∧ (t.core k).lbad = (s.core k).lbad ∧ RegsSame (s.ctx k x) (t.ctx k x)

/-- If the context is live, the token that the command names has settled with this ending (R183). -/
def TokSettled (s t : State) (k : Nat) (q : Cmd) (e : Ending) : Prop :=
  ∀ w, tokOf q.instr = some w → (s.core k).live q.ctx = true → (t.ctx k q.ctx).tok w = ((s.ctx k q.ctx).tok w).settle e

/-- The verdict on a command has reached the context that waits for it (R209, R258). -/
def VerdictGiven (s t : State) (k : Nat) (q : Cmd) (v : Nat) (cause : Option (BitVec 8)) : Prop :=
  q.waited = true → (s.core k).live q.ctx = true → (t.ctx k q.ctx).acc = some ⟨phVerdict, q.uid, some ⟨v, false, cause⟩⟩

/-- An acknowledgement, or a refusal with its cause, has reached operation `uid` of core `q` (R136, R183, R184, R287): its count has fallen, with its last the
operation has ended and its token settled, and an access that waited for it has its answer. -/
def Acked (s t : State) (q uid : Nat) (cause : Option (BitVec 8)) : Prop :=
  OnlyCoreNet s t q
    ∧ (∀ o, (s.core q).out uid = some o → o.left = 1 → o.sending = false → o.td = none →
        (t.core q).out uid = none
          ∧ ∀ w, o.tok = some w → (s.core q).live o.ctx = true →
              (t.ctx q o.ctx).tok w = ((s.ctx q o.ctx).tok w).settle (match o.cause.or cause with | some c => .faulted c | none => .ok))
    ∧ (∀ o, (s.core q).out uid = some o → 1 < o.left → (t.core q).out uid = some { o with left := o.left - 1, cause := o.cause.or cause })
    ∧ ∀ x p, (s.core q).live x = true → (s.ctx q x).load = none → (s.ctx q x).acc = some ⟨p, uid, none⟩ → (p = 2 ∨ p = 4 ∨ p = 5 ∨ p = 6) →
        (t.ctx q x).acc = some ⟨p, uid, some ⟨0, false, cause⟩⟩

end Sys2Proof.Machine
end

