-- ==== Sys2Proof/Certificates/Slice0/Obligations.lean ====
section
/-! DEFINITION. The statements for the provers. -/

open Sys2Proof Sys2Proof.Machine

/-! ### ALU and ALUI -/

/-- R107, Table 6.2: every ALU word writes its function of its sources to rd, and with .take empties ra (R38). The context issues in order and its sources are
full. The divisions, with zero as divisor and the most negative dividend over −1 as the entries say, satisfy a = q · b + r; SEL and MADD read three sources; CLZ,
CTZ and POPC give the count that their result's bits show. -/
def Obligations.AluFunctions : Prop :=
  (∀ (s : State) (d a b : Reg) (w : Bool), s.ready .u → s.readable [a, b] → takeOk a w = true →
      let x := s.cx.reg a
      let y := s.cx.reg b
      let e : Option Reg := if w then some a else none
      Gives (.add d a b w) s e d (x + y)
      ∧ Gives (.sub d a b w) s e d (x - y)
      ∧ Gives (.andR d a b w) s e d (x &&& y)
      ∧ Gives (.orR d a b w) s e d (x ||| y)
      ∧ Gives (.xorR d a b w) s e d (x ^^^ y)
      ∧ Gives (.andn d a b w) s e d (x &&& ~~~y)
      ∧ Gives (.shl d a b w) s e d (x <<< (y.toNat % 64))
      ∧ Gives (.shr d a b w) s e d (x >>> (y.toNat % 64))
      ∧ Gives (.sra d a b w) s e d (x.sshiftRight (y.toNat % 64))
      ∧ Gives (.rotl d a b w) s e d (x.rotateLeft (y.toNat % 64))
      ∧ Gives (.mul d a b w) s e d (BitVec.ofInt 64 (x.toInt * y.toInt))
      ∧ Gives (.mulhs d a b w) s e d (BitVec.ofInt 64 (x.toInt * y.toInt / 2 ^ 64))
      ∧ Gives (.mulhn d a b w) s e d (BitVec.ofNat 64 (x.toNat * y.toNat / 2 ^ 64))
      ∧ Gives (.mins d a b w) s e d (if x.toInt ≤ y.toInt then x else y)
      ∧ Gives (.minn d a b w) s e d (if x.toNat ≤ y.toNat then x else y)
      ∧ Gives (.maxs d a b w) s e d (if y.toInt ≤ x.toInt then x else y)
      ∧ Gives (.maxn d a b w) s e d (if y.toNat ≤ x.toNat then x else y)
      ∧ Gives (.slts d a b w) s e d (if x.toInt < y.toInt then 1 else 0)
      ∧ Gives (.sltn d a b w) s e d (if x.toNat < y.toNat then 1 else 0)
      ∧ Gives (.seq d a b w) s e d (if x = y then 1 else 0))
  ∧ (∀ (s : State) (d a b : Reg) (w : Bool), s.ready .u → s.readable [a, b] → takeOk a w = true →
      let x := s.cx.reg a
      let y := s.cx.reg b
      let e : Option Reg := if w then some a else none
      let qs := if y = 0 then BitVec.allOnes 64
                else if x = BitVec.intMin 64 ∧ y = BitVec.allOnes 64 then BitVec.intMin 64
                else BitVec.ofInt 64 (x.toInt.tdiv y.toInt)
      let rs := if y = 0 then x
                else if x = BitVec.intMin 64 ∧ y = BitVec.allOnes 64 then 0
                else BitVec.ofInt 64 (x.toInt.tmod y.toInt)
      let qn := if y = 0 then BitVec.allOnes 64 else x / y
      let rn := if y = 0 then x else x % y
      Gives (.divs d a b w) s e d qs ∧ Gives (.divn d a b w) s e d qn ∧ Gives (.rems d a b w) s e d rs ∧ Gives (.remn d a b w) s e d rn
      ∧ qs * y + rs = x ∧ qn * y + rn = x)
  ∧ (∀ (s : State) (d a b c : Reg) (w : Bool), s.ready .u → takeOk a w = true →
      let x := s.cx.reg a
      let e : Option Reg := if w then some a else none
      (s.readable [a, b, c] →
        Gives (.sel d a b w c) s e d (if s.cx.reg c ≠ 0 then x else s.cx.reg b)
        ∧ Gives (.madd d a b w c) s e d (x * s.cx.reg b + s.cx.reg c))
      ∧ (s.readable [a] →
        Gives (.popc d a w) s e d (BitVec.ofNat 64 ((List.range 64).countP (fun k => x.getLsbD k)))
        ∧ (∃ n, n ≤ 64 ∧ (∀ k, 64 - n ≤ k → x.getLsbD k = false) ∧ (n < 64 → x.getLsbD (63 - n) = true)
              ∧ Gives (.clz d a w) s e d (BitVec.ofNat 64 n))
        ∧ ∃ n, n ≤ 64 ∧ (∀ k, k < n → x.getLsbD k = false) ∧ (n < 64 → x.getLsbD n = true)
              ∧ Gives (.ctz d a w) s e d (BitVec.ofNat 64 n)))

/-- R109, R39, Table 6.5: an ALUI word writes its function of g[ra] and its immediate, which is sign-extended from 12, 38 or 64 bits as the latch holds none, one or
two HIMM words. A shift by more than 63 traps ILLEGAL_OP at the ALUI word. -/
def Obligations.AluImmediates : Prop :=
  ∀ (s : State) (d a : Reg) (m : BitVec 12), s.cleared .u → s.inOrder → s.readable [a] →
    let x := s.cx.reg a
    let i : Word :=
      if s.cx.latch.imx = 0 then m.signExtend 64
      else if s.cx.latch.imx = 1 then (s.cx.latch.mid ++ m : BitVec 38).signExtend 64
      else (s.cx.latch.hi ++ s.cx.latch.mid ++ m : BitVec 64)
    Gives (.addi d a m) s none d (x + i)
    ∧ Gives (.andi d a m) s none d (x &&& i)
    ∧ Gives (.ori d a m) s none d (x ||| i)
    ∧ Gives (.xori d a m) s none d (x ^^^ i)
    ∧ Gives (.sltsi d a m) s none d (if x.toInt < i.toInt then 1 else 0)
    ∧ Gives (.sltni d a m) s none d (if x.toNat < i.toNat then 1 else 0)
    ∧ Gives (.seqi d a m) s none d (if x = i then 1 else 0)
    ∧ Gives (.muli d a m) s none d (x * i)
    ∧ Gives (.ldi d m) s none d i
    ∧ (i.toNat ≤ 63 →
        Gives (.shli d a m) s none d (x <<< i.toNat)
        ∧ Gives (.shri d a m) s none d (x >>> i.toNat)
        ∧ Gives (.srai d a m) s none d (x.sshiftRight i.toNat))
    ∧ (63 < i.toNat → s.canTrap →
        Traps (.shli d a m) s 0x01 (wordOf (.shli d a m)) ∧ Traps (.shri d a m) s 0x01 (wordOf (.shri d a m))
        ∧ Traps (.srai d a m) s 0x01 (wordOf (.srai d a m)))

/-! ### Branches, jumps and calls -/

/-- The target of a PC-relative transfer. -/
def Obligations.targetOf (s : State) (off : Int) : Word := BitVec.ofInt 64 (s.cx.pc + 4 * off)

/-- A target that a transfer accepts (R34). -/
def Obligations.targetOk (t : Word) : Prop := t.toNat % 4 = 0 ∧ t.toNat < 0x8000

/-- The transfer to `t` is checked (R34): a misaligned target traps MISALIGNED, one outside the instruction store LOCAL_BOUNDS, with the target in EVAL, and nothing
else of the word takes effect. -/
def Obligations.Checked (i : Instr) (s : State) (t : Word) : Prop :=
  s.canTrap → (t.toNat % 4 ≠ 0 → Traps i s 0x03 t) ∧ (t.toNat % 4 = 0 → 0x8000 ≤ t.toNat → Traps i s 0x04 t)

/-- The context parks until register `a` is full (R87, R105). -/
def Obligations.ParksOn (i : Instr) (s : State) (a : Reg) : Prop :=
  ∃ t, exec i s = .next t ∧ OnlyCtx s t ∧ RegsSame s.cx t.cx ∧ t.cx.run = .parked (.reg a) ∧ t.cx.pc = s.cx.pc ∧ t.cx.latch = s.cx.latch

/-- R110, R111, Table 6.6: a branch goes to its target, which is checked, exactly when its condition holds, and to the next word otherwise. The six value conditions
read g[ra] and park while it is empty; BFULL and BEMPTY test its full bit alone, whatever it is, and g0 tests full. With the examples' words. -/
def Obligations.Branches : Prop :=
  (∀ (s : State) (a : Reg) (o : BitVec 18), s.ready .u →
      let x := s.cx.reg a
      let t := Obligations.targetOf s o.toInt
      let Br : Instr → Prop → Prop := fun i c =>
        (c → (Obligations.targetOk t → Goes i s t.toNat) ∧ Obligations.Checked i s t) ∧ (¬c → Goes i s (s.cx.pc + 4))
      let E : Instr → Prop := fun i => s.cx.isFull a = false → s.cx.isBad a = false → s.cx.loading a = false → Obligations.ParksOn i s a
      (s.readable [a] →
        Br (.beqz a o) (x = 0)
        ∧ Br (.bnez a o) (x ≠ 0)
        ∧ Br (.bltz a o) (x.toInt < 0)
        ∧ Br (.bgez a o) (0 ≤ x.toInt)
        ∧ Br (.bgtz a o) (0 < x.toInt)
        ∧ Br (.blez a o) (x.toInt ≤ 0))
      ∧ E (.beqz a o) ∧ E (.bnez a o) ∧ E (.bltz a o) ∧ E (.bgez a o) ∧ E (.bgtz a o) ∧ E (.blez a o)
      ∧ Br (.bfull a o) (s.cx.isFull a = true)
      ∧ Br (.bempty a o) (s.cx.isFull a = false)
      ∧ s.cx.isFull 0 = true)
  ∧ decode 0x08E7FFFB#32 = some (.bnez 7 (-5)) ∧ decode 0x09380003#32 = some (.bfull 9 3)

/-- R112, R113, Tables 6.8 and 6.9: JMP and CALL go to a PC-relative target, JR, CALLR and RET to a register's value, each checked; CALL and CALLR leave the address
after them in g31, and CALLR g31 goes to the old value of g31. A target register that is empty parks; .take empties it. With the examples' words. -/
def Obligations.Jumps : Prop :=
  (∀ (s : State) (a : Reg) (o : BitVec 26) (w : Bool), s.ready .u →
      let t := Obligations.targetOf s o.toInt
      let next : Word := BitVec.ofNat 64 (s.cx.pc + 4)
      let e : Option Reg := if w then some a else none
      (Obligations.targetOk t → Goes (.jmp o) s t.toNat ∧ GoesWith (.call o) s t.toNat none 31 next)
      ∧ Obligations.Checked (.jmp o) s t ∧ Obligations.Checked (.call o) s t
      ∧ (s.readable [a] → takeOk a w = true →
          (Obligations.targetOk (s.cx.reg a) →
            GoesWith (.callr a w) s (s.cx.reg a).toNat e 31 next
            ∧ ∃ u, exec (.jr a w) s = .next u ∧ OnlyCtx s u ∧ RegsOnly s.cx u.cx ∧ Retired s u (s.cx.reg a).toNat
                ∧ (∀ r, u.cx.reg r = s.cx.reg r) ∧ ∀ r, u.cx.isFull r = (s.cx.isFull r && !(e == some r && r != 0)))
          ∧ Obligations.Checked (.jr a w) s (s.cx.reg a) ∧ Obligations.Checked (.callr a w) s (s.cx.reg a))
      ∧ (s.readable [31] → (Obligations.targetOk (s.cx.reg 31) → Goes .ret s (s.cx.reg 31).toNat) ∧ Obligations.Checked .ret s (s.cx.reg 31))
      ∧ (s.cx.isFull a = false → s.cx.isBad a = false → s.cx.loading a = false → Obligations.ParksOn (.jr a w) s a ∧ Obligations.ParksOn (.callr a w) s a)
      ∧ (s.cx.isFull 31 = false → s.cx.isBad 31 = false → s.cx.loading 31 = false → Obligations.ParksOn .ret s 31))
  ∧ decode 0x0FFFFFFE#32 = some (.jmp (-2)) ∧ decode 0x10000010#32 = some (.call 16) ∧ decode 0x14050000#32 = some (.jr 5 false)
  ∧ decode 0x14060020#32 = some (.callr 6 false) ∧ decode 0x14000040#32 = some .ret

/-! ### Hints, traps and returns -/

/-- R44: a word of a major that Table 2.14 leaves out decodes to none and traps ILLEGAL_OP precisely, whatever its other bits hold; the word of all zeros is an ADD that
changes nothing. R90: with no handler enabled or inside one, context 0 and the ballonet stop with the cause, the value and the PC saved, and the die supervisor is
told; a helper ends with kind 1 and the cause. -/
def Obligations.IllegalWords : Prop :=
  (∀ (s : State) (w : BitVec 32), (0x26 ≤ w.toNat / 2 ^ 26 ∧ w.toNat / 2 ^ 26 ≤ 0x2F) ∨ 0x34 ≤ w.toNat / 2 ^ 26 →
    decode w = none ∧ decodeOr w = .illegalWord w
      ∧ (s.inOrder → s.canTrap → Traps (.illegalWord w) s 0x01 (w.zeroExtend 64)))
  ∧ decode 0xFFFFFFFF#32 = none ∧ decode 0x00000000#32 = some (.add 0 0 0 false)
  ∧ (∀ s : State, s.ready .u → s.cx.isBad 0 = false → Goes (.add 0 0 0 false) s (s.cx.pc + 4))
  ∧ (
  ∀ (s : State) (w : BitVec 32), s.cx.rep = none → s.cx.load = none → (s.cx.spr.tvec.getLsbD 0 = false ∨ s.cx.spr.inh = true) →
    ((s.cur.2 = 0 ∨ s.cur.2 = 11) →
      ∃ t m, exec (.illegalWord w) s = .next t ∧ t.cx.run = .stopped .faulted ∧ t.cx.spr.ecause = 0x01
        ∧ t.cx.spr.epc = word s.cx.pc ∧ t.cx.spr.eval = trapVal (.illegalWord w) ∧ RegsSame s.cx t.cx ∧ t.net = s.net ++ [m]
        ∧ m.dst = .core (supOf (dieOf s.cur.1)))
    ∧ (1 ≤ s.cur.2 → s.cur.2 ≤ 10 → (s.me.pending s.cur.2 = false ∨ s.me.retiring < 16) → s.cx.pkt = none →
      ∃ t e, exec (.illegalWord w) s = .next t ∧ t.me.live s.cur.2 = false ∧ kget t.me.ended s.cur.2 = some e
        ∧ e.kind = 1 ∧ e.cause = 0x01))

/-- R45 to R49: each hint word records its payload in the latch; a second HIMM gives the upper bits, a third traps. R124, R147: HALT at
level S stops the context at the address after it, once nothing of it is outstanding; ISYNC goes on once the context's scalar
accesses have taken effect, and no word fetched before it is used after it. -/
def Obligations.HintWords : Prop :=
  (∀ (s : State) (p : BitVec 26) (idle any y : Bool) (m : BitVec 8) (pr sl st : BitVec 2) (w : BitVec 3), s.inOrder →
      let l := s.cx.latch
      (l.imx = 0 → Latches (.himm p) s { l with imx := 1, mid := p })
      ∧ (l.imx = 1 → Latches (.himm p) s { l with imx := 2, hi := p })
      ∧ (2 ≤ l.imx → s.canTrap → Traps (.himm p) s 0x01 (wordOf (.himm p)))
      ∧ Latches (.hwait idle any m) s { l with wait := some (BitVec.ofBool idle ++ BitVec.ofBool any ++ m) }
      ∧ (sl ≠ 3 → st ≠ 3 → Latches (.hcache pr sl st) s { l with cache := some (pr ++ sl ++ st) })
      ∧ Latches (.hsched y w) s { l with sched := some (BitVec.ofBool y ++ w) })
  ∧ (∀ (s : State), s.inOrder → s.cx.latch.imx = 0 →
      (s.cleared .s → s.scalarBusy = false → s.me.pending s.cur.2 = false →
        ∃ t, exec .halt s = .next t ∧ OnlyCtx s t ∧ t.cx.run = .stopped .halted ∧ t.cx.pc = s.cx.pc + 4 ∧ RegsSame s.cx t.cx)
      ∧ (s.cleared .u → s.scalarBusy = false → Goes .isync s (s.cx.pc + 4)
        ∧ ∃ t, exec .isync s = .next t ∧ t.cx.ahead = [])
      ∧ (s.cleared .u → s.scalarBusy = true → Parks .isync s .memory))

/-! ### Memory -/

/-- A field of `n` bytes read as a signed number. -/
def Obligations.signed (n v : Nat) : Int := if v < 2 ^ (8 * n - 1) then v else (v : Int) - 2 ^ (8 * n)

/-- The effective address of a Form M word (R40). -/
def Obligations.eaOf (s : State) (b : Reg) (z : BitVec 2) (f : BitVec 11) : Nat :=
  (s.cx.reg b + BitVec.ofInt 64 (f.toInt * 2 ^ z.toNat)).toNat

/-- R138, R40: LD reads 2^z little-endian bytes of local memory and writes them zero- or sign-extended; it changes nothing else. Table 9.3,
R177: a load of the sequencer and engine state completes, whatever it returns.
What in it is the model's reading and not the spec's words: log entry 24. -/
def Obligations.LocalLoads : Prop :=
  (∀ (s : State) (d b : Reg) (z : BitVec 2) (x : Bool) (o : BitVec 2) (f : BitVec 11),
      s.ready .u → s.readable [b] → loadOk z x o = true →
      let a := Obligations.eaOf s b z f
      let n := 2 ^ z.toNat
      let v := leNat (mread s.me.lmem a n)
      s.localOk a n n false → ¬(0x1E440 ≤ a ∧ a < 0x1E800) →
      Gives (.ld d b z x o f) s none d (if x then BitVec.ofInt 64 (Obligations.signed n v) else BitVec.ofNat 64 v))
  ∧ (∀ (s : State) (d b : Reg) (z : BitVec 2) (x : Bool) (o : BitVec 2) (f : BitVec 11),
      s.ready .u → s.readable [b] → loadOk z x o = true →
      let a := Obligations.eaOf s b z f
      s.localOk a (2 ^ z.toNat) (2 ^ z.toNat) false → 0x1E440 ≤ a → a < 0x1E800 →
      ∃ t v, exec (.ld d b z x o f) s = .next t ∧ RegFile s.cx t.cx none d v ∧ t.me.lmem = s.me.lmem ∧ t.gmem = s.gmem
        ∧ Retired s t (s.cx.pc + 4))

/-- R138, R139: ST writes the low 2^z bytes of rd to the computed local address and no other byte; no register changes. -/
def Obligations.LocalStore : Prop :=
  ∀ (s : State) (d b : Reg) (z : BitVec 2) (o : BitVec 2) (f : BitVec 11),
    s.ready .u → s.readable [b, d] → storeOk o = true →
    let a := Obligations.eaOf s b z f
    let n := 2 ^ z.toNat
    s.localOk a n n true → (o = 2 → s.scalarBusy = false ∧ s.me.wideIdle s.cur.2 = true) →
    ∃ t, exec (.st d b z o f) s = .next t ∧ LocalStored s t a (leBytes n (s.cx.reg d).toNat) ∧ RegsOnly s.cx t.cx
      ∧ RegsSame s.cx t.cx ∧ Retired s t (s.cx.pc + 4)

/-- R140, R141, Table 7.9: a local atomic stores its function of the old value, rb, and for ACAS rd, and returns the old value in rd.
What in it is the model's reading and not the spec's words: log entry 31. -/
def Obligations.LocalAtomics : Prop :=
  ∀ (s : State) (d a b : Reg) (z o : BitVec 2), s.ready .u → s.readable [a, d, b] → 2 ≤ z.toNat →
    let at_ := (s.cx.reg a).toNat
    let n := 2 ^ z.toNat
    let old := leNat (mread s.me.lmem at_ n)
    let y := (s.cx.reg b).toNat % 2 ^ (8 * n)
    let c := (s.cx.reg d).toNat % 2 ^ (8 * n)
    let sg := Obligations.signed n
    let Amo : Instr → Nat → Prop := fun i new =>
      ∃ t, exec i s = .next t ∧ LocalStored s t at_ (leBytes n new) ∧ RegsOnly s.cx t.cx
        ∧ RegFile s.cx t.cx none d (if n = 4 then BitVec.ofInt 64 (sg old) else BitVec.ofNat 64 old) ∧ Retired s t (s.cx.pc + 4)
    s.localOk at_ n n false → (2 ≤ o.toNat → s.scalarBusy = false ∧ s.me.wideIdle s.cur.2 = true) →
    Amo (.aadd d a b z o) ((old + y) % 2 ^ (8 * n))
    ∧ Amo (.aswap d a b z o) y
    ∧ Amo (.acas d a b z o) (if old = c then y else old)
    ∧ Amo (.amins d a b z o) (if sg old ≤ sg y then old else y)
    ∧ Amo (.amaxs d a b z o) (if sg y ≤ sg old then old else y)
    ∧ Amo (.aminn d a b z o) (min old y)
    ∧ Amo (.amaxn d a b z o) (max old y)
    ∧ Amo (.aand d a b z o) (old &&& y)
    ∧ Amo (.aor d a b z o) (old ||| y)
    ∧ Amo (.axor d a b z o) (old ^^^ y)

/-- R128, R54: a scalar local access that breaks a rule traps with the address: PRIVILEGE in the core image at level U, MISALIGNED, LOCAL_BOUNDS at the
stash.
What in it is the model's reading and not the spec's words: log entries 71 and 93. -/
def Obligations.LocalAccessTraps : Prop :=
  ∀ (s : State) (d b : Reg) (z : BitVec 2) (f : BitVec 11), s.ready .u → s.canTrap → s.readable [b, d] →
    let a := Obligations.eaOf s b z f
    let n := 2 ^ z.toNat
    let Bad : BitVec 8 → Prop := fun c =>
      Traps (.ld d b z false 0 f) s c (BitVec.ofNat 64 a) ∧ Traps (.st d b z 0 f) s c (BitVec.ofNat 64 a)
    (s.cx.level = .u → inImage a 1 = true → Bad 0x05)
    ∧ (¬(s.cx.level = .u ∧ inImage a 1 = true) → a % n ≠ 0 → Bad 0x03)
    ∧ (¬(s.cx.level = .u ∧ inImage a 1 = true) → a % n = 0 → s.me.stashBase < a + n → Bad 0x04)

/-- A core after an acquire of the lines that `p` selects: no clean word of them is valid, and what is on its way to them validates none. -/
def Obligations.cleaned (c : Core) (p : Line → Bool) : Core :=
  { c with
    lines := c.lines.map (fun e => if p e.2 then (e.1, { e.2 with v := e.2.v &&& e.2.d }) else e)
    fills := c.fills.map (fun f => if c.lines.any (fun e => e.2.tag == f.line && p e.2) then { f with mask := 0 } else f) }

/-- How recently a way of the stash was used: one with no line ranks lowest. -/
def Obligations.age (c : Core) (j : Nat) : Nat := ((kget c.lines j).map (·.lru)).getD 0

/-- Way `i` is the one that a line for `pa` takes (R135): the least recently used of its set, the lowest of several. -/
def Obligations.victim (c : Core) (pa i : Nat) : Prop :=
  i / 8 = pa / 64 % c.stashSets
    ∧ ∀ j, j / 8 = i / 8 → Obligations.age c i ≤ Obligations.age c j ∧ (Obligations.age c j = Obligations.age c i → i ≤ j)

/-- Way `i` now holds a line for `pa` with these valid and dirty words (R135): the most recently used, or under evict-first (`cool`) the next of
its set to go (R48). No other line has changed but in its age. -/
def Obligations.Allocated (s t : State) (i va pa : Nat) (cool : Bool) (v d : BitVec 16) : Prop :=
  kget t.me.lines i = some ⟨pa / 64, v, d, s.me.regionOf va, if cool then 1 else s.me.lruTick⟩
    ∧ ∀ j, j ≠ i → kget t.me.lines j
        = (kget s.me.lines j).map (fun l => { l with lru := if cool ∧ j / 8 = i / 8 then l.lru + 1 else l.lru })

/-- What the line in way `i` sends as it goes, or is read by an acquire: its dirty words, in one masked write to their home slice (R135). -/
def Obligations.Evicts (s : State) (i : Nat) (ms : List Msg) : Prop :=
  ((∀ l, kget s.me.lines i = some l → l.d = 0) → ms = [])
    ∧ ∀ l, kget s.me.lines i = some l → l.d ≠ 0 → ∃ w r, ms = [w] ∧ w.dst = .slice (homeOf (64 * l.tag)) ∧ w.body = .req r
        ∧ r.core = s.cur.1 ∧ r.pa = 64 * l.tag
        ∧ r.op = .write (maskedCells s.me.lmem (s.me.lineData i) (64 * l.tag) l.d) (s.me.lineBad i (64 * l.tag) l.d)

/-- Message `m` asks the home slice for the merging fill `u` of the line of `pa` (R135), which is under way. -/
def Obligations.FillAsked (s t : State) (pa u : Nat) (cool : Bool) (m : Msg) : Prop :=
  (⟨u, pa / 64, 0xFFFF, cool⟩ : Fill) ∈ t.me.fills ∧ m.dst = .slice (homeOf (pa / 64 * 64))
    ∧ ∃ r, m.body = .req r ∧ r.op = .fill ∧ r.pa = pa / 64 * 64 ∧ r.uid = u ∧ r.core = s.cur.1 ∧ r.ctx = s.cur.2

/-- The context runs on beside its load or atomic, which awaits the answer to request `u` in this phase (R139). -/
def Obligations.LoadGoes (i : Instr) (s t : State) (d : Reg) (va : Word) (phase u : Nat) : Prop :=
  RegsSame s.cx t.cx ∧ Retired s t (s.cx.pc + 4) ∧ ∃ l, t.cx.load = some l ∧ l.rd = d ∧ l.instr = i ∧ l.va = va ∧ l.pc = s.cx.pc
    ∧ l.phase = phase ∧ l.uid = u ∧ l.ans = none ∧ l.lost = false

/-- R135, R138, R139: LDG that hits valid words of the stash returns them. A word that its line lacks makes it ask for the line's merging fill; a
line that the stash lacks is allocated first, its victim's dirty words written back, or under no-allocate, and with no stash, the home slice is
asked for the bytes: the context runs on, the load under way beside it. LDG.acq writes back its line's dirty words, asks the home slice and
waits. An answer in the word's own hands is returned, by LDG.acq with the clean words of the stash invalidated. Global memory does not
change.
What in it is the model's reading and not the spec's words: log entries 21 and 72. -/
def Obligations.GlobalLoad : Prop :=
  ∀ (s : State) (d b : Reg) (z : BitVec 2) (x : Bool) (f : BitVec 11), s.ready .u → s.readable [b] → loadOk z x 0 = true →
    let va : Word := BitVec.ofNat 64 (Obligations.eaOf s b z f)
    let n := 2 ^ z.toNat
    let val : Nat → Word := fun v => if x then BitVec.ofInt 64 (Obligations.signed n v) else BitVec.ofNat 64 v
    (∀ v, va.toNat % n = 0 → s.hasAnswer 2 v → v / 2 ^ (512 + va.toNat % 64 / 8) % 2 = 0 →
      Gives (.ldg d b z x 0 f) s none d (val (v / 2 ^ (8 * (va.toNat % 64)) % 2 ^ (8 * n))))
    ∧ (∀ v, va.toNat % n = 0 → s.hasAnswer 6 v →
      Gives (.ldg d b z x 0 f) s none d (val v)
      ∧ (s.scalarBusy = false → GivesCore (.ldg d b z x 1 f) s (Obligations.cleaned s.me (fun _ => true)) d (val v)))
    ∧ (∀ pa j l, s.globalAt va n 0 pa → s.me.stashSets ≠ 0 → s.me.findLine pa = some (j, l) → lineMask pa n &&& ~~~l.v = 0 →
        s.me.poisoned (s.me.lineData j + pa % 64) n = false →
        ∃ t, exec (.ldg d b z x 0 f) s = .next t ∧ RegsOnly s.cx t.cx ∧ Retired s t (s.cx.pc + 4)
          ∧ RegFile s.cx t.cx none d (val (leNat (mread s.me.lmem (s.me.lineData j + pa % 64) n))) ∧ t.gmem = s.gmem ∧ t.net = s.net
          ∧ t.me.lmem = s.me.lmem)
    ∧ (∀ pa j l, s.globalAt va n 0 pa → s.me.stashSets ≠ 0 → s.me.findLine pa = some (j, l) → lineMask pa n &&& ~~~l.v ≠ 0 →
        ∃ t m, exec (.ldg d b z x 0 f) s = .next t ∧ Obligations.LoadGoes (.ldg d b z x 0 f) s t d va 2 s.uid ∧ t.net = s.net ++ [m]
          ∧ Obligations.FillAsked s t pa s.uid false m ∧ t.me.lines = s.me.lines ∧ t.gmem = s.gmem ∧ t.me.lmem = s.me.lmem)
    ∧ (∀ pa, s.globalAt va n 0 pa → s.me.stashSets ≠ 0 → s.me.findLine pa = none → s.cx.stashHint ≠ 1 →
        ∃ i t ms m u, Obligations.victim s.me pa i ∧ exec (.ldg d b z x 0 f) s = .next t
          ∧ Obligations.LoadGoes (.ldg d b z x 0 f) s t d va 2 u ∧ Obligations.Evicts s i ms ∧ t.net = s.net ++ ms ++ [m]
          ∧ Obligations.FillAsked s t pa u (s.cx.stashHint == 2) m ∧ Obligations.Allocated s t i va.toNat pa (s.cx.stashHint == 2) 0 0
          ∧ t.gmem = s.gmem ∧ t.me.lmem = s.me.lmem)
    ∧ (∀ pa, s.globalAt va n 0 pa →
        let Asks (m : Msg) (u : Nat) : Prop := m.dst = .slice (homeOf pa) ∧ ∃ r, m.body = .req r ∧ r.op = .read n ∧ r.pa = pa ∧ r.uid = u
          ∧ r.core = s.cur.1
        (s.me.stashSets = 0 ∨ (s.me.findLine pa = none ∧ s.cx.stashHint = 1) →
          ∃ t m, exec (.ldg d b z x 0 f) s = .next t ∧ Obligations.LoadGoes (.ldg d b z x 0 f) s t d va 6 s.uid ∧ t.net = s.net ++ [m]
            ∧ Asks m s.uid ∧ t.me.lines = s.me.lines ∧ t.gmem = s.gmem ∧ t.me.lmem = s.me.lmem)
        ∧ (s.me.findLine pa = none →
          ∃ t m, exec (.ldg d b z x 1 f) s = .next t ∧ Waits s t 6 ∧ t.net = s.net ++ [m] ∧ Asks m s.uid ∧ t.gmem = s.gmem)
        ∧ ∀ j l, s.me.findLine pa = some (j, l) →
          ∃ t ms m u, exec (.ldg d b z x 1 f) s = .next t ∧ RegsSame s.cx t.cx ∧ t.cx.run = .parked .memory ∧ t.cx.acc = some ⟨6, u, none⟩
            ∧ t.cx.pc = s.cx.pc ∧ Obligations.Evicts s j ms ∧ t.net = s.net ++ ms ++ [m] ∧ Asks m u ∧ t.gmem = s.gmem)

/-- R135, R138, R139: STG into a stash line, whole words or parts of words that it holds, writes them there, valid and dirty. A line that the stash
lacks is allocated, its victim's dirty words written back, with no fill for whole words; under no-allocate, and with no stash, the bytes go to
the home slice and the word completes at once. Part of a word that the line lacks asks for the merging fill, waits, and is written once
that has come. STG.rel, with what Table 7.6 names done, sends its bytes to the home slice, into a line that holds or takes them too, which stays as
dirty as it was, and waits for the acknowledgement. So does STG to a register or a window, which sends its write there. The acknowledgement
completes the word.
What in it is the model's reading and not the spec's words: log entries 21 and 72. -/
def Obligations.GlobalStore : Prop :=
  ∀ (s : State) (d b : Reg) (z : BitVec 2) (f : BitVec 11), s.ready .u → s.readable [b, d] →
    let va : Word := BitVec.ofNat 64 (Obligations.eaOf s b z f)
    let n := 2 ^ z.toNat
    let bs := leBytes n (s.cx.reg d).toNat
    let Done (t : State) : Prop := RegsOnly s.cx t.cx ∧ RegsSame s.cx t.cx ∧ Retired s t (s.cx.pc + 4) ∧ t.gmem = s.gmem
    -- the bytes stand in the line of way `j`, and no other byte of local memory has changed
    let InLine (t : State) (j pa : Nat) : Prop :=
      (∀ i, (h : i < bs.length) → mget t.me.lmem (s.me.lineData j + pa % 64 + i) = bs[i])
        ∧ ∀ q, q < s.me.lineData j + pa % 64 ∨ s.me.lineData j + pa % 64 + n ≤ q → mget t.me.lmem q = mget s.me.lmem q
    let Sends (m : Msg) (pa : Nat) : Prop := m.dst = .slice (homeOf pa)
      ∧ ∃ r, m.body = .req r ∧ r.pa = pa ∧ r.uid = s.uid ∧ r.core = s.cur.1 ∧ r.op = .write ((List.range bs.length).zipWith (fun i v => (pa + i, v)) bs) []
    (∀ v o, va.toNat % n = 0 → o = 0 ∨ o = 2 → s.hasAnswer 4 v → Goes (.stg d b z o f) s (s.cx.pc + 4))
    ∧ (∀ pa j l, s.globalAt va n 1 pa → s.me.stashSets ≠ 0 → s.me.findLine pa = some (j, l) → 4 ≤ n ∨ lineMask pa n &&& l.v ≠ 0 →
        s.me.writePoisoned (s.me.lineData j + pa % 64) n = false →
        ∃ t, exec (.stg d b z 0 f) s = .next t ∧ Done t ∧ t.net = s.net ∧ InLine t j pa
          ∧ kget t.me.lines j = some { l with v := l.v ||| lineMask pa n, d := l.d ||| lineMask pa n, lru := s.me.lruTick })
    ∧ (∀ pa j l, s.globalAt va n 1 pa → s.me.stashSets ≠ 0 → s.me.findLine pa = some (j, l) → n < 4 → lineMask pa n &&& l.v = 0 →
        ∃ t m, exec (.stg d b z 0 f) s = .next t ∧ Waits s t 2 ∧ t.net = s.net ++ [m] ∧ Obligations.FillAsked s t pa s.uid false m
          ∧ t.me.lines = s.me.lines ∧ t.gmem = s.gmem ∧ t.me.lmem = s.me.lmem)
    ∧ (∀ pa, s.globalAt va n 1 pa → s.me.stashSets ≠ 0 → s.me.findLine pa = none → s.cx.stashHint ≠ 1 →
        ∃ i, Obligations.victim s.me pa i
          ∧ (4 ≤ n → s.me.writePoisoned (s.me.lineData i + pa % 64) n = false →
              ∃ t, exec (.stg d b z 0 f) s = .next t ∧ Done t ∧ InLine t i pa ∧ (∃ ms, Obligations.Evicts s i ms ∧ t.net = s.net ++ ms)
                ∧ Obligations.Allocated s t i va.toNat pa (s.cx.stashHint == 2) (lineMask pa n) (lineMask pa n))
          ∧ (n < 4 →
              ∃ t ms m u, exec (.stg d b z 0 f) s = .next t ∧ RegsSame s.cx t.cx ∧ t.cx.run = .parked .memory ∧ t.cx.pc = s.cx.pc
                ∧ t.cx.acc = some ⟨2, u, none⟩ ∧ Obligations.Evicts s i ms ∧ t.net = s.net ++ ms ++ [m]
                ∧ Obligations.FillAsked s t pa u (s.cx.stashHint == 2) m ∧ Obligations.Allocated s t i va.toNat pa (s.cx.stashHint == 2) 0 0
                ∧ t.gmem = s.gmem ∧ t.me.lmem = s.me.lmem))
    ∧ (∀ v j l, va.toNat % n = 0 → s.hasAnswer 2 v →
        let pa := 64 * (v / 2 ^ 520) + va.toNat % 64
        s.me.findLine pa = some (j, l) → lineMask pa n &&& l.v ≠ 0 → s.me.writePoisoned (s.me.lineData j + pa % 64) n = false →
        ∃ t, exec (.stg d b z 0 f) s = .next t ∧ Done t ∧ t.net = s.net ∧ InLine t j pa
          ∧ kget t.me.lines j = some { l with v := l.v ||| lineMask pa n, d := l.d ||| lineMask pa n })
    ∧ (∀ pa, s.globalAt va n 1 pa → s.me.stashSets = 0 ∨ (s.me.findLine pa = none ∧ s.cx.stashHint = 1) →
        ∃ t m, exec (.stg d b z 0 f) s = .next t ∧ Done t ∧ t.net = s.net ++ [m] ∧ Sends m pa ∧ t.me.lines = s.me.lines
          ∧ t.me.lmem = s.me.lmem)
    ∧ (∀ pa, s.globalAt va n 1 pa → s.scalarBusy = false → s.me.wideIdle s.cur.2 = true → (∀ e ∈ s.me.lines, e.2.d = 0) →
        s.me.owesAcks s.cur.2 s.uid = false →
        let Released (t : State) : Prop := exec (.stg d b z 2 f) s = .next t ∧ Waits s t 4 ∧ t.gmem = s.gmem ∧ ∃ m, t.net = s.net ++ [m] ∧ Sends m pa
        (s.me.findLine pa = none → ∃ t, Released t ∧ t.me.lines = s.me.lines ∧ t.me.lmem = s.me.lmem)
        ∧ ∀ j l, s.me.findLine pa = some (j, l) →
            (n < 4 → lineMask pa n &&& l.v = 0 → ∃ t, Released t ∧ t.me.lines = s.me.lines ∧ t.me.lmem = s.me.lmem)
            ∧ (4 ≤ n ∨ lineMask pa n &&& l.v ≠ 0 → s.me.writePoisoned (s.me.lineData j + pa % 64) n = false →
                ∃ t, Released t ∧ InLine t j pa ∧ kget t.me.lines j = some { l with v := l.v ||| lineMask pa n }))
    ∧ (∀ pa, s.globalReg va n 1 pa →
        ∃ t m, exec (.stg d b z 0 f) s = .next t ∧ Waits s t 4 ∧ t.net = s.net ++ [m] ∧ m.src = .core s.cur.1 ∧ m.dst = .io
          ∧ m.body = .regWrite s.cur.1 s.cur.2 s.uid s.cx.level (s.terrOf s.cur.1) pa n ((s.cx.reg d).toNat % 2 ^ (8 * n))
          ∧ t.gmem = s.gmem ∧ t.me.lmem = s.me.lmem)

/-- R139, R141: a global atomic sends its function, operand and compare value to the home slice, once per instruction, and returns the old value
that comes back: a plain one beside its context, which runs on; one with an order part to the context, which waits. With its acquire part, the
clean words of the stash are invalid afterwards.
What in it is the model's reading and not the spec's words: log entries 21, 22, 31 and 72. -/
def Obligations.GlobalAtomics : Prop :=
  ∀ (s : State) (d a b : Reg) (z o : BitVec 2) (sc : BitVec 3), s.ready .u → s.readable [a, d, b] → amogOk z sc = true →
    let va := s.cx.reg a
    let n := 2 ^ z.toNat
    let Amo : Instr → Nat → Prop := fun i code =>
      (∀ old, va.toNat % n = 0 → s.hasAnswer 5 old → (o.getLsbD 0 = true → s.scalarBusy = false) →
        GivesCore i s (if o.getLsbD 0 ∧ 1 ≤ sc.toNat then Obligations.cleaned s.me (fun _ => true) else s.me) d
          (if n = 4 then BitVec.ofInt 64 (Obligations.signed 4 old) else BitVec.ofNat 64 old))
      ∧ ∀ pa, s.globalAt va n 2 pa → s.me.stashSets = 0 →
        (o.getLsbD 1 = true → s.scalarBusy = false ∧ s.me.wideIdle s.cur.2 = true
          ∧ (1 ≤ sc.toNat → (∀ e ∈ s.me.lines, e.2.d = 0) ∧ s.me.owesAcks s.cur.2 s.uid = false) ∧ (sc = 4 → s.me.owesFabric s.cur.2 s.uid = false)) →
        ∃ t m r, exec i s = .next t ∧ t.net = s.net ++ [m] ∧ m.dst = .slice (homeOf pa) ∧ m.body = .req r ∧ r.pa = pa
          ∧ r.op = .atomic code n ((s.cx.reg b).toNat % 2 ^ (8 * n)) ((s.cx.reg d).toNat % 2 ^ (8 * n)) ∧ r.uid = s.uid
          ∧ (o = 0 → RegsSame s.cx t.cx ∧ Retired s t (s.cx.pc + 4)
              ∧ ∃ l, t.cx.load = some l ∧ l.rd = d ∧ l.instr = i ∧ l.phase = 5 ∧ l.uid = s.uid ∧ l.ans = none ∧ l.lost = false)
          ∧ (o ≠ 0 → Waits s t 5)
    Amo (.aaddg d a b z o sc) 0
    ∧ Amo (.aswapg d a b z o sc) 1
    ∧ Amo (.acasg d a b z o sc) 2
    ∧ Amo (.aminsg d a b z o sc) 3
    ∧ Amo (.amaxsg d a b z o sc) 4
    ∧ Amo (.aminng d a b z o sc) 5
    ∧ Amo (.amaxng d a b z o sc) 6
    ∧ Amo (.aandg d a b z o sc) 7
    ∧ Amo (.aorg d a b z o sc) 8
    ∧ Amo (.axorg d a b z o sc) 9

/-- What a release has still to wait for: acknowledgements older than `u` beyond the core, and at scope fab pushes to other packages. -/
def Obligations.owes (s : State) (sc u : Nat) : Prop :=
  (1 ≤ sc ∧ s.me.owesAcks s.cur.2 u = true) ∨ (sc = 4 ∧ s.me.owesFabric s.cur.2 u = true)

/-- The dirty words of line `l`, which has index `j`, are on their way to their home slice. -/
def Obligations.WrittenBack (s t : State) (j : Nat) (l : Line) : Prop :=
  ∃ m ∈ t.net, ∃ r bad, m.dst = .slice (homeOf (64 * l.tag)) ∧ m.body = .req r ∧ r.core = s.cur.1
    ∧ r.op = .write (maskedCells s.me.lmem (s.me.lineData j) (64 * l.tag) l.d) bad

/-- The word has begun to wait for acknowledgements of what was sent before `t.uid`: no register has changed. -/
def Obligations.Awaits (s t : State) (phase : Nat) : Prop :=
  RegsSame s.cx t.cx ∧ t.cx.run = .parked .memory ∧ t.cx.pc = s.cx.pc ∧ t.cx.latch = s.cx.latch ∧ t.cx.acc = some ⟨phase, t.uid, none⟩
    ∧ t.gmem = s.gmem ∧ t.me.lmem = s.me.lmem

/-- The release part of a word at a scope, over the lines that `p` selects (Table 7.6): it waits for the context's scalar accesses and its
wide side, writes back the dirty lines, waits for the acknowledgements, and completes with the core as `c`. -/
def Obligations.Releases (i : Instr) (s : State) (sc : Nat) (p : Line → Bool) (c : Core) : Prop :=
  ((∀ u r, s.cx.acc ≠ some ⟨3, u, r⟩) →
    (s.scalarBusy = true → Parks i s .memory)
    ∧ (s.scalarBusy = false → s.me.wideIdle s.cur.2 = false → Parks i s .wide)
    ∧ (s.scalarBusy = false → s.me.wideIdle s.cur.2 = true →
        ((1 ≤ sc → ∀ e ∈ s.me.lines, p e.2 = true → e.2.d = 0) →
          (¬Obligations.owes s sc s.uid → GoesCore i s c)
          ∧ (Obligations.owes s sc s.uid → ∃ t, exec i s = .next t ∧ Obligations.Awaits s t 3 ∧ OnlyCtx s t))
        ∧ ∀ j l, 1 ≤ sc → kget s.me.lines j = some l → p l = true → l.d ≠ 0 →
            ∃ t, exec i s = .next t ∧ Obligations.Awaits s t 3 ∧ Obligations.WrittenBack s t j l
              ∧ kget t.me.lines j = some { l with d := 0 }))
  ∧ ∀ u r, s.cx.acc = some ⟨3, u, r⟩ → (¬Obligations.owes s sc u → GoesCore i s c) ∧ (Obligations.owes s sc u → Parks i s .memory)

/-- R142, R143: FENCE.wide waits for the context's wide-side commands, a release for what Table 7.6 names, an acquire for the context's scalar
accesses; then it completes. With an acquire part beyond the core no clean word of the stash is valid afterwards, and with a release part
beyond the core every dirty line is written back first.
What in it is the model's reading and not the spec's words: log entry 21. -/
def Obligations.Fences : Prop :=
  ∀ (s : State) (o : BitVec 2) (sc : BitVec 3), s.ready .u → sc.toNat ≤ 4 →
    let after : Core := if o.getLsbD 0 ∧ 1 ≤ sc.toNat then Obligations.cleaned s.me (fun _ => true) else s.me
    (s.me.wideIdle s.cur.2 = true → Goes (.fence 1 0 0) s (s.cx.pc + 4))
    ∧ (s.me.wideIdle s.cur.2 = false → Parks (.fence 1 0 0) s .wide)
    ∧ (o = 1 → (s.scalarBusy = false → GoesCore (.fence 0 o sc) s after) ∧ (s.scalarBusy = true → Parks (.fence 0 o sc) s .memory))
    ∧ (2 ≤ o.toNat → Obligations.Releases (.fence 0 o sc) s sc.toNat (fun _ => true) after)

/-! ### Special registers, links, pointers and queues -/

/-- R51, R52, Table 2.21, R24, R119, R120: MFS returns the register's value: the numbers of the machine, the exception registers, the registers of
the core; R88: ESTAT's fields; Table 2.18: HLATCH's; R275: TASKK is the task's key and ENERGY the cluster's allowance and bucket, which is not
written. NFLAG waits for the context's vector commands. MTS writes the register, reserved bits ignored, and no general register changes; ESTAT
takes no level above the context's (R88), and MSAVE, TRWIN, FRING and BGTAB refuse an enabled value that names no legal window or area (R261,
R303, R315, R330). R103, Table 5.9: HBTIV is read at U and written at T, in units of 1,024 cc; a write reloads the burner count, and 0 disables the
burner.
What in it is the model's reading and not the spec's words: log entries 65, that HLATCH keeps the payload of
a hint that it marks as not latched, and 66, that a write of NFLAG bars the commands issued before it. -/
def Obligations.SpecialAccess : Prop :=
  (∀ (s : State) (d : Reg), s.ready .u →
      let G : BitVec 11 → Word → Prop := fun n v => Gives (.mfs d n) s none d v
      let c := s.cx.spr
      let b (p : Bool) (n : Nat) : Nat := if p then n else 0
      G 0 (BitVec.ofNat 64 s.cur.2)
      ∧ G 1 (BitVec.ofNat 64 s.cur.1)
      ∧ G 2 (BitVec.ofNat 64 (clusOf s.cur.1))
      ∧ G 3 (BitVec.ofNat 64 (s.terrOf s.cur.1))
      ∧ G 4 ((s.terr (s.terrOf s.cur.1)).gen.zeroExtend 64)
      ∧ G 6 (BitVec.ofNat 64 (s.now - (s.stat s.cur.1).cyc0))
      ∧ G 7 c.epc ∧ G 8 (c.ecause.zeroExtend 64) ∧ G 9 c.eval
      ∧ G 10 (BitVec.ofNat 64 ((if s.cur.2 = 0 ∧ s.me.upq ≠ [] then 1 else 0) + b c.inh 2 + b c.upc 4 + b c.str 8 + 16 * s.cx.level.num
          + 64 * c.plev.num))
      ∧ (c.hlatch.imx ≤ 2 → ∃ v, G 11 v ∧ v.toNat / 2 ^ 23 = c.hlatch.imx ∧ v.getLsbD 22 = c.hlatch.wait.isSome
          ∧ v.getLsbD 21 = c.hlatch.cache.isSome ∧ v.getLsbD 20 = c.hlatch.sched.isSome ∧ (∀ p, c.hlatch.wait = some p → v.toNat / 2 ^ 10 % 2 ^ 10 = p.toNat)
          ∧ (∀ p, c.hlatch.cache = some p → v.toNat / 2 ^ 4 % 2 ^ 6 = p.toNat) ∧ ∀ p, c.hlatch.sched = some p → v.toNat % 2 ^ 4 = p.toNat)
      ∧ G 12 (BitVec.ofNat 64 (s.clus (clusOf s.cur.1)).head.skew)
      ∧ (∀ n, s.me.stream.last = some n → G 13 (BitVec.ofNat 64 n)) ∧ (s.me.stream.last = none → G 13 (BitVec.allOnes 64))
      ∧ (∀ t, s.cx.task = some t → G 14 (BitVec.ofNat 64 (leNat (t.rec_.take 4)))) ∧ (s.cx.task = none → G 14 0)
      ∧ G 15 (BitVec.ofNat 64 ((s.clus (clusOf s.cur.1)).allow % 2 ^ 16 * 2 ^ 32) ||| (BitVec.ofInt 32 (s.clus (clusOf s.cur.1)).bucket).zeroExtend 64)
      ∧ G 16 (c.hbtiv.zeroExtend 64) ∧ G 17 (c.gthr.zeroExtend 64)
      ∧ G 19 (BitVec.ofNat 64 (c.hlatch.mid.toNat + 2 ^ 26 * c.hlatch.hi.toNat)) ∧ G 28 (c.tvec.zeroExtend 64)
      ∧ G 29 (BitVec.ofNat 64 (s.me.spr.stash.toNat + b s.me.spr.stashBusy 256))
      ∧ G 30 s.me.seq.stat ∧ G 31 s.me.spr.blnvec ∧ G 32 s.me.spr.msave
      ∧ G 33 s.me.spr.trwin[0] ∧ G 34 s.me.spr.trwin[1] ∧ G 35 s.me.spr.trwin[2] ∧ G 36 s.me.spr.trwin[3]
      ∧ G 37 (c.tinfo.zeroExtend 64)
      ∧ (isSup s.cur.1 = true → s.cx.level = .s → G 38 s.me.spr.fring ∧ G 39 s.me.spr.bgtab)
      ∧ (s.me.vecBusy s.cur.2 = false → Gives (.nflagRead d) s none d (c.nflag.zeroExtend 64))
      ∧ (s.me.vecBusy s.cur.2 = true → Parks (.nflagRead d) s .wide)
      ∧ ∃ t, exec (.mfs d 5) s = .next t ∧ RegFile s.cx t.cx none d (s.timeFor (s.terrOf s.cur.1)) ∧ Retired s t (s.cx.pc + 4)
          ∧ t.gmem = s.gmem ∧ t.me.lmem = s.me.lmem)
  ∧ (∀ (s : State) (d : Reg), s.cx.latch.imx = 0 → s.cleared .u → s.cx.rep = none → s.cx.mode = .streamed →
      ∃ t, exec (.mfs d 13) s = .next t ∧ RegFile s.cx t.cx none d (BitVec.ofNat 64 s.cx.pc) ∧ t.gmem = s.gmem ∧ t.me.lmem = s.me.lmem)
  ∧ (∀ (s : State) (a : Reg), s.ready .u → s.readable [a] →
      let v := s.cx.reg a
      let c := s.cx.spr
      let f (lo n : Nat) : Nat := v.toNat / 2 ^ lo % 2 ^ n
      let W : BitVec 11 → Spr → Prop := fun n sp => Changes (.mts a n) s { s.cx with spr := sp } none 0 0
      let lv : Level := if f 6 2 = 0 then .u else if f 6 2 = 1 then .t else .s
      W 7 { c with epc := v } ∧ W 8 { c with ecause := v.truncate 8 } ∧ W 9 { c with eval := v } ∧ W 17 { c with gthr := v.truncate 32 }
      ∧ (lv.num ≤ s.cx.level.num → W 10 { c with inh := v.getLsbD 1, upc := v.getLsbD 2, str := v.getLsbD 3, plev := lv })
      ∧ (s.canTrap → s.cx.level.num < lv.num → Traps (.mts a 10) s 0x05 10)
      ∧ W 11 { c with hlatch := { c.hlatch with
                sched := if v.getLsbD 20 then some (BitVec.ofNat 4 (f 0 4)) else none, cache := if v.getLsbD 21 then some (BitVec.ofNat 6 (f 4 6)) else none
                wait := if v.getLsbD 22 then some (BitVec.ofNat 10 (f 10 10)) else none, imx := min (f 23 2) 2, pad := BitVec.ofNat 20 (f 0 20) } }
      ∧ W 18 { c with nflag := v.truncate 6, nflagFrom := s.uid } ∧ W 37 { c with tinfo := v.truncate 8 }
      ∧ W 19 { c with hlatch := { c.hlatch with mid := BitVec.ofNat 26 (f 0 26), hi := BitVec.ofNat 26 (f 26 26) } }
      ∧ W 28 { c with tvec := (v &&& 0x7FFD#64).truncate 15 }
      ∧ (s.canTrap → Traps (.mts a 15) s 0x01 15 ∧ (s.cx.level = .u → Traps (.hbtivWrite a) s 0x05 16)))
  ∧ (∀ (s : State) (a : Reg), s.ready .t → s.readable [a] →
      let v := s.cx.reg a
      let c := s.cx.spr
      let m := s.me.spr
      let f (lo n : Nat) : Nat := v.toNat / 2 ^ lo % 2 ^ n
      let free (x n : Nat) : Prop := inImage x n = false ∧ x + n ≤ s.me.stashBase
      let W : BitVec 11 → CoreSpr → Prop := fun n sp => ∃ t, exec (.mts a n) s = .next t ∧ Quiet s t (s.cx.pc + 4) ∧ t.me.spr = sp
      let Either : BitVec 11 → Prop → CoreSpr → Prop := fun n ok sp => (ok → W n sp) ∧ (¬ok → s.canTrap → Traps (.mts a n) s 0x01 (n.zeroExtend 64))
      let trOk : Prop := v.getLsbD 32 = true → 6 ≤ f 20 6 ∧ f 20 6 ≤ 19 ∧ 64 * f 6 14 % 2 ^ f 20 6 = 0
      (∃ t, exec (.hbtivWrite a) s = .next t ∧ OnlyCtx s t ∧ RegsSame s.cx t.cx ∧ t.cx.spr = { c with hbtiv := v.truncate 32 }
          ∧ t.cx.pc = s.cx.pc + 4 ∧ t.cx.burnLeft t.now = 1024 * (v.toNat % 2 ^ 32))
      ∧ W 31 { m with blnvec := v &&& 0x7FFD#64 }
      ∧ Either 32 (v.getLsbD 0 = true → free (256 * f 8 12) 16768) { m with msave := v &&& 0xFFF01#64 }
      ∧ Either 33 trOk { m with trwin := m.trwin.set 0 (v &&& 0x103FFFFC0#64) } ∧ Either 34 trOk { m with trwin := m.trwin.set 1 (v &&& 0x103FFFFC0#64) }
      ∧ Either 35 trOk { m with trwin := m.trwin.set 2 (v &&& 0x103FFFFC0#64) } ∧ Either 36 trOk { m with trwin := m.trwin.set 3 (v &&& 0x103FFFFC0#64) }
      ∧ (isSup s.cur.1 = true → s.cx.level = .s →
          Either 38 (v.getLsbD 0 = true → 3 ≤ f 20 4 ∧ f 20 4 ≤ 8 ∧ free (256 * f 8 12) (32 * 2 ^ f 20 4))
            { m with fring := (v &&& 0xFFFFFFF01#64) ||| (m.fring &&& 0xFFF000000000#64) }
          ∧ Either 39 (v.getLsbD 20 = true → free (128 * f 7 13) (128 * (f 21 8 + 1))) { m with bgtab := v &&& 0x1FFFFF80#64 }))
  ∧ ∀ (s : State) (k x : Nat), (s.ctx k x).spr.hbtiv = 0 → Answers (.burnerExpiry k x) s fun t => t = s

/-- R51, R54: an unallocated number, a write of a read-only register and an access above the level trap, with the number in EVAL. R54, R55:
a word above the context's level traps PRIVILEGE. -/
def Obligations.SpecialTraps : Prop :=
  (∀ (s : State) (a d : Reg) (n : BitVec 11), s.canTrap → s.cx.latch.imx = 0 → mfsOwn n = false → mtsOwn n = false →
      (40 ≤ n.toNat → Traps (.mfs d n) s 0x01 (n.zeroExtend 64) ∧ Traps (.mts a n) s 0x01 (n.zeroExtend 64))
      ∧ (n.toNat ≤ 6 ∨ (12 ≤ n.toNat ∧ n.toNat ≤ 15) → Traps (.mts a n) s 0x01 (n.zeroExtend 64))
      ∧ (s.cx.level = .u → 31 ≤ n.toNat → n.toNat ≤ 36 → Traps (.mts a n) s 0x05 (n.zeroExtend 64))
      ∧ (isSup s.cur.1 = false → n = 38 ∨ n = 39 → Traps (.mfs d n) s 0x01 (n.zeroExtend 64)))
  ∧ (∀ (s : State) (a d : Reg) (m : BitVec 2) (l : Bool), s.canTrap → s.cx.latch.imx = 0 → m ≠ 3 →
      (s.cx.level = .u →
        Traps (.stashResize a) s 0x05 29 ∧ Traps (.hbtivWrite a) s 0x05 16 ∧ Traps (.tfreeze d a l) s 0x05 (wordOf (.tfreeze d a l))
        ∧ Traps (.tthaw d a l) s 0x05 (wordOf (.tthaw d a l)))
      ∧ (s.cx.level ≠ .s →
        Traps .halt s 0x05 (wordOf .halt) ∧ Traps (.tinvb d a m) s 0x05 (wordOf (.tinvb d a m))
        ∧ Traps (.scrub d a m) s 0x05 (wordOf (.scrub d a m)) ∧ Traps (.pressSet a) s 0x05 (wordOf (.pressSet a))))

/-- R230, R231: MFS of a full link returns its value and empties it; MTS to a neighbour's empty link fills it. Beyond the edge of the mesh both trap
LOCAL_BOUNDS with the register's number.
What in it is the model's reading and not the spec's words: log entry 27. -/
def Obligations.Links : Prop :=
  ∀ (s : State) (a d : Reg) (l : BitVec 2), s.ready .u → s.readable [a] →
    (∀ q v, s.linkCheck l.toNat false = .ok q → s.me.links[l.toNat] = some v →
      ∃ t, exec (.linkRead d l) s = .next t ∧ RegFile s.cx t.cx none d v ∧ Retired s t (s.cx.pc + 4)
        ∧ { t.me with ctxs := [] } = { s.me with ctxs := [], links := s.me.links.set l.toNat none } ∧ OnlyCore s t s.cur.1)
    ∧ (∀ q, s.linkCheck l.toNat true = .ok q → q ≠ s.cur.1 → (s.core q).links[(l + 2).toNat] = none →
      ∃ t, exec (.linkWrite a l) s = .next t ∧ Quiet s t (s.cx.pc + 4)
        ∧ t.core q = { s.core q with links := (s.core q).links.set (l + 2).toNat (some (s.cx.reg a)) })
    ∧ (s.canTrap → facing s.cur.1 l.toNat = none →
      Traps (.linkRead d l) s 0x04 (BitVec.ofNat 64 (20 + l.toNat)) ∧ Traps (.linkWrite a l) s 0x04 (BitVec.ofNat 64 (24 + l.toNat)))

/-- A part of the work of SFLUSH, and with `inval` of SINVAL, that its number `key` names, on the mapped pages `e` that it has come to (R146): their
dirty lines are written back; a page whose translation misses is waited for, and the work goes on there; else the word completes, with `Done`, once
no write-back older than its own is outstanding. -/
def Obligations.FlushPart (i : Instr) (s : State) (inval : Bool) (key : Nat) (e : State × List (Nat × Nat) × Option Nat) (Done : State → Prop) : Prop :=
  let owed (u : Nat) : Prop := ∃ o ∈ s.me.outs, o.wback = true ∧ o.uid < u
  let mine (l : Line) : Bool := l.within e.2.1
  let Walks (t : State) (p : Nat) : Prop := RegsSame s.cx t.cx ∧ t.cx.run = .parked .memory ∧ t.cx.pc = s.cx.pc ∧ t.cx.latch = s.cx.latch
    ∧ t.cx.acc = some ⟨1, key, some ⟨p, false, none⟩⟩ ∧ t.gmem = s.gmem ∧ t.me.lmem = s.me.lmem
  let Still (t : State) : Prop := t.me.lines = (if inval then s.me.lines.filter (fun x => !mine x.2) else s.me.lines) ∧ t.net = s.net
    ∧ { t with cores := s.cores, clusters := s.clusters, uid := s.uid } = s ∧ ∀ k, k ≠ s.cur.1 → t.core k = s.core k
  ((∀ x ∈ s.me.lines, mine x.2 = true → x.2.d = 0) →
    (∀ p, e.2.2 = some p → ∃ t, exec i s = .next t ∧ Walks t p ∧ Still t)
    ∧ (e.2.2 = none → ¬owed e.1.uid → ∃ t, exec i s = .next t ∧ Done t ∧ Still t)
    ∧ (e.2.2 = none → owed e.1.uid → ∃ t, exec i s = .next t ∧ Obligations.Awaits s t 3 ∧ Still t))
  ∧ ∀ j l, kget s.me.lines j = some l → mine l = true → l.d ≠ 0 →
      ∃ t, exec i s = .next t ∧ Obligations.WrittenBack s t j l
        ∧ (inval = true → ∀ x ∈ t.me.lines, mine x.2 = false) ∧ (inval = false → kget t.me.lines j = some { l with d := 0 })
        ∧ (e.2.2 = none → Obligations.Awaits s t 3) ∧ ∀ p, e.2.2 = some p → Walks t p

/-- The work of SFLUSH, and with `inval` of SINVAL, on `n` bytes from `lo` (R146): a count of 0 does nothing; the word waits for the context's
scalar accesses, works page by page (`FlushPart`), and completes, with `P` of the state, once its write-backs are acknowledged. -/
def Obligations.Flushes (i : Instr) (s : State) (inval : Bool) (lo n : Nat) (P : State → Prop) : Prop :=
  let owed (u : Nat) : Prop := ∃ o ∈ s.me.outs, o.wback = true ∧ o.uid < u
  let Done (t : State) : Prop := Retired s t (s.cx.pc + 4) ∧ P t ∧ t.gmem = s.gmem ∧ t.me.lmem = s.me.lmem ∧ t.net = s.net
  ((∀ u r, s.cx.acc ≠ some ⟨3, u, r⟩) → (∀ u r, s.cx.acc ≠ some ⟨1, u, some r⟩) →
    (n = 0 → ∃ t, exec i s = .next t ∧ Done t ∧ t.me.lines = s.me.lines ∧ OnlyCore s t s.cur.1)
    ∧ (n ≠ 0 → s.scalarBusy = true → Parks i s .memory)
    ∧ (n ≠ 0 → s.scalarBusy = false → Obligations.FlushPart i s inval s.uid (s.bump.extents s.cur.1 s.uid lo n 0) Done))
  ∧ (∀ u r, s.cx.acc = some ⟨1, u, some r⟩ → Obligations.FlushPart i s inval u (s.extents s.cur.1 u lo n r.val) Done)
  ∧ ∀ u r, s.cx.acc = some ⟨3, u, r⟩ →
      (¬owed u → ∃ t, exec i s = .next t ∧ Done t ∧ t.me.lines = s.me.lines ∧ OnlyCore s t s.cur.1) ∧ (owed u → Parks i s .memory)

/-- R144 to R146: ACQUIRE invalidates the clean words bound to its object, RELEASE writes back its dirty lines; both check the object. SFLUSH
and SINVAL write back the lines of a range's mapped pages, wait for the acknowledgements, and SINVAL then holds none of them. SBIND
returns 3 for a region number above 63, 1 for a bound region, 2 for a bad or overlapping range, and else, with the lines of its range
gone, binds it and returns 0; SUNBIND returns 1 for an unbound region, and else writes back and drops its lines, unbinds it and returns 0.
R133: MTS to STASHCFG drops the lines of the stash, the dirty ones written back, waits for every write-back, and then gives the stash its
new size: it holds no line, and the bytes that it gives up are 0. Another resize, or a load of the context, is waited for; a size above 4
traps ILLEGAL_OP.
What in it is the model's reading and not the spec's words: log entry 21. -/
def Obligations.StashWords : Prop :=
  (∀ (s : State) (d a b : Reg) (sc : BitVec 3), s.ready .u → s.readable [a, b] → 1 ≤ sc.toNat → sc.toNat ≤ 4 →
      let obj := (s.cx.reg a).toNat
      let bound : Line → Bool := fun l => l.region.any (fun r => (kget s.me.regions r).any (fun e => e.obj == obj))
      (obj % 16 = 0 → s.me.localCheck s.cx.level obj 16 16 = none →
        (s.scalarBusy = false → GoesCore (.acquire a sc) s (Obligations.cleaned s.me bound))
        ∧ (s.scalarBusy = true → Parks (.acquire a sc) s .memory)
        ∧ Obligations.Releases (.release a sc) s sc.toNat bound s.me)
      ∧ (s.canTrap →
          (obj % 16 ≠ 0 → Traps (.acquire a sc) s 0x03 (s.cx.reg a) ∧ Traps (.release a sc) s 0x03 (s.cx.reg a))
          ∧ (obj % 16 = 0 → s.me.localCheck s.cx.level obj 16 16 ≠ none →
              Traps (.acquire a sc) s 0x04 (s.cx.reg a) ∧ Traps (.release a sc) s 0x04 (s.cx.reg a)))
      ∧ Obligations.Flushes (.sflush a b) s false obj (s.cx.reg b).toNat (fun t => RegsSame s.cx t.cx ∧ t.me.regions = s.me.regions)
      ∧ Obligations.Flushes (.sinval a b) s true obj (s.cx.reg b).toNat (fun t => RegsSame s.cx t.cx ∧ t.me.regions = s.me.regions)
      ∧ (s.localOk obj 24 8 false →
          let r := (s.cx.reg b).toNat
          let base := mnat s.me.lmem obj 8
          let size := mnat s.me.lmem (obj + 8) 8
          let bad : Prop := base % 64 ≠ 0 ∨ size = 0 ∨ size % 64 ≠ 0
            ∨ ∃ e ∈ s.me.regions, base < e.2.base + e.2.size ∧ e.2.base < base + size
          (64 ≤ r → Gives (.sbind d a b) s none d 3)
          ∧ (r < 64 → kget s.me.regions r ≠ none → Gives (.sbind d a b) s none d 1)
          ∧ (r < 64 → kget s.me.regions r = none → bad → Gives (.sbind d a b) s none d 2)
          ∧ (r < 64 → kget s.me.regions r = none → ¬bad →
              Obligations.Flushes (.sbind d a b) s true base size (fun t =>
                RegFile s.cx t.cx none d 0 ∧ t.me.regions = kput s.me.regions r ⟨base, size, mnat s.me.lmem (obj + 16) 8⟩)))
      ∧ (s.cx.load = none → 64 ≤ (s.cx.reg a).toNat ∨ kget s.me.regions (s.cx.reg a).toNat = none → Gives (.sunbind d a) s none d 1)
      ∧ ∀ r e, r = (s.cx.reg a).toNat → s.cx.load = none → kget s.me.regions r = some e → r < 64 →
          ∃ t, exec (.sunbind d a) s = .next t ∧ RegFile s.cx t.cx none d 0 ∧ Retired s t (s.cx.pc + 4) ∧ t.me.regions = kdel s.me.regions r
            ∧ (∀ x ∈ t.me.lines, x.2.region ≠ some r) ∧ t.gmem = s.gmem ∧ t.me.lmem = s.me.lmem
            ∧ ((∀ x ∈ s.me.lines, x.2.region = some r → x.2.d = 0) →
                t.me.lines = s.me.lines.filter (fun x => x.2.region != some r) ∧ t.net = s.net)
            ∧ ∀ j l, kget s.me.lines j = some l → l.region = some r → l.d ≠ 0 → Obligations.WrittenBack s t j l)
  ∧ ∀ (s : State) (a : Reg), s.ready .t → s.readable [a] →
    let v := (s.cx.reg a).toNat % 8
    let old := s.me.stashBase
    let new := 0x60000 - stashBytes v
    let gone (q : Nat) : Bool := old ≤ q && q < new
    let owed (u : Nat) : Prop := ∃ o ∈ s.me.outs, o.wback = true ∧ o.uid < u
    let resized : Core :=
      { s.me with
        spr := { s.me.spr with stash := BitVec.ofNat 3 v, stashBusy := false }, lines := []
        fills := s.me.fills.map (fun f => { f with mask := 0 })
        lmem := s.me.lmem.filter (fun e => !gone e.1), lbad := s.me.lbad.filter (fun w => !gone (8 * w)) }
    (v ≤ 4 →
      ((∀ u r, s.cx.acc ≠ some ⟨8, u, r⟩) →
        (s.cx.load ≠ none ∨ s.me.spr.stashBusy = true → Parks (.stashResize a) s .memory)
        ∧ (s.cx.load = none → s.me.spr.stashBusy = false →
            ((∀ e ∈ s.me.lines, e.2.d = 0) → ¬owed s.uid → GoesCore (.stashResize a) s resized)
            ∧ ∀ j l, kget s.me.lines j = some l → l.d ≠ 0 → ∃ t, exec (.stashResize a) s = .next t ∧ Obligations.Awaits s t 8
                ∧ Obligations.WrittenBack s t j l ∧ t.me.lines = [] ∧ t.me.spr = { s.me.spr with stashBusy := true }))
      ∧ ∀ u r, s.cx.acc = some ⟨8, u, r⟩ →
          (¬owed u → GoesCore (.stashResize a) s resized) ∧ (owed u → Parks (.stashResize a) s .memory))
    ∧ (4 < v → s.canTrap → Traps (.stashResize a) s 0x01 29)

/-- Table 8.8, R152: PSET, PADD, PSTEP change one pointer and PGET reads one. R176: QPUSH appends to QS while it has room, QPOP takes the
oldest delivered entry of QW, and traps when none is there or owed; QCNT counts.
What in it is the model's reading and not the spec's words: log entry 34. -/
def Obligations.PointerAndQueueWords : Prop :=
  (∀ (s : State) (p a b d : Reg) (w : Bool), s.ready .u → p.toNat ≤ 7 → takeOk a w = true →
      let e : Option Reg := if w then some a else none
      let q : Ptr := p.truncate 3
      let old := s.cx.p[q.toNat]
      let P : Instr → PtrReg → Prop := fun i v => Changes i s { s.cx with p := s.cx.p.set q.toNat v } e 0 0
      Gives (.pget d p) s none d (old.addr.zeroExtend 64 ||| (old.step.zeroExtend 64 <<< 20))
      ∧ (s.readable [a] → P (.padd p a w) ⟨old.addr + (s.cx.reg a).truncate 20, old.step⟩
          ∧ P (.pstep p a w) ⟨old.addr, (s.cx.reg a).truncate 16⟩)
      ∧ (s.readable [a, b] → P (.pset p a b w) ⟨(s.cx.reg a).truncate 20, (s.cx.reg b).truncate 16⟩))
  ∧ (∀ (s : State) (a d : Reg) (w : Bool), s.ready .u →
      (s.readable [a] → takeOk a w = true → s.cx.qs.length < 8 →
        Changes (.qpush a w) s { s.cx with qs := s.cx.qs ++ [s.cx.reg a] } (if w then some a else none) 0 0)
      ∧ (∀ u v r, s.cx.qw = ⟨u, some (v, false)⟩ :: r → Changes (.qpop d) s { s.cx with qw := r } none d v)
      ∧ (s.canTrap → s.cx.qw = [] → s.me.owed s.cur.2 = 0 → s.me.seqOwes s.cur.2 = false →
          Traps (.qpop d) s 0x01 (wordOf (.qpop d)))
      ∧ Gives (.qcnt d) s none d (BitVec.ofNat 64 (8 - s.cx.qs.length + 16 * s.cx.qw.countP (fun e => e.val.isSome)
          + 256 * min 15 (s.me.owed s.cur.2))))

/-! ### Descriptors, guards, tokens and barriers -/

/-- Descriptor `k` is now `x`; every other byte of local memory and everything else outside the executing context is as before. -/
def Obligations.TdStored (s t : State) (k : Nat) (x : TDesc) : Prop :=
  OnlyCore s t s.cur.1 ∧ t.me.td k = x
    ∧ (∀ b, b < 0x1E000 + 32 * k ∨ 0x1E000 + 32 * k + 32 ≤ b → mget t.me.lmem b = mget s.me.lmem b)
    ∧ t.me.lbad = heal s.me.lbad (0x1E000 + 32 * k) 32
    ∧ { t.me with ctxs := [], lmem := [], lbad := [] } = { s.me with ctxs := [], lmem := [], lbad := [] }
    ∧ ∀ y, y ≠ s.cur.2 → kget t.me.ctxs y = kget s.me.ctxs y

/-- R178 to R180, Table 9.4: TDSET stores a record that passes its checks as a ready descriptor, or as a filling one if it is bound, and traps
on one that fails; TDGET stores the descriptor to memory; TDSTATE returns its state; TDBIND of 0 unbinds it, ready, and of an object's address
binds it, filling; TDDROP zeroes it. While a command that names it is outstanding TDSET, TDBIND and TDDROP wait. -/
def Obligations.DescriptorWords : Prop :=
  ∀ (s : State) (a g : Reg), s.ready .u →
    let k := a.toNat
    let p := (s.cx.reg g).toNat
    let old := s.me.td k
    let T : Instr → TDesc → Prop := fun i x =>
      ∃ t, exec i s = .next t ∧ Obligations.TdStored s t k x ∧ RegsOnly s.cx t.cx ∧ RegsSame s.cx t.cx ∧ Retired s t (s.cx.pc + 4)
    (s.me.tdBad k = false → Gives (.tdstate a g) s none g (BitVec.ofNat 64 (old.toNat / 2 ^ 254)))
    ∧ (s.me.tdBusy k = false → T (.tddrop a) 0)
    ∧ (s.me.tdBusy k = true → Parks (.tddrop a) s .desc)
    ∧ (s.readable [g] → s.localOk p 32 32 false →
        let rec_ : TDesc := BitVec.ofNat 256 (mnat s.me.lmem p 32)
        (rec_.check = none → s.me.tdBusy k = false →
          ∃ x : TDesc, T (.tdset a g) x ∧ x.st = (if rec_.bnd then 1 else 2) ∧ x.toNat % 2 ^ 224 = rec_.toNat % 2 ^ 224
            ∧ x.toNat / 2 ^ 224 % 4 = 0 ∧ x.toNat / 2 ^ 226 % 2 ^ 28 = rec_.toNat / 2 ^ 226 % 2 ^ 28)
        ∧ (rec_.check = none → s.me.tdBusy k = true → Parks (.tdset a g) s .desc)
        ∧ ∀ c, rec_.check = some c → s.canTrap → Traps (.tdset a g) s c (s.cx.reg g))
    ∧ (s.readable [g] → s.localOk p 32 32 true → s.me.tdBad k = false →
        ∃ t, exec (.tdget a g) s = .next t ∧ LocalStored s t p (leBytes 32 old.toNat) ∧ RegsOnly s.cx t.cx ∧ RegsSame s.cx t.cx
          ∧ Retired s t (s.cx.pc + 4))
    ∧ (s.readable [g] → s.me.tdBad k = false → p ≠ 0 → s.me.localCheck s.cx.level p 16 16 = none → s.me.objectCheck p = none →
        (s.me.tdBusy k = false →
          ∃ x : TDesc, T (.tdbind a g) x ∧ x.st = 1 ∧ x.bnd = true ∧ x.bar = p ∧ x.toNat % 2 ^ 226 = old.toNat % 2 ^ 226
            ∧ x.toNat / 2 ^ 242 % 2 ^ 11 = old.toNat / 2 ^ 242 % 2 ^ 11)
        ∧ (s.me.tdBusy k = true → Parks (.tdbind a g) s .desc))
    ∧ (s.readable [g] → s.me.tdBad k = false → p = 0 →
        (s.me.tdBusy k = false → ∃ x : TDesc, T (.tdbind a g) x ∧ x.st = 2 ∧ x.bnd = false ∧ x.toNat % 2 ^ 253 = old.toNat % 2 ^ 253)
        ∧ (s.me.tdBusy k = true → Parks (.tdbind a g) s .desc))
    ∧ (s.canTrap → s.me.tdBad k = true → Traps (.tdstate a g) s 0x07 (BitVec.ofNat 64 (0x1E000 + 32 * k)))

/-- R182: GDCLR makes a slot unresolved and GDSET true or false: at once on an unresolved slot; on a resolved one once no command is undecided
under it, the heads that it lets start staying decided; until then the word waits. GDWAIT returns the slot's value and waits for one. R183,
R185, Table 5.5: TTEST returns the eight states; TWAIT waits for all, or with any for one, of its tokens to leave busy, traps ASYNC_FAULT on the
lowest one in fault, and else completes; TCLR sets the selected tokens idle, and waits while one is busy. R198: a TWAIT of the sequencer's
owner takes its recorded failure first. -/
def Obligations.GuardAndTokenWords : Prop :=
  (∀ (s : State) (g : Reg) (c : Slot), s.ready .u → c ≠ 0 →
      let now := s.cx.c[c.toNat]
      let C : Instr → GuardSt → Prop := fun i v =>
        (now = .unresolved → Changes i s { s.cx with c := s.cx.c.set c.toNat v } none 0 0)
        ∧ (now ≠ .unresolved → s.me.undecided s.cur.2 c = false →
            ∃ t, exec i s = .next t ∧ CoreIs s t (s.me.decideHeads s.cur.2 c) ∧ RegsOnly { s.cx with c := s.cx.c.set c.toNat v } t.cx
              ∧ RegsSame s.cx t.cx ∧ Retired s t (s.cx.pc + 4))
        ∧ (now ≠ .unresolved → s.me.undecided s.cur.2 c = true → Parks i s .guard)
      C (.gdclr c) .unresolved
      ∧ (s.readable [g] → C (.gdset g c) (if s.cx.reg g = 0 then .no else .yes))
      ∧ (now = .yes → Gives (.gdwait g c) s none g 1)
      ∧ (now = .no → Gives (.gdwait g c) s none g 0)
      ∧ (now = .unresolved → Parks (.gdwait g c) s .guard))
  ∧ (∀ (s : State) (d : Reg) (idle any : Bool) (m : BitVec 8), s.ready .u →
      let sel (k : Nat) : Prop := k < 8 ∧ m.getLsbD k = true
      let busy (k : Nat) : Prop := (s.cx.tok (BitVec.ofNat 3 k)).st = .busy
      let fault (k : Nat) : Prop := (s.cx.tok (BitVec.ofNat 3 k)).st = .fault
      let met : Prop := if any then m = 0 ∨ ∃ k, sel k ∧ ¬busy k else ∀ k, sel k → ¬busy k
      (∃ v : Word, Gives (.ttest d) s none d v ∧ v.toNat < 2 ^ 24
        ∧ ∀ k, (h : k < 8) → v.toNat / 8 ^ k % 8 = (match s.cx.t[k].st with | .idle => 0 | .busy => 1 | .done => 2 | .fault => 3 | .dropped => 4))
      ∧ ((s.me.seq.owner = some s.cur.2 → s.me.seq.stat.getLsbD 12 = false) →
        (met → (∀ k, sel k → ¬fault k) → Goes (.twait idle any m) s (s.cx.pc + 4))
        ∧ (¬met → Parks (.twait idle any m) s (.tokens idle))
        ∧ ∀ k, met → sel k → fault k → (∀ j, j < k → sel j → ¬fault j) → s.canTrap →
            Traps (.twait idle any m) s 0x13 (BitVec.ofNat 64 (((s.cx.tok (BitVec.ofNat 3 k)).cause.getD 0).toNat * 256 + k)))
      ∧ (s.me.seq.owner = some s.cur.2 → s.me.seq.stat.getLsbD 12 = true → s.canTrap →
          ∃ t, exec (.twait idle any m) s = .next t ∧ t.cx.spr.ecause = 0x13 ∧ t.cx.spr.eval = s.me.seq.stat ∧ t.cx.spr.epc = word s.cx.pc
            ∧ t.me.seq = { s.me.seq with stat := s.me.seq.stat &&& ~~~0x1000#64 } ∧ RegsSame s.cx t.cx)
      ∧ ((∀ k, sel k → ¬busy k) →
          ∃ t ts, exec (.tclr m) s = .next t ∧ OnlyCtx s t ∧ RegsOnly { s.cx with t := ts } t.cx ∧ RegsSame s.cx t.cx ∧ Retired s t (s.cx.pc + 4)
            ∧ ∀ k, (h : k < 8) → ts[k] = if m.getLsbD k then ⟨.idle, s.cx.t[k].count, none, false⟩ else s.cx.t[k])
      ∧ (∀ k, sel k → busy k → Parks (.tclr m) s (.tokens false)))

/-- An object's access goes through (R186, R188), and meets nothing to correct. -/
def Obligations.objectOk (s : State) (p : Nat) : Prop :=
  p % 16 = 0 ∧ inImage p 16 = false ∧ p + 16 ≤ s.me.stashBase ∧ s.cx.load = none ∧ s.me.wideTouches s.cur.2 p 16 = false
    ∧ s.me.poisoned p 16 = false ∧ s.me.sound p 16

/-- The four words of an object (Table 9.10). -/
def Obligations.objectBytes (expected arrived flags gen : Nat) : List Byte :=
  leBytes 4 expected ++ leBytes 4 arrived ++ leBytes 4 flags ++ leBytes 4 gen

/-- R186 to R188, Tables 9.10 and 9.11: BARINIT clears an object and keeps its generation; BAREXP arms it with its expectation, BARADD counts;
when the arrivals of an armed object reach the expected number the generation advances, the excess is carried and sets overrun, the event bit
of every context of the core is set and the descriptors bound to it become ready. BARWAIT tests overrun with te once, then waits while the
object is armed and returns the generation; BARTEST returns the object's state; an object address that is misaligned, or in the core image or
the stash, traps, at level U in the core image too.
What in it is the model's reading and not the spec's words: log entries 60 and 71. -/
def Obligations.BarrierWords : Prop :=
  ∀ (s : State) (a b d : Reg) (idle : Bool), s.ready .u → s.readable [a, b] →
    let p := (s.cx.reg a).toNat
    let n := (s.cx.reg b).toNat % 2 ^ 32
    let e := mnat s.me.lmem p 4
    let r := mnat s.me.lmem (p + 4) 4
    let f := mnat s.me.lmem (p + 8) 4 % 16
    let g := mnat s.me.lmem (p + 12) 4
    let armed (f : Nat) : Prop := f / 2 % 2 = 1
    let sum := min (r + n) 0xFFFFFFFF
    let Kept : Instr → List Byte → Prop := fun i bs =>
      ∃ t, exec i s = .next t ∧ LocalStored s t p bs ∧ RegsOnly s.cx t.cx ∧ RegsSame s.cx t.cx ∧ Retired s t (s.cx.pc + 4)
    let Flips : Instr → List Byte → Prop := fun i bs =>
      ∃ t, exec i s = .next t ∧ OnlyCore s t s.cur.1 ∧ RegsSame s.cx t.cx ∧ Retired s t (s.cx.pc + 4) ∧ mread t.me.lmem p 16 = bs
        ∧ (∀ x, s.me.live x = true → (t.ctx s.cur.1 x).event = true)
        ∧ (∀ k, k < 32 → t.me.td k = if (s.me.td k).bnd ∧ (s.me.td k).st = 1 ∧ (s.me.td k).bar = p then (s.me.td k).withSt 2 else s.me.td k)
        ∧ ∀ q, (q < p ∨ p + 16 ≤ q) → (q < 0x1E000 ∨ 0x1E400 ≤ q) → mget t.me.lmem q = mget s.me.lmem q
    let Now : Instr → Nat → Nat → Nat → Prop := fun i e r f =>
      (¬(armed f ∧ e ≤ r) → Kept i (Obligations.objectBytes e r f g))
      ∧ (armed f → e ≤ r → Flips i (Obligations.objectBytes e (r - e)
          (1 - f % 2 + 4 * (if 0 < r - e ∨ f / 4 % 2 = 1 then 1 else 0) + 8 * (f / 8)) (g + 1)))
    (Obligations.objectOk s p →
      Kept (.barinit a b) (Obligations.objectBytes 0 0 (8 * ((s.cx.reg b).toNat / 8 % 2)) g)
      ∧ Now (.barexp a b) n r (if armed f then f else f + 2)
      ∧ Now (.baradd a b) e sum (if sum = 0xFFFFFFFF ∧ f / 4 % 2 = 0 then f + 4 else f)
      ∧ (s.cx.acc = some ⟨11, p, none⟩ ∨ f / 4 ≠ 3 →
          (¬armed f → Gives (.barwait d a idle) s none d (BitVec.ofNat 64 g))
          ∧ (armed f → ∃ t, exec (.barwait d a idle) s = .next t ∧ OnlyCtx s t ∧ RegsSame s.cx t.cx ∧ t.cx.run = .parked (.barrier idle)
              ∧ t.cx.acc = some ⟨11, p, none⟩ ∧ t.cx.pc = s.cx.pc ∧ t.cx.latch = s.cx.latch))
      ∧ (f / 4 ≠ 3 → Gives (.bartest d a) s none d
            (BitVec.ofNat 64 (r + g % 65536 * 2 ^ 32 + f % 2 * 2 ^ 48 + f / 2 % 2 * 2 ^ 49 + f / 4 % 2 * 2 ^ 50)))
      ∧ (s.canTrap → f / 4 = 3 →
          let Overrun : Instr → Prop := fun i => ∃ t, exec i s = .next t ∧ t.cx.spr.ecause = 0x0B ∧ t.cx.spr.eval = s.cx.reg a
            ∧ t.cx.spr.epc = word s.cx.pc ∧ RegsSame s.cx t.cx ∧ mread t.me.lmem p 16 = Obligations.objectBytes e r (f - 4) g
          Overrun (.bartest d a) ∧ (s.cx.acc ≠ some ⟨11, p, none⟩ → Overrun (.barwait d a idle))))
    ∧ (s.canTrap →
        let Refused : BitVec 8 → Prop := fun c => Traps (.barinit a b) s c (s.cx.reg a) ∧ Traps (.barexp a b) s c (s.cx.reg a)
          ∧ Traps (.baradd a b) s c (s.cx.reg a) ∧ Traps (.barwait d a idle) s c (s.cx.reg a) ∧ Traps (.bartest d a) s c (s.cx.reg a)
        (p % 16 ≠ 0 → Refused 0x03) ∧ (p % 16 = 0 → inImage p 16 = true ∨ s.me.stashBase < p + 16 → Refused 0x04))

/-! ### Repetition -/

/-- R116, R117: REP leaves the repetition in the context, or skips its target when the count is already reached. R116, R117: a target runs
once a repetition with its immediate stepped; the index register then takes the next repetition's number, and after the last one the context
goes on past the target.
What in it is the model's reading and not the spec's words: log entry 12. -/
def Obligations.RepWords : Prop :=
  (∀ (s : State) (d a m : BitVec 5) (st : BitVec 4), s.inOrder → (Instr.rep d a m st).wf = true → s.readable [a, d] →
      s.cx.pc + 4 < 0x8000 → (s.wordAt (s.cx.pc + 4)).2 = false →
      let w := (s.wordAt (s.cx.pc + 4)).1
      let n := (s.cx.reg a).toNat
      let j := (s.cx.reg d).toNat
      (n ≤ j → ∃ t, exec (.rep d a m st) s = .next t ∧ OnlyCtx s t ∧ RegsOnly s.cx t.cx ∧ RegsSame s.cx t.cx ∧ t.cx.pc = s.cx.pc + 8
          ∧ t.cx.latch = Latch.empty)
      ∧ (j < n → ∀ x, decode w = some x → repRefuses (w.toNat / 67108864) = false →
          m &&& ~~~(repSlots x) = 0 →
          ∃ t, exec (.rep d a m st) s = .next t ∧ OnlyCtx s t ∧ RegsSame s.cx t.cx ∧ t.cx.pc = s.cx.pc ∧ t.cx.latch = s.cx.latch
            ∧ t.cx.rep = some { word := w, smask := m, step := st.toNat, rd := d, n := n, i := j }))
  ∧ (∀ (s : State) (d a : Reg) (m : BitVec 12) (r : RepSt), s.cx.rep = some r → s.cx.mode = .loc → s.cx.latch.imx = 0 → s.cleared .u →
      s.readable [a] → d ≠ r.rd → r.rd ≠ 0 →
      ∃ t, exec (.addi d a m) s = .next t ∧ OnlyCtx s t
        ∧ (d ≠ 0 → t.cx.reg d
            = s.cx.reg a + (m.signExtend 64 + BitVec.ofNat 64 (if r.smask.getLsbD 0 then r.step * r.i else 0)))
        ∧ t.cx.reg r.rd = BitVec.ofNat 64 (r.i + 1)
        ∧ (r.i + 1 < r.n → t.cx.rep = some { r with i := r.i + 1 } ∧ t.cx.pc = s.cx.pc ∧ t.cx.latch = s.cx.latch)
        ∧ (r.n ≤ r.i + 1 → t.cx.rep = none ∧ t.cx.pc = s.cx.pc + 8 ∧ t.cx.latch = Latch.empty))

/-- R196: RPBLD captures the words that follow it and goes on after them; RPBGO starts the run; RPBSTOP of a sequencer at rest returns how
many repetitions were done. R50, R197, R198: a captured hint word is latched for the captured word after it in its repetition; a captured command whose checks
pass joins its engine's queue with the stepped fields and the sequencer's own pointers; one that meets a trap condition ends the run and is
recorded in RPBSTAT.
What in it is the model's reading and not the spec's words: log entries 36, 41 and 77. -/
def Obligations.SequencerSteps : Prop :=
  (∀ (s : State) (a d : Reg) (n x : BitVec 5) (p : BitVec 3), s.ready .u → s.me.seq.running = false →
      (s.me.seq.owner = some s.cur.2 → s.me.seq.stat.getLsbD 12 = false) →
      (1 ≤ n.toNat → n.toNat ≤ 16 → s.cx.pc + 4 * n.toNat + 4 ≤ 0x8000 →
        (∀ j, j < n.toNat → (s.wordAt (s.cx.pc + 4 + 4 * j)).2 = false ∧ capturable (s.wordAt (s.cx.pc + 4 + 4 * j)).1 = true) →
        ∃ t, exec (.rpbld n) s = .next t ∧ RegsSame s.cx t.cx ∧ Retired s t (s.cx.pc + 4 + 4 * n.toNat) ∧ t.me.seq.owner = some s.cur.2
          ∧ t.me.seq.words = (List.range n.toNat).map (fun j => (s.wordAt (s.cx.pc + 4 + 4 * j)).1) ∧ t.gmem = s.gmem)
      ∧ (s.readable [a] → s.me.seq.owner = some s.cur.2 →
        ∃ t, exec (.rpbgo a x p) s = .next t ∧ Quiet s t (s.cx.pc + 4) ∧ t.me.seq.count = (s.cx.reg a).toNat
          ∧ t.me.seq.running = decide ((s.cx.reg a).toNat ≠ 0) ∧ t.me.seq.st = x.toNat ∧ t.me.seq.sp = p.toNat ∧ t.me.seq.rep = 0
          ∧ t.me.seq.idx = 0 ∧ t.me.seq.words = s.me.seq.words)
      ∧ Gives (.rpbstop d) s none d (BitVec.ofNat 64 s.me.seq.done))
  ∧ (∀ (s : State) (k x : Nat), s.works k = true → (s.core k).seq.owner = some x → (s.core k).seq.running = true →
      ((s.core k).wctx x).run ≠ .stopped .saved → ((s.core k).wctx x).run ≠ .stopped .killed →
      touchesBad (s.core k).lbad (0x1E400 + 4 * (s.core k).seq.idx) 4 = false →
      let q := (s.core k).seq
      let h := (s.core k).wctx x
      let c := (s.core k).seqCmd q x
      c.instr.wf = true → ((s.core k).live x = true → h.halting = false ∧ h.yielding = false) →
      let Latched (l : Latch) : Prop := Answers (.sequencerPlace k) s fun t =>
        OnlyCore s t k ∧ t.core k = { s.core k with seq := { q.next with latch := if q.idx + 1 < q.words.length then l else Latch.empty } }
      (∀ i n m, c.instr = .hwait i n m → Latched { q.latch with wait := some (BitVec.ofBool i ++ BitVec.ofBool n ++ m) })
      ∧ (∀ p a b, c.instr = .hcache p a b → Latched { q.latch with cache := some (p ++ a ++ b) })
      ∧ (∀ y w, c.instr = .hsched y w → Latched { q.latch with sched := some (BitVec.ofBool y ++ w) })
      ∧ ((∀ i n m, c.instr ≠ .hwait i n m) → (∀ p a b, c.instr ≠ .hcache p a b) → (∀ y w, c.instr ≠ .hsched y w) →
        q.latch.wait = none →
        (∀ cause v, s.cmdCheck k h.level c.ptr [] c.instr = .trap cause v → q.idx < 16 → Answers (.sequencerPlace k) s fun t =>
          OnlyCore s t k ∧ (t.core k).seq.running = false ∧ (t.core k).seq.stat.getLsbD 12 = true
            ∧ (t.core k).seq.stat.toNat % 256 = cause.toNat ∧ (t.core k).seq.stat.toNat / 2 ^ 32 = q.rep % 2 ^ 32
            ∧ (t.core k).seq.stat.toNat / 256 % 16 = q.idx)
        ∧ (s.cmdCheck k h.level c.ptr [] c.instr = .ok →
            (((s.core k).eng (engOf c.instr)).queue.filter (fun p => p.ctx == x && p.uid < c.uid)).length < (engOf c.instr).room →
            (∀ w, tokOf c.instr = some w → (h.tok w).count + (s.core k).reserved x w < 255) →
            Answers (.sequencerPlace k) s fun t =>
              OnlyCore s t k ∧ (∃ p ∈ ((t.core k).eng (engOf c.instr)).queue, p.instr = c.instr ∧ p.uid = c.uid ∧ p.ctx = x ∧ p.ptr = c.ptr)
                ∧ (t.core k).seq.idx = q.next.idx ∧ (t.core k).seq.rep = q.next.rep ∧ (∀ w, tokOf c.instr = some w → (s.core k).live x = true → (t.ctx k x).tok w = (h.tok w).arm)
                ∧ ((∀ d, tdOf c.instr ≠ some (d, true)) → (t.core k).lmem = (s.core k).lmem))))

/-! ### The wide side -/

/-- The words that issue a command to one of the four wide-side engines. -/
def Obligations.wideWord : Instr → Bool
  | .vadd .. | .vsub .. | .vmul .. | .vfma .. | .vmin .. | .vmax .. | .vabs .. | .vneg .. | .vand .. | .vor .. | .vxor .. | .vshl ..
  | .vshr .. | .vsra .. | .vcvt .. | .vrcp .. | .vrsq .. | .vexp2 .. | .vlog2 .. | .vsel .. | .vmov .. | .vsplat .. | .vclamp ..
  | .vadds .. | .vsubs .. | .vmulh .. | .vceq .. | .vcne .. | .vclt .. | .vcle .. | .vcgt .. | .vcge .. | .vcun .. | .vred ..
  | .vperm .. | .vgath .. | .vscat .. | .vcomp .. | .vpref .. | .mand .. | .mor .. | .mxor .. | .mnot .. | .mpop .. | .many ..
  | .mall .. | .mset .. | .mget .. | .push .. | .pushg .. | .pushs .. | .pushl .. | .mma .. | .mmag .. | .mzero .. | .mdrain ..
  | .mldb .. | .mprog .. | .mchk .. | .gacc .. | .gsub .. | .gelim .. | .gdamp .. | .gmean .. | .gresid .. | .greg .. | .gsend ..
  | .gcopy .. => true
  | _ => false

/-- The source that a wide-side word empties: MSET alone has a consuming form. -/
def Obligations.wideTakes : Instr → Option Reg
  | .mset _ a true => some a
  | _ => none

/-- The checks at issue pass, and the queue and the token have room (R153, R173, R183). -/
def Obligations.wideOk (s : State) (i : Instr) : Prop :=
  s.readable (cmdRegs i) ∧ s.cx.acc = none
    ∧ s.cmdCheck s.cur.1 s.cx.level ((ptrUses i).map (fun u => (s.cx.ptr u.p).addr.toNat)) ((cmdRegs i).map s.cx.reg) i = .ok
    ∧ s.me.queued (engOf i) s.cur.2 < (engOf i).room
    ∧ ∀ t, tokOf i = some t → (s.cx.tok t).count + s.me.reserved s.cur.2 t < 255

/-- R173, R183, R152: a wide-side word without a verdict puts its command, with its operands and addresses as they stand, at the end of its engine's queue,
arms its token, advances its pointers and completes.
What in it is the model's reading and not the spec's words: log entries 71 and 93. -/
def Obligations.WideIssue : Prop :=
  ∀ (s : State) (i : Instr), Obligations.wideWord i = true → i.wf = true → s.ready .u → Obligations.wideOk s i →
    (verdictKind i && guardOf i == 0) = false →
    ∃ t q, exec i s = .next t ∧ Retired s t (s.cx.pc + 4) ∧ RegFile s.cx t.cx (Obligations.wideTakes i) 0 0
      ∧ (t.me.eng (engOf i)).queue = (s.me.eng (engOf i)).queue ++ [q]
      ∧ q.instr = i ∧ q.ctx = s.cur.2 ∧ q.uid = s.uid ∧ t.uid = s.uid + 1 ∧ q.vals = (cmdRegs i).map s.cx.reg
      ∧ q.ptr = (ptrUses i).map (fun u => (s.cx.ptr u.p).addr.toNat) ∧ q.seq = none
      ∧ (∀ x, tokOf i = some x → t.cx.tok x = (s.cx.tok x).arm) ∧ (tokOf i = none → t.cx.t = s.cx.t)
      ∧ t.cx.p = (if incOf i then advanced s.cx.p (ptrUses i) else s.cx.p)
      ∧ t.gmem = s.gmem ∧ t.net = s.net
      ∧ ((∀ k, tdOf i ≠ some (k, true)) → t.me.lmem = s.me.lmem)

/-- R209, R258: an unguarded word with a verdict queues its command and waits; a good verdict completes it, a bad one traps precisely. -/
def Obligations.VerdictWords : Prop :=
  ∀ (s : State) (i : Instr), Obligations.wideWord i = true → i.wf = true → s.ready .u → verdictKind i = true → guardOf i = 0 →
    (Obligations.wideOk s i →
      ∃ t q, exec i s = .next t ∧ (t.me.eng (engOf i)).queue = (s.me.eng (engOf i)).queue ++ [q] ∧ q.instr = i ∧ q.uid = s.uid
        ∧ t.cx.run = .parked .wide ∧ t.cx.acc = some ⟨0, s.uid, none⟩ ∧ t.cx.pc = s.cx.pc ∧ RegsSame s.cx t.cx)
    ∧ (∀ u v b, s.readable (cmdRegs i) → s.cx.acc = some ⟨0, u, some ⟨v, b, none⟩⟩ → Goes i s (s.cx.pc + 4))
    ∧ (∀ u v b c, s.readable (cmdRegs i) → s.canTrap → s.cx.acc = some ⟨0, u, some ⟨v, b, some c⟩⟩ → Traps i s c (BitVec.ofNat 64 v))

/-! ### Packets and mailboxes -/

/-- What a closed packet carries: its header and its words widened, or the mailbox message that its words are. -/
def Obligations.packetBody (p : Pkt) : Body :=
  if hdrMail p.hdr then
    .mail p.uid (hdrWf p.hdr) (p.words.getD 1 0 ++ p.words.getD 0 0) ((halves (p.words.drop 2)).map (wireWord (hdrWf p.hdr))) false
  else .packet p.uid p.hdr (p.words.map (wireDouble (hdrWf p.hdr))) false 0

/-- The packet `p` is closed and on its way: an operation on its token waits for its answer, and the word has completed. -/
def Obligations.PacketSent (s u : State) (p : Pkt) : Prop :=
  RegsSame s.cx u.cx ∧ Retired s u (s.cx.pc + 4) ∧ u.cx.pkt = none ∧ outOn p.uid s.cur.2 p.tok ∈ u.me.outs ∧ u.gmem = s.gmem
    ∧ u.me.lmem = s.me.lmem

/-- R193 to R195: SNDO opens a packet, arms its token and takes its place on its channel; SNDW appends a word; SNDE sends the packet at its
place with its header and words widened; with .end SNDO and SNDW send it too. RPOST sends the value of rc for a register of a context of a core
and arms its token. On channel 3 both need level S, and trap PRIVILEGE below it (R42, R55).
What in it is the model's reading and not the spec's words: log entry 81. -/
def Obligations.PacketAndPostWords : Prop :=
  (∀ (s : State) (a b : Reg) (t : Slot) (v : BitVec 2) (e : Bool) (d : Nat), s.ready (if v = 3 then .s else .u) → s.readable [a, b] →
      s.cx.pkt = none → s.tokFull t = false → sndoCheck (.sndo a b t v e) v.toNat false (s.cx.reg a) (s.cx.reg b) = none →
      destOf (s.cx.reg a) = some ⟨d, none⟩ → (∀ o ∈ s.net, o.body ≠ .opening s.uid) →
      let p : Pkt := ⟨s.cx.reg a, s.cx.reg b, t, v, [], s.now, s.cx.pc, s.uid⟩
      ∃ u m, exec (.sndo a b t v e) s = .next u ∧ RegsSame s.cx u.cx ∧ Retired s u (s.cx.pc + 4) ∧ u.net = s.net ++ [m]
        ∧ m.src = .core s.cur.1 ∧ m.dst = .core d ∧ m.vc = (if hdrMail (s.cx.reg b) then 2 else v.toNat)
        ∧ u.cx.tok t = (s.cx.tok t).arm ∧ u.uid = s.uid + 1 ∧ u.gmem = s.gmem ∧ u.me.lmem = s.me.lmem
        ∧ (if e then u.cx.pkt = none ∧ m.body = Obligations.packetBody p ∧ outOn s.uid s.cur.2 t ∈ u.me.outs
           else u.cx.pkt = some p ∧ m.body = .opening s.uid))
  ∧ (∀ (s : State) (a : Reg) (p : Pkt), s.ready .u → s.cx.pkt = some p →
      let Sends : Instr → Pkt → Prop := fun i p => ∀ d, destOf p.dest = some ⟨d, none⟩ →
        (∀ pre o post, s.net = pre ++ [o] ++ post → o.body = .opening p.uid → (∀ q ∈ pre ++ post, q.body ≠ .opening p.uid) →
          ∃ u m, exec i s = .next u ∧ Obligations.PacketSent s u p ∧ u.net = pre ++ [m] ++ post ∧ m.src = .core s.cur.1 ∧ m.dst = .core d
            ∧ m.vc = (if hdrMail p.hdr then 2 else p.vc.toNat) ∧ m.body = Obligations.packetBody p)
        ∧ ((∀ q ∈ s.net, q.body ≠ .opening p.uid) →
          ∃ u m, exec i s = .next u ∧ Obligations.PacketSent s u p ∧ u.net = s.net ++ [m] ∧ m.src = .core s.cur.1 ∧ m.dst = .core d
            ∧ m.vc = (if hdrMail p.hdr then 2 else p.vc.toNat) ∧ m.body = Obligations.packetBody p)
      Sends .snde p
      ∧ (p.words.length < 32 → s.readable [a] →
          Changes (.sndw a false) s { s.cx with pkt := some { p with words := p.words ++ [s.cx.reg a] } } none 0 0
          ∧ Sends (.sndw a true) { p with words := p.words ++ [s.cx.reg a] })
      ∧ (32 ≤ p.words.length → s.readable [a] → s.canTrap → Traps (.sndw a false) s 0x01 (wordOf (.sndw a false))))
  ∧ (∀ (s : State) (a b c : Reg) (t : Slot) (e : Bool), s.cx.latch.imx = 0 → s.canTrap → s.cx.level ≠ .s →
      Traps (.sndo a b t 3 e) s 0x05 (wordOf (.sndo a b t 3 e)) ∧ Traps (.rpost a b c t 3) s 0x05 (wordOf (.rpost a b c t 3)))
  ∧ (∀ (s : State) (a : Reg), s.ready .u → s.canTrap → s.cx.pkt = none →
      Traps .snde s 0x01 (wordOf .snde) ∧ (s.readable [a] → Traps (.sndw a false) s 0x01 (wordOf (.sndw a false))))
  ∧ (∀ (s : State) (a b c : Reg) (t : Slot) (v : BitVec 2) (d : Nat), s.ready (if v = 3 then .s else .u) → s.readable [a, b, c] →
      destOf (s.cx.reg a) = some ⟨d, none⟩ → s.tokFull t = false → (s.cx.reg b).toNat < 512 → (s.cx.reg b).toNat % 16 ≤ 11 →
      16 ≤ (s.cx.reg b).toNat →
      ∃ u m, exec (.rpost a b c t v) s = .next u ∧ RegsSame s.cx u.cx ∧ Retired s u (s.cx.pc + 4) ∧ u.cx.tok t = (s.cx.tok t).arm
        ∧ u.net = s.net ++ [m] ∧ m.src = .core s.cur.1 ∧ m.dst = .core d ∧ m.vc = v.toNat ∧ outOn s.uid s.cur.2 t ∈ u.me.outs
        ∧ m.body = .post s.uid ((s.cx.reg b).toNat % 16) (BitVec.ofNat 5 ((s.cx.reg b).toNat / 16)) (s.cx.reg c) false
        ∧ u.gmem = s.gmem ∧ u.me.lmem = s.me.lmem)

/-- The message that LBK makes of the record at `p`: its header with lbk set, and its block words. -/
def Obligations.lbkMsg (s : State) (p : Nat) : MailMsg :=
  let m : MailMsg :=
    { hdr := BitVec.ofNat 128 (mnat s.me.lmem p 16) ||| (1#128 <<< 40), wf := 0, blk := s.me.words32 (p + 16) 44, src := s.cur.1, port := none
      pkg := 0, uid := 0, bad := false }
  { m with wf := m.hdrWf }

/-- R213, R216, R219, Table 10.7: MBPOP and MBPEEK of a mailbox with a fresh slot copy its 208 bytes and return bit 63, the fresh count and the
slot; MBPOP marks the slot read, and with none fresh they return 0. MBPOP.spill takes the latch for the ballonet and returns the mailbox.
MBCNT counts. LBK offers the record at its address to the core's own mailboxes: refused it returns the cause over 2, full 1, and accepted, once
all of it is written, 0. Extents that break a rule trap with their address.
What in it is the model's reading and not the spec's words: log entry 37. -/
def Obligations.MailboxWords : Prop :=
  (∀ (s : State) (a d : Reg), s.ready .u → 1 ≤ a.toNat → a.toNat ≤ 30 → s.readable [a, a + 1] →
      let p := (s.cx.reg a).toNat
      let b := (s.cx.reg (a + 1)).toNat
      let x := s.me.mbox p
      (s.canTrap → ∀ c e, s.me.extentChecks s.cx.level [(p, 64, 64), (b, 208, 16)] = some (c, e) →
        Traps (.mbpop d a) s c (BitVec.ofNat 64 e) ∧ Traps (.mbpeek d a) s c (BitVec.ofNat 64 e))
      ∧ (s.cx.load = none → s.me.weak = [] →
        (s.me.extentChecks s.cx.level [(p, 64, 64), (b, 208, 16)] = none → s.me.wideTouches s.cur.2 p 64 = false →
          s.me.wideTouches s.cur.2 b 208 = false → s.me.lands p = false → s.me.poisoned p 64 = false → s.me.mboxMalformed x = false →
          (x.next = none → Gives (.mbpop d a) s none d 0 ∧ Gives (.mbpeek d a) s none d 0)
          ∧ ∀ j, x.next = some j → s.me.wideTouches s.cur.2 (x.slotAt j) 208 = false → s.me.poisoned (x.slotAt j) 208 = false →
              s.me.writePoisoned b 208 = false →
              (∃ t, exec (.mbpeek d a) s = .next t ∧ LocalStored s t b (mread s.me.lmem (x.slotAt j) 208) ∧ RegsOnly s.cx t.cx
                  ∧ RegFile s.cx t.cx none d (BitVec.ofNat 64 (2 ^ 63 + x.freshCount * 2 ^ 16 + j)) ∧ Retired s t (s.cx.pc + 4))
              ∧ ∃ t, exec (.mbpop d a) s = .next t ∧ OnlyCore s t s.cur.1 ∧ RegsOnly s.cx t.cx
                  ∧ RegFile s.cx t.cx none d (BitVec.ofNat 64 (2 ^ 63 + (x.freshCount - 1) * 2 ^ 16 + j)) ∧ Retired s t (s.cx.pc + 4)
                  ∧ (p + 64 ≤ b ∨ b + 208 ≤ p → ∀ i, i < 208 → mget t.me.lmem (b + i) = asHeld (b + i) (mget s.me.lmem (x.slotAt j + i)))
                  ∧ (p + 64 ≤ 0x1E000 ∨ 0x1E400 ≤ p →
                      (t.me.mbox p).fresh j = false ∧ (∀ i, i < 64 → i ≠ j → (t.me.mbox p).fresh i = x.fresh i)
                      ∧ (x.edge = false → (t.me.mbox p).head = (x.head + 1) % x.slots))
                  ∧ (x.freshCount = 1 → (∀ o ∈ s.me.rx.postings, o.1 ≠ p) → (t.me.mbox p).pend = false)
                  ∧ (x.spl = true → s.me.rx.notices.length < 8 → (t.me.mbox p).spl = false ∧ t.me.rx.notices = s.me.rx.notices ++ [p])
                  ∧ ∀ q, (q < b ∨ b + 208 ≤ q) → (q < p ∨ p + 64 ≤ q) → mget t.me.lmem q = mget s.me.lmem q)
        ∧ (s.me.extentChecks s.cx.level [(b, 208, 16)] = none → s.me.wideTouches s.cur.2 b 208 = false → s.me.writePoisoned b 208 = false →
          (s.cur.2 = 11 → s.me.rx.spill = none → Gives (.mbpopSpill d a) s none d 0)
          ∧ (s.cur.2 ≠ 11 → s.canTrap → Traps (.mbpopSpill d a) s 0x01 (wordOf (.mbpopSpill d a)))
          ∧ ∀ box bytes, s.cur.2 = 11 → s.me.rx.spill = some (box, bytes) → bytes.length = 208 → s.me.lands box = false →
              ∃ t, exec (.mbpopSpill d a) s = .next t ∧ OnlyCore s t s.cur.1 ∧ RegFile s.cx t.cx none d (BitVec.ofNat 64 (2 ^ 63 + box))
                ∧ Retired s t (s.cx.pc + 4) ∧ t.me.rx.spill = none ∧ (t.me.mbox box).spl = true
                ∧ (box + 64 ≤ b ∨ b + 208 ≤ box → ∀ i, (h : i < bytes.length) → mget t.me.lmem (b + i) = asHeld (b + i) bytes[i])
                ∧ ∀ q, (q < b ∨ b + 208 ≤ q) → (q < box ∨ box + 64 ≤ q) → mget t.me.lmem q = mget s.me.lmem q)
        ∧ (s.me.extentChecks s.cx.level [(p, 64, 64)] = none → s.me.wideTouches s.cur.2 p 64 = false → s.me.poisoned p 64 = false →
          Gives (.mbcnt d a) s none d (BitVec.ofNat 64 ((if s.me.rx.spill.isSome then 2 ^ 23 else 0) + (if x.pend then 2 ^ 22 else 0)
            + (if x.spl then 2 ^ 21 else 0) + (if x.isOpen then 2 ^ 20 else 0) + (x.used.filter x.valid).length * 2 ^ 8 + x.freshCount)))))
  ∧ (∀ (s : State) (a d : Reg), s.ready .u → s.readable [a] →
      let p := (s.cx.reg a).toNat
      let m := Obligations.lbkMsg s p
      (s.localOk p 208 16 false → s.me.rx.landing = none → s.cx.acc = none →
        (s.me.mboxAt m.box = false ∨ s.me.mboxMalformed (s.me.mbox m.box) = true ∨ s.me.cmdsOf s.cur.2 = [] ∧ s.me.seq.running = false) →
        (∀ c, s.arrive s.cur.1 m (some s.cur.2) = .refused c → Gives (.lbk d a) s none d (BitVec.ofNat 64 (256 * c.toNat + 2)))
        ∧ (s.arrive s.cur.1 m (some s.cur.2) = .full →
            ∃ t, exec (.lbk d a) s = .next t ∧ RegFile s.cx t.cx none d 1 ∧ Retired s t (s.cx.pc + 4) ∧ (t.me.mbox m.box).spl = true
              ∧ ∀ q, (q < m.box ∨ m.box + 64 ≤ q) → mget t.me.lmem q = mget s.me.lmem q)
        ∧ (s.arrive s.cur.1 m (some s.cur.2) = .waits → Parks (.lbk d a) s .unit)
        ∧ ∀ l, s.arrive s.cur.1 m (some s.cur.2) = .lands l →
            ∃ t, exec (.lbk d a) s = .next t ∧ RegsSame s.cx t.cx ∧ t.cx.run = .parked .unit ∧ t.cx.pc = s.cx.pc
              ∧ t.cx.acc = some ⟨13, 0, none⟩ ∧ t.me.rx = { s.me.rx with landing := some l } ∧ t.me.lmem = s.me.lmem)
      ∧ ((s.cx.level = .u → inImage p 208 = false) → s.cx.acc = some ⟨13, 0, none⟩ →
        (s.me.rx.landing = none → Gives (.lbk d a) s none d 0)
        ∧ ∀ l, s.me.rx.landing = some l → l.lbk = some s.cur.2 →
            let s1 := if s.cx.latch.wait.isSome && !s.cx.waited then s.setCx { s.cx with waited := true } else s
            exec (.lbk d a) s = .next ((s1.landOn s.cur.1 l).park .unit)))

/-! ### Groups and contexts -/

/-- R279, R280, Tables 15.5 and 15.6: GRPBAR without a group returns 3 in bits 33:32, for a core that is no present member 1, for a context that
does not hold the group's slot 2; an answer, once there, is returned. Otherwise, the context's scalar accesses done, the core's arrival is sent
once and the context waits. GRPINFO returns generation, presence, slot, index and counts, and 0 for an absent group. -/
def Obligations.GroupWords : Prop :=
  ∀ (s : State) (a d : Reg) (idle : Bool), s.ready .u → s.readable [a] →
    let gid := (s.cx.reg a).toNat
    (s.tagOf s.cur.1 = none → Gives (.grpbar d a idle) s none d (BitVec.ofNat 64 (3 * 2 ^ 32)) ∧ Gives (.grpinfo d a) s none d 0)
    ∧ ∀ t, s.tagOf s.cur.1 = some t →
        (256 ≤ gid ∨ kget (s.terr t).groups gid = none → Gives (.grpbar d a idle) s none d (BitVec.ofNat 64 (3 * 2 ^ 32)) ∧ Gives (.grpinfo d a) s none d 0)
        ∧ ∀ g, gid < 256 → kget (s.terr t).groups gid = some g → g.members ≠ [] → g.members.length ≤ 64 →
          let here := (s.present t g).contains s.cur.1
          let slot := s.slotIn t s.cur.1 gid
          (here = false → Gives (.grpbar d a idle) s none d (BitVec.ofNat 64 (2 ^ 32)))
          ∧ (∃ v, Gives (.grpinfo d a) s none d v ∧ v.toNat / 2 ^ 32 = g.gen.toNat ∧ v.getLsbD 31 = true ∧ v.getLsbD 30 = here
              ∧ v.toNat / 2 ^ 28 % 4 = (if here then slot else 0) ∧ v.toNat / 2 ^ 22 % 64 = (if here then (s.memberIdx t g s.cur.1).getD 0 else 0)
              ∧ v.toNat / 2 ^ 15 % 128 = (s.present t g).length ∧ v.toNat / 2 ^ 8 % 128 = g.members.length ∧ v.toNat % 256 = 0)
          ∧ (here = true → s.cx.holdsSlot s.cur.2 slot = false → Gives (.grpbar d a idle) s none d (BitVec.ofNat 64 (2 * 2 ^ 32)))
          ∧ (here = true → s.cx.holdsSlot s.cur.2 slot = true →
              (∀ u v b, s.cx.acc = some ⟨10, u, some ⟨v, b, none⟩⟩ → Gives (.grpbar d a idle) s none d (BitVec.ofNat 64 v))
              ∧ (s.cx.acc = none → s.scalarBusy = true → Parks (.grpbar d a idle) s .memory)
              ∧ (s.cx.acc = none → s.scalarBusy = false →
                  let Stays (u : State) : Prop := exec (.grpbar d a idle) s = .next u ∧ u.cx.run = .parked (.group idle)
                    ∧ u.cx.acc = some ⟨10, gid, none⟩ ∧ RegsSame s.cx u.cx ∧ u.cx.pc = s.cx.pc ∧ u.me.lmem = s.me.lmem ∧ u.gmem = s.gmem
                  ((∃ e ∈ s.me.ctxs, e.2.acc = some ⟨10, gid, none⟩) → ∃ u, Stays u ∧ u.net = s.net)
                  ∧ ((∀ e ∈ s.me.ctxs, e.2.inGroup gid = false) →
                      ∃ u m, Stays u ∧ u.net = s.net ++ [m] ∧ m.dst = .terr t ∧ m.body = .groupArrive gid s.cur.1)))

/-- R94, R95, R100, R273: HSTART starts the lowest free helper at its entry with the arguments in g1 and up and returns its number, or 0 with none
free. While a slot is free that no chosen record keeps and no helper waits for, the helper runs; else it waits for one, its image in its save slot.
What in it is the model's reading and not the spec's words: log entry 95. -/
def Obligations.HelperStart : Prop :=
  ∀ (s : State) (a d x : Reg) (n : BitVec 3), s.ready .u → (Instr.hstart d a n x).wf = true →
    s.readable (a :: (List.range n.toNat).map (fun j => x + BitVec.ofNat 5 j)) → Obligations.targetOk (s.cx.reg a) →
    (s.me.freeHelper = 0 → Gives (.hstart d a n x) s none d 0)
    ∧ (s.me.freeHelper ≠ 0 → s.me.freeHelper ≠ s.cur.2 →
      ∃ t, exec (.hstart d a n x) s = .next t ∧ RegFile s.cx t.cx none d (BitVec.ofNat 64 s.me.freeHelper) ∧ Retired s t (s.cx.pc + 4)
        ∧ t.me.live s.me.freeHelper = true ∧ (t.me.ctx s.me.freeHelper).pc = (s.cx.reg a).toNat
        ∧ (t.me.ctx s.me.freeHelper).level = .u ∧ (t.me.ctx s.me.freeHelper).parent = some s.cur.2
        ∧ (t.me.ctx s.me.freeHelper).spr.hbtiv = s.cx.spr.hbtiv ∧ (∀ r, (t.me.ctx s.me.freeHelper).reg r
            = if 1 ≤ r.toNat ∧ r.toNat ≤ n.toNat then s.cx.reg (x + (r - 1)) else 0)
        ∧ t.cx.event = true ∧ t.gmem = s.gmem
        ∧ (s.me.slotsUsed + s.reservedOn s.cur.1 + s.me.slotWaiters.length < s.me.slots → (t.me.ctx s.me.freeHelper).run = .running ∧ t.me.lmem = s.me.lmem)
        ∧ (s.me.slots ≤ s.me.slotsUsed + s.reservedOn s.cur.1 + s.me.slotWaiters.length → (t.me.ctx s.me.freeHelper).run = .stopped .slot
            ∧ ∀ q, (q < 0x1E800 + 512 * s.me.freeHelper ∨ 0x1E800 + 512 * s.me.freeHelper + 512 ≤ q) → mget t.me.lmem q = mget s.me.lmem q))

/-- R96, R100, Table 5.6: HJOIN returns kind and cause of an ended, drained child and frees its number, 0x400 for what is no child of the
context, and waits for a live child. HKILL of what is no such helper returns 0. R97, R100: END of a helper ends it at once, with
kind 0, or as PACKET_ABORT where a packet is open: it holds its slot no more, its parent's event bit is set, and its own children have no
parent; with operations outstanding it waits for an entry of the tracker. END of the ballonet leaves it not live; in context 0 it traps. HKILL of a child with
nothing started ends it with kind 2 and returns 1; of local memory only the child's image area (R93) may change, as the stop of R92 writes it.
What in it is the model's reading and not the spec's words: log entries 33, 58 and 89. -/
def Obligations.HelperEnds : Prop :=
  (∀ (s : State) (a d : Reg), s.ready .u → s.readable [a] →
      let k := (s.cx.reg a).toNat
      (k = 0 ∨ 10 < k → Gives (.hjoin d a) s none d 0x400 ∧ Gives (.hkill d a) s none d 0)
      ∧ (1 ≤ k → k ≤ 10 → s.me.live k = false →
          Gives (.hkill d a) s none d 0
          ∧ (kget s.me.ended k = none → Gives (.hjoin d a) s none d 0x400)
          ∧ ∀ e, kget s.me.ended k = some e → e.parent = some s.cur.2 → e.drained = true →
              ∃ t, exec (.hjoin d a) s = .next t ∧ RegFile s.cx t.cx none d (BitVec.ofNat 64 (256 * e.kind + e.cause.toNat))
                ∧ Retired s t (s.cx.pc + 4) ∧ kget t.me.ended k = none ∧ t.gmem = s.gmem ∧ t.me.lmem = s.me.lmem)
      ∧ (1 ≤ k → k ≤ 10 → s.me.live k = true → (s.me.ctx k).parent = some s.cur.2 →
          ∃ t, exec (.hjoin d a) s = .next t ∧ t.cx.run = .parked (.child k) ∧ RegsSame s.cx t.cx))
  ∧ (∀ (s : State) (a d : Reg), s.ready .u → s.readable [a] →
      (1 ≤ s.cur.2 → s.cur.2 ≤ 10 → (s.me.pending s.cur.2 = true → 16 ≤ s.me.retiring → Parks .endCtx s .unit)
        ∧ (s.me.pending s.cur.2 = false ∨ s.me.retiring < 16 →
          ∃ t e, exec .endCtx s = .next t ∧ t.me.live s.cur.2 = false ∧ kget t.me.ended s.cur.2 = some e
            ∧ e.kind = (if s.cx.pkt.isSome then 3 else 0) ∧ e.cause = (if s.cx.pkt.isSome then 0x0E else 0)
            ∧ e.parent = s.cx.parent ∧ t.gmem = s.gmem ∧ t.me.lmem = s.me.lmem
            ∧ (∀ h ∈ t.me.ctxs, h.1 ≠ s.cur.2) ∧ t.me.slots = s.me.slots
            ∧ ∀ y, y ≠ s.cur.2 → kget t.me.ctxs y = (kget s.me.ctxs y).map (fun h =>
                { h with parent := if h.parent = some s.cur.2 then some 15 else h.parent, event := h.event || s.cx.parent == some y })))
      ∧ (s.cur.2 = 11 → ∃ t, exec .endCtx s = .next t ∧ t.me.live 11 = false ∧ (∀ p ∈ t.me.rx.posts, p.ctx ≠ 11)
        ∧ (∀ k h, kget t.me.ctxs k = some h → h.parent ≠ some 11) ∧ t.me.lmem = s.me.lmem ∧ t.gmem = s.gmem)
      ∧ (s.cur.2 = 0 → s.canTrap → Traps .endCtx s 0x01 (wordOf .endCtx))
      ∧ (∀ k, (s.cx.reg a).toNat = k → 1 ≤ k → k ≤ 10 → k ≠ s.cur.2 → s.me.live k = true → s.me.live s.cur.2 = true →
          (s.me.ctx k).parent = some s.cur.2 →
          (s.me.ctx k).committed = false → (s.me.ctx k).load = none → (s.me.ctx k).pkt = none → (s.me.ctx k).task = none → s.me.cmdsOf k = [] → s.me.pending k = false → s.me.outs = [] → s.me.aside = [] →
          ∃ t e, exec (.hkill d a) s = .next t ∧ t.me.live k = false ∧ kget t.me.ended k = some e ∧ e.kind = 2
            ∧ RegFile s.cx t.cx none d 1 ∧ Retired s t (s.cx.pc + 4) ∧ t.gmem = s.gmem
            ∧ ∀ b, (b < 0x1E800 + 512 * k ∨ 0x1E800 + 512 * k + 512 ≤ b) → mget t.me.lmem b = mget s.me.lmem b))

/-- R100, R104: YIELD gives up the next slot, HBT reloads the burner count from HBTIV, WFE takes the event bit, or waits, with a deadline unless ra is 0. -/
def Obligations.SchedulingWords : Prop :=
  ∀ (s : State) (a d : Reg) (idle : Bool), s.ready .u → s.readable [a] →
    (∃ t, exec .yieldSlot s = .next t ∧ OnlyCtx s t ∧ RegsOnly s.cx t.cx ∧ RegsSame s.cx t.cx ∧ t.cx.pc = s.cx.pc + 4 ∧ t.cx.yld = true)
    ∧ (∃ t, exec .hbt s = .next t ∧ OnlyCtx s t ∧ RegsOnly s.cx t.cx ∧ RegsSame s.cx t.cx ∧ t.cx.pc = s.cx.pc + 4
        ∧ t.cx.burnLeft t.now = 1024 * s.cx.spr.hbtiv.toNat)
    ∧ (s.cx.event = true → Changes (.wfe d a idle) s { s.cx with event := false } none d 0)
    ∧ (s.cx.event = false → s.cx.run = .running →
        ∃ t, exec (.wfe d a idle) s = .next t ∧ OnlyCtx s t ∧ RegsSame s.cx t.cx ∧ t.cx.pc = s.cx.pc
          ∧ t.cx.run = .parked (.event idle (if s.cx.reg a = 0 then none else some (s.now + (s.cx.reg a).toNat))))

/-! ### Tasks, streams and gangs -/

/-- R281: POST sends the record at its address to the mooring cluster and waits; the answer is returned. TKEY writes the record's key and a CRC over its first 60
bytes. -/
def Obligations.TaskWords : Prop :=
  ∀ (s : State) (a d : Reg) (r : Bool), s.ready .u →
    (s.readable [a] → ∀ u v b, s.cx.acc = some ⟨9, u, some ⟨v, b, none⟩⟩ → Gives (.post d a) s none d (BitVec.ofNat 64 v))
    ∧ (s.readable [a] → s.cx.acc = none → s.localOk (s.cx.reg a).toNat 64 64 false → s.me.wideIdle s.cur.2 = true → s.scalarBusy = false →
        s.me.owesAcks s.cur.2 s.uid = false →
        (∀ e ∈ s.me.lines, e.2.d = 0) →
        ∃ t m, exec (.post d a) s = .next t ∧ t.cx.run = .parked .unit ∧ t.net = s.net ++ [m] ∧ m.dst = .terr (s.terrOf s.cur.1)
          ∧ m.body = .record s.cur.1 s.cur.2 s.uid (mread s.me.lmem (s.cx.reg a).toNat 64) ∧ RegsSame s.cx t.cx ∧ t.cx.pc = s.cx.pc)
    ∧ (s.readable [d, a] → s.localOk (s.cx.reg d).toNat 64 64 false →
        ∃ t, exec (.tkey d a r) s = .next t ∧ RegsSame s.cx t.cx ∧ Retired s t (s.cx.pc + 4) ∧ t.gmem = s.gmem
          ∧ mnat t.me.lmem (s.cx.reg d).toNat 4
              = (if r then 0xFFFFFFFF - (if 0x7F800000 < (s.cx.reg a).toNat % 2 ^ 31 then 0x7FC00000 else (s.cx.reg a).toNat % 2 ^ 31)
                 else (s.cx.reg a).toNat % 2 ^ 32)
          ∧ ((s.cx.reg d).toNat + 64 ≤ 0x1E000 ∨ 0x1E400 ≤ (s.cx.reg d).toNat →
              mnat t.me.lmem ((s.cx.reg d).toNat + 60) 4 = crc32 (mread t.me.lmem (s.cx.reg d).toNat 60))
          ∧ ∀ q, (q < (s.cx.reg d).toNat ∨ (s.cx.reg d).toNat + 4 ≤ q) → (q < (s.cx.reg d).toNat + 60 ∨ (s.cx.reg d).toNat + 64 ≤ q) →
              mget t.me.lmem q = mget s.me.lmem q)

/-- R114: in streamed mode a JMP or a BR over g0 whose target stays within the indices 0 to 16,383 is a no-op: the word leaves the buffer; a branch over another
register, whether its source is full or not, CALL and JREG trap ILLEGAL_OP. R234, R240: SSTART of a stopped head of the territory starts it eight cc later and returns 0; of a running one it returns 1, of a
cluster of another territory 2; SSTOP from local mode stops the head; in a context other than 0 all STRM words trap (R239). R234, R235, R240: DETACH in the stream with a
nonzero rd leaves for local mode at its target, with rd zero it goes on; JOIN waits for its index, traps LOCAL_BOUNDS above 16,383 and
STREAM_LATE for an index that has been received. R238, R241: GANG takes the result that its row's firing left for it; without one it arrives
and waits. -/
def Obligations.StreamWords : Prop :=
  (∀ (s : State) (a : Reg) (b : BitVec 18) (o : BitVec 26) (w : Bool),
      s.cx.latch.imx = 0 → s.cleared .u → s.cx.rep = none → s.cx.mode = .streamed →
      let NoOp : Instr → Prop := fun i =>
        ∃ t, exec i s = .next t ∧ t.me.stream.buf = s.me.stream.buf.drop 1 ∧ RegsSame s.cx t.cx ∧ t.cx.mode = .streamed
          ∧ t.gmem = s.gmem ∧ t.me.lmem = s.me.lmem ∧ t.cx.latch = Latch.empty
      ((BitVec.ofInt 64 (s.cx.pc + o.toInt)).toNat ≤ 16383 → NoOp (.jmp o))
      ∧ ((BitVec.ofInt 64 (s.cx.pc + b.toInt)).toNat ≤ 16383 → NoOp (.beqz 0 b) ∧ NoOp (.bnez 0 b) ∧ NoOp (.bfull 0 b))
      ∧ (s.canTrap → a ≠ 0 → takeOk a w = true →
          let T (i : Instr) : Prop := Traps i s 0x01 (wordOf i)
          T (.call o) ∧ T (.bfull a b) ∧ T (.bempty a b)
          ∧ (s.cx.isBad a = false → T (.beqz a b) ∧ T (.bnez a b) ∧ T (.bltz a b) ∧ T (.bgez a b) ∧ T (.bgtz a b) ∧ T (.blez a b)
              ∧ T (.jr a w) ∧ T (.callr a w))
          ∧ (s.cx.isBad 31 = false → T .ret)))
  ∧ (∀ (s : State) (a d : Reg) (e : Bool) (skew : BitVec 4), s.ready .u → s.canTrap → s.cur.2 ≠ 0 → s.readable [d, a] → skew ≠ 0 →
      Traps (.sstart d a e skew) s 0x01 (wordOf (.sstart d a e skew)) ∧ Traps (.sstop d a e) s 0x01 (wordOf (.sstop d a e))
      ∧ Traps (.detach d a) s 0x01 (wordOf (.detach d a))
      ∧ ((s.cx.reg a).toNat ≤ 16383 → Traps (.join a e) s 0x01 (wordOf (.join a e))))
  ∧   (∀ (s : State) (a d : Reg) (skew : BitVec 4), s.ready .u → s.cur.2 = 0 → s.readable [a] → skew ≠ 0 →
      let v := (s.cx.reg a).toNat
      let c := v / 2 ^ 16 % 256
      (v < 2 ^ 24 → v / 2 ^ 14 % 4 = 0 →
        (s.inTerr s.cur.1 c = false → Gives (.sstart d a false skew) s none d 2)
        ∧ (s.inTerr s.cur.1 c = true → (s.clus c).head.running = true → Gives (.sstart d a false skew) s none d 1)
        ∧ (s.inTerr s.cur.1 c = true → (s.clus c).head.running = false →
            ∃ t, exec (.sstart d a false skew) s = .next t ∧ RegFile s.cx t.cx none d 0 ∧ Retired s t (s.cx.pc + 4)
              ∧ (t.clus c).head.running = true ∧ (t.clus c).head.idx = v % 2 ^ 14 ∧ (t.clus c).head.skew = skew.toNat
              ∧ (t.clus c).head.startAt = some (s.now + 8) ∧ t.gmem = s.gmem ∧ t.me.lmem = s.me.lmem))
      ∧ (v < 256 →
        (s.inTerr s.cur.1 v = false → Gives (.sstop d a false) s none d 2)
        ∧ (s.inTerr s.cur.1 v = true →
            ∃ t, exec (.sstop d a false) s = .next t ∧ RegFile s.cx t.cx none d 0 ∧ Retired s t (s.cx.pc + 4)
              ∧ (t.clus v).head.running = false ∧ t.gmem = s.gmem ∧ t.me.lmem = s.me.lmem)))
  ∧ (∀ (s : State) (a d : Reg) (idle : Bool), s.cur.2 = 0 → s.cx.latch.imx = 0 → s.cleared .u → s.cx.rep = none → s.readable [d, a] →
      (s.cx.mode = .streamed →
        (s.cx.reg d = 0 → ∃ t, exec (.detach d a) s = .next t ∧ RegsSame s.cx t.cx ∧ t.cx.mode = .streamed
          ∧ t.me.stream.buf = s.me.stream.buf.drop 1)
        ∧ (s.cx.reg d ≠ 0 → Obligations.targetOk (s.cx.reg a) →
            ∃ t, exec (.detach d a) s = .next t ∧ RegsSame s.cx t.cx ∧ t.cx.mode = .loc ∧ t.cx.pc = (s.cx.reg a).toNat ∧ t.me.stream.buf = []
              ∧ Retired s t (s.cx.reg a).toNat))
      ∧ (s.cx.mode = .loc →
        ((s.cx.reg a).toNat ≤ 16383 → s.me.stream.got.contains (s.cx.reg a).toNat = false →
          ∃ t, exec (.join a idle) s = .next t ∧ OnlyCtx s t ∧ RegsSame s.cx t.cx ∧ t.cx.run = .parked (.stream idle) ∧ t.cx.pc = s.cx.pc)
        ∧ (s.canTrap → 16383 < (s.cx.reg a).toNat → Traps (.join a idle) s 0x04 (s.cx.reg a))
        ∧ (s.canTrap → (s.cx.reg a).toNat ≤ 16383 → s.me.stream.got.contains (s.cx.reg a).toNat = true →
            Traps (.join a idle) s 0x09 (s.cx.reg a))))
  ∧ (∀ (s : State) (d : Reg) (idle : Bool) (g : BitVec 8), s.ready .u → s.cur.2 = 0 → g ≠ 255 → isSup s.cur.1 = false →
      let b := s.bridle (clusOf s.cur.1) (rowOf s.cur.1)
      (∀ w, kget b.results (lxOf s.cur.1) = some w →
        ∃ t, exec (.gang d idle g) s = .next t ∧ RegFile s.cx t.cx none d w ∧ Retired s t (s.cx.pc + 4)
          ∧ kget (t.bridle (clusOf s.cur.1) (rowOf s.cur.1)).results (lxOf s.cur.1) = none ∧ t.gmem = s.gmem ∧ t.me.lmem = s.me.lmem)
      ∧ (kget b.results (lxOf s.cur.1) = none →
        (s.arrived s.cur.1 = true → Parks (.gang d idle g) s (.bridle idle))
        ∧ (s.arrived s.cur.1 = false → s.scalarBusy = true → Parks (.gang d idle g) s .memory)
        ∧ (s.arrived s.cur.1 = false → s.scalarBusy = false →
          ∃ t, exec (.gang d idle g) s = .next t ∧ t.cx.run = .parked (.bridle idle) ∧ RegsSame s.cx t.cx ∧ t.cx.pc = s.cx.pc
            ∧ (t.arrived s.cur.1 = true ∨ (kget (t.bridle (clusOf s.cur.1) (rowOf s.cur.1)).results (lxOf s.cur.1)).isSome))))

/-! ### Territories and the supervisor -/

/-- R361: TSHAPE stores the clusters of the territory as a bit map and returns its generation; PRESS, PRESS.nb and PRESS.cfg read; PRESS.set
writes PCFG. R361: TFREEZE and TTHAW of a cluster of the territory that no move past PROPOSE locks set and clear its flag and return 0; of
another territory's cluster they return 1, of a locked one 2. -/
def Obligations.TerritoryWords : Prop :=
  (∀ (s : State) (a d : Reg), s.ready .u → s.readable [a] →
      (s.localOk (s.cx.reg a).toNat 32 32 true →
        ∃ t, exec (.tshape d a) s = .next t ∧ LocalStored s t (s.cx.reg a).toNat (leBytes 32 (s.shape (s.terrOf s.cur.1)))
          ∧ RegFile s.cx t.cx none d (BitVec.ofNat 64 (s.terr (s.terrOf s.cur.1)).gen.toNat) ∧ Retired s t (s.cx.pc + 4))
      ∧ Gives (.press d) s none d (s.clus (clusOf s.cur.1)).view.word
      ∧ Gives (.pressCfg d) s none d s.pcfg
      ∧ ((s.cx.reg a).toNat < 4 → clusNext (clusOf s.cur.1) (s.cx.reg a).toNat = none → Gives (.pressNb d a) s none d (BitVec.allOnes 64))
      ∧ (∀ c w, (s.cx.reg a).toNat < 4 → clusNext (clusOf s.cur.1) (s.cx.reg a).toNat = some c →
          kget (s.clus (clusOf s.cur.1)).nviews (s.cx.reg a).toNat = some w →
          Gives (.pressNb d a) s none d (BitVec.ofNat 64 (w.p * 2 ^ 48 + w.t * 2 ^ 40 + w.n % 512)))
      ∧ (s.cx.level = .s → (s.cx.reg a).toNat < 2 ^ 49 → (s.cx.reg a).toNat % 2 ^ 16 ≠ 0 → (s.cx.reg a).toNat / 2 ^ 16 % 2 ^ 8 ≠ 0 →
          (s.cx.reg a).toNat / 2 ^ 24 % 2 ^ 12 ≠ 0 →
          ∃ t, exec (.pressSet a) s = .next t ∧ Quiet s t (s.cx.pc + 4) ∧ t.pcfg = s.cx.reg a))
  ∧ (∀ (s : State) (a d : Reg), s.ready .t → s.readable [a] → (s.cx.reg a).toNat < 256 →
      let c := (s.cx.reg a).toNat
      (s.inTerr s.cur.1 c = false → Gives (.tfreeze d a false) s none d 1 ∧ Gives (.tthaw d a false) s none d 1)
      ∧ (s.inTerr s.cur.1 c = true → s.lockedPast c = true → Gives (.tfreeze d a false) s none d 2 ∧ Gives (.tthaw d a false) s none d 2)
      ∧ (s.inTerr s.cur.1 c = true → s.lockedPast c = false →
          (∃ t, exec (.tfreeze d a false) s = .next t ∧ RegFile s.cx t.cx none d 0 ∧ Retired s t (s.cx.pc + 4) ∧ (t.clus c).frozen = true
            ∧ t.gmem = s.gmem ∧ t.me.lmem = s.me.lmem)
          ∧ ∃ t, exec (.tthaw d a false) s = .next t ∧ RegFile s.cx t.cx none d 0 ∧ Retired s t (s.cx.pc + 4) ∧ (t.clus c).frozen = false
            ∧ t.gmem = s.gmem ∧ t.me.lmem = s.me.lmem))

/-- R89, R122, R53: TRAP enters the handler with cause USER_TRAP and its code in EVAL; a word that is no instruction enters it with cause
ILLEGAL_OP. Entry saves the PC, the level and the latch, and goes to the address in TVEC in local mode. R123, R361: ERET in a trap handler
restores the level and the latch, ends the handler and goes to EPC; outside one it traps, and in an upcall handler, where no trap can be taken,
it faults context 0 (R90, R123). R91, R361:
UPRET in an upcall handler restores level, latch and PC and ends the handler; UPRET.yield in a LOSS handler stops context 0 at EPC once
nothing of it runs. Outside an upcall handler both trap.
What in it is the model's reading and not the spec's words: log entry 11. -/
def Obligations.TrapsAndReturns : Prop :=
  (∀ (s : State) (code : BitVec 11) (w : BitVec 32), s.canTrap →
      (s.cx.latch.imx = 0 → s.cleared .u → Traps (.trap code) s 0x10 (code.zeroExtend 64))
      ∧ (s.cx.rep = none → Traps (.illegalWord w) s 0x01 (trapVal (.illegalWord w))))
  ∧ (∀ (s : State), s.cx.latch.imx = 0 → s.cleared .u → s.cx.rep = none → s.cx.spr.upc = false → s.cx.spr.str = false →
      (s.cx.spr.inh = true → s.cx.load = none → Obligations.targetOk s.cx.spr.epc →
        ∃ t, exec .eret s = .next t ∧ OnlyCtx s t ∧ t.cx.level = s.cx.spr.plev ∧ t.cx.latch = s.cx.spr.hlatch
          ∧ t.cx.pc = s.cx.spr.epc.toNat ∧ t.cx.spr.inh = false ∧ t.cx.mode = .loc ∧ RegsSame s.cx t.cx)
      ∧ (s.canTrap → Traps .eret s 0x01 (wordOf .eret)))
  ∧ (∀ (s : State), s.cx.latch.imx = 0 → s.cleared .u → s.cx.spr.upc = true →
      (s.canTrap → Traps .eret s 0x01 (wordOf .eret))
      ∧ (s.cx.spr.inh = true → s.cx.load = none → s.cur.2 = 0 →
          ∃ t m, exec .eret s = .next t ∧ t.cx.run = .stopped .faulted ∧ t.cx.spr.ecause = 0x01 ∧ t.cx.spr.epc = word s.cx.pc
            ∧ t.cx.spr.eval = wordOf .eret ∧ RegsSame s.cx t.cx ∧ t.net = s.net ++ [m] ∧ m.dst = .core (supOf (dieOf s.cur.1))))
  ∧ (∀ (s : State), s.ready .t →
      (s.cx.spr.inh = true → s.cx.spr.upc = true → s.cx.spr.str = false → s.cx.load = none → Obligations.targetOk s.cx.spr.epc →
        ∃ t, exec .upret s = .next t ∧ OnlyCtx s t ∧ t.cx.level = s.cx.spr.plev ∧ t.cx.latch = s.cx.spr.hlatch ∧ t.cx.pc = s.cx.spr.epc.toNat
          ∧ t.cx.spr.inh = false ∧ t.cx.spr.upc = false ∧ RegsSame s.cx t.cx)
      ∧ (s.cx.spr.inh = true → s.cx.spr.upc = true → s.cx.spr.str = false → s.cx.spr.upcall = 1 → s.cur.2 = 0 → s.stopReady s.cur.1 0 = true →
          s.cx.pkt = none → s.cx.load = none → Obligations.targetOk s.cx.spr.epc →
          ∃ t, exec .upretYield s = .next t ∧ t.cx.run = .stopped .saved ∧ t.cx.pc = s.cx.spr.epc.toNat ∧ t.cx.level = s.cx.spr.plev
            ∧ t.cx.spr.inh = false ∧ RegsSame s.cx t.cx)
      ∧ (s.canTrap → Traps .upret s 0x01 (wordOf .upret) ∧ Traps .upretYield s 0x01 (wordOf .upretYield)))

/-- R312, R325, R326: TAILRD of an empty ring returns the lost count alone, of another it stores the oldest entry and returns bit 9 with the
count of entries left, which with .peek are all. SCRUB orders as FENCE.rel.core does; of a core whose contexts are stopped it zeroes the core
and returns 0, of one that runs it returns 1. TINVB does as FENCE.rel.pkg: it waits for the context's accesses and its wide side, writes back the
dirty lines and waits for the acknowledgements; then it sends its invalidation to the 256 clusters, waits for their answers, and completes.
What in it is the model's reading and not the spec's words: log entry 48, that a scrub clears the killed mark and starts CYC again. -/
def Obligations.SupervisorWords : Prop :=
  ∀ (s : State) (a d : Reg) (peek : Bool),
    (s.ready .u → s.readable [a] → s.localOk (s.cx.reg a).toNat 16 16 true →
      (s.me.tail.entries = [] → Gives (.tailrd d a peek) s none d (BitVec.ofNat 64 (2 ^ 32 * s.me.tail.lost.toNat)))
      ∧ ∀ e es, s.me.tail.entries = e :: es →
          let left := if peek then e :: es else es
          let p := (s.cx.reg a).toNat
          ∃ t, exec (.tailrd d a peek) s = .next t
            ∧ RegFile s.cx t.cx none d (BitVec.ofNat 64 (2 ^ 32 * s.me.tail.lost.toNat + 512 + left.length)) ∧ Retired s t (s.cx.pc + 4)
            ∧ (∀ i, i < 16 → mget t.me.lmem (p + i) = asHeld (p + i) (BitVec.ofNat 8 (e.toNat / 256 ^ i)))
            ∧ (∀ q, (q < p ∨ p + 16 ≤ q) → mget t.me.lmem q = mget s.me.lmem q) ∧ t.me.tail = { s.me.tail with entries := left })
    ∧ (s.ready .s → s.readable [a] → s.cx.acc = none → s.scalarBusy = false → s.me.wideIdle s.cur.2 = true →
      ∀ c, (s.cx.reg a).toNat = c → c < 4096 → c ≠ s.cur.1 → dieOf c = dieOf s.cur.1 → s.disabled.contains c = false →
      (s.unstopped c = true → Gives (.scrub d a 0) s none d 1)
      ∧ (s.unstopped c = false →
          ∃ t, exec (.scrub d a 0) s = .next t ∧ RegFile s.cx t.cx none d 0 ∧ (t.core c).ctxs = [] ∧ (t.core c).lmem = []
            ∧ (t.core c).istore = [] ∧ (t.core c).lines = [] ∧ (t.stat c).cyc0 = s.now ∧ (t.stat c).killed = false ∧ t.gmem = s.gmem
            ∧ t.cx.pc = s.cx.pc + 4))
    ∧ (s.ready .s → s.readable [a] → s.cx.acc = none →
      (s.scalarBusy = true → Parks (.scrub d a 2) s .memory)
      ∧ (s.scalarBusy = false → s.me.wideIdle s.cur.2 = false → Parks (.scrub d a 2) s .wide))
    ∧ (s.ready .s → s.readable [d, a] → ∀ m : BitVec 2, m ≠ 3 → (s.cx.reg d).toNat < 256 →
      let i : Instr := .tinvb d a m
      let Invalidates : Prop :=
        ∃ t, exec i s = .next t ∧ t.net.length = s.net.length + 256 ∧ t.cx.acc = some ⟨11, s.uid, none⟩ ∧ t.cx.pc = s.cx.pc
          ∧ t.cx.run = .parked .memory ∧ RegsSame s.cx t.cx
          ∧ ∀ c, c < 256 → ∃ x ∈ t.net, x.dst = .cluster c ∧ x.body = .tinvb s.cur.1 s.uid (s.cx.reg d).toNat (s.cx.reg a).toNat m.toNat
      (s.cx.acc = none →
        (s.scalarBusy = true → Parks i s .memory)
        ∧ (s.scalarBusy = false → s.me.wideIdle s.cur.2 = false → Parks i s .wide)
        ∧ (s.scalarBusy = false → s.me.wideIdle s.cur.2 = true →
            ((∀ e ∈ s.me.lines, e.2.d = 0) →
              (¬Obligations.owes s 3 s.uid → Invalidates)
              ∧ (Obligations.owes s 3 s.uid → ∃ t, exec i s = .next t ∧ Obligations.Awaits s t 3 ∧ OnlyCtx s t))
            ∧ ∀ j l, kget s.me.lines j = some l → l.d ≠ 0 → ∃ t, exec i s = .next t ∧ Obligations.Awaits s t 3
                ∧ Obligations.WrittenBack s t j l ∧ kget t.me.lines j = some { l with d := 0 }))
      ∧ (∀ u r, s.cx.acc = some ⟨3, u, r⟩ → (¬Obligations.owes s 3 u → Invalidates) ∧ (Obligations.owes s 3 u → Parks i s .memory))
      ∧ (∀ u r, s.cx.acc = some ⟨11, u, r⟩ → (s.me.out u = none → Goes i s (s.cx.pc + 4)) ∧ (s.me.out u ≠ none → Parks i s .memory)))

/-! ### What the vector and Gaussian units compute -/

/-- Memory once a command has written all its results to it. -/
def Obligations.after (x : Started) (m : Memory) : Memory := x.writes.foldl (fun m v => mwrite m v.1 v.2) m

/-- R154: on any memory, the active ones of sixteen lanes of `w` bytes at `d` take their values, the others become zero or stay as they are, and no other byte
changes. -/
def Obligations.Lanes (x : Started) (d w : Nat) (act : Nat → Bool) (z : Bool) (val : Nat → Nat) : Prop :=
  x.mask = none ∧ ∀ m : Memory, m.wf = true →
    (∀ j, j < 16 → mnat (Obligations.after x m) (d + j * w) w = if act j then val j else if z then 0 else mnat m (d + j * w) w)
    ∧ ∀ b, (b < d ∨ d + 16 * w ≤ b) → mget (Obligations.after x m) b = mget m b

/-- The value of an integer element: codes 0, 2 and 4 are signed (Table 1.6). -/
def Obligations.elem (t v : Nat) : Int := if t % 2 = 0 then (BitVec.ofNat (tyW t) v).toInt else v

/-- An integer clamped to the range of a type, and whether that changed it. -/
def Obligations.clampTo (t : Nat) (v : Int) : Nat × Bool :=
  let lo : Int := if t % 2 = 0 then -(2 ^ (tyW t - 1)) else 0
  let hi : Int := if t % 2 = 0 then 2 ^ (tyW t - 1) - 1 else 2 ^ tyW t - 1
  ((max lo (min hi v) % 2 ^ tyW t).toNat, decide (v < lo ∨ hi < v))

/-- Table 8.3 and R158 on integer lanes a, b and d and a QS entry: the lane's result, and whether it was clamped. -/
def Obligations.vopInt (i : Instr) (t : Nat) (e : Word) (a b d : Nat) : Option (Nat × Bool) :=
  let x := Obligations.elem t a
  let y := Obligations.elem t b
  let sh := b % tyW t
  let wrap (v : Int) : Option (Nat × Bool) := some ((v % 2 ^ tyW t).toNat, false)
  match i with
  | .vadd .. => wrap (x + y)
  | .vsub .. => wrap (x - y)
  | .vmul .. => wrap (x * y)
  | .vfma .. => wrap (x * y + Obligations.elem t d)
  | .vmin .. => wrap (min x y)
  | .vmax .. => wrap (max x y)
  | .vabs .. => wrap x.natAbs
  | .vneg .. => wrap (-x)
  | .vand .. => some (a &&& b, false)
  | .vor .. => some (a ||| b, false)
  | .vxor .. => some (a ^^^ b, false)
  | .vshl .. => wrap (a <<< sh : Nat)
  | .vshr .. => some (a >>> sh, false)
  | .vsra .. => wrap ((BitVec.ofNat (tyW t) a).toInt / 2 ^ sh)
  | .vmov .. => some (a, false)
  | .vsplat .. => wrap e.toNat
  | .vclamp .. => wrap (min (max x (Obligations.elem t (e.toNat % 2 ^ tyW t))) (Obligations.elem t (e.toNat / 2 ^ 32 % 2 ^ tyW t)))
  | .vadds .. => some (Obligations.clampTo t (x + y))
  | .vsubs .. => some (Obligations.clampTo t (x - y))
  | .vmulh .. => wrap (x * y / 2 ^ tyW t)
  | _ => none

/-- Table 8.3 and R157 on floating lanes: the exact result of the arithmetic. -/
def Obligations.vopFloat (i : Instr) (x y d : Machine.Num) : Option Machine.Num :=
  match i with
  | .vadd .. => some (x.add y)
  | .vsub .. => some (x.add y.neg)
  | .vmul .. => some (x.mul y)
  | .vfma .. => some ((x.mul y).add d)
  | _ => none

/-- The mask, the type and the zeroing bit of a VOP word of one element type. -/
def Obligations.vopParts : Instr → Option (Ptr × Nat × Bool)
  | .vadd _ _ _ m t _ z | .vsub _ _ _ m t _ z | .vmul _ _ _ m t _ z | .vfma _ _ _ m t _ z | .vmin _ _ _ m t _ z | .vmax _ _ _ m t _ z
  | .vand _ _ _ m t _ z | .vor _ _ _ m t _ z | .vxor _ _ _ m t _ z | .vshl _ _ _ m t _ z | .vshr _ _ _ m t _ z | .vsra _ _ _ m t _ z
  | .vadds _ _ _ m t _ z | .vsubs _ _ _ m t _ z | .vmulh _ _ _ m t _ z => some (m, t.toNat, z)
  | .vabs _ _ m t _ z | .vneg _ _ m t _ z | .vmov _ _ m t _ z | .vclamp _ _ m t _ z => some (m, t.toNat, z)
  | .vsplat _ m t _ z => some (m, t.toNat, z)
  | _ => none

/-- R162: a relation of two lanes, from whether the first is smaller, whether they are equal, and whether one is a NaN. -/
def Obligations.relates (t : Nat) (r : Bool → Bool → Bool → Bool) (a b : Nat) : Bool :=
  if t < 6 then r (decide (Obligations.elem t a < Obligations.elem t b)) (decide (Obligations.elem t a = Obligations.elem t b)) false
  else
    let x := (fmtOf t).dec a
    let y := (fmtOf t).dec b
    let n := x.isNan || y.isNan
    r (!n && x.lt y) (!n && x.eq y) n

/-- R162: a VCMP word's destination, mask, type and zeroing bit, and its relation. -/
def Obligations.vcmpParts : Instr → Option ((Ptr × Ptr × Nat × Bool) × (Bool → Bool → Bool → Bool))
  | .vceq d _ _ m t _ z => some ((d, m, t.toNat, z), fun _ e _ => e)
  | .vcne d _ _ m t _ z => some ((d, m, t.toNat, z), fun _ e _ => !e)
  | .vclt d _ _ m t _ z => some ((d, m, t.toNat, z), fun l _ _ => l)
  | .vcle d _ _ m t _ z => some ((d, m, t.toNat, z), fun l e _ => l || e)
  | .vcgt d _ _ m t _ z => some ((d, m, t.toNat, z), fun l e n => !l && !e && !n)
  | .vcge d _ _ m t _ z => some ((d, m, t.toNat, z), fun l _ n => !l && !n)
  | .vcun d _ _ m t _ z => some ((d, m, t.toNat, z), fun _ _ n => n)
  | _ => none

/-- R163: the fixed binary tree of a reduction. -/
def Obligations.tree (f : Nat → Nat → Nat) (l : Nat → Nat) : Nat → Nat → Nat
  | 0, j => l j
  | n + 1, j => f (Obligations.tree f l n (2 * j)) (Obligations.tree f l n (2 * j + 1))

/-- R154 to R167: what a vector command that has read `mem`, with poisoned words `bad`, and whose context's masks are good, has as its result. Integer functions and the
floating sum, difference, product and fused product of Table 8.3, VSEL and VCVT between integers; comparisons; VRED; the permutes; MASK. -/
def Obligations.VecResult (q : Cmd) (h : Ctx) (mem : Memory) (bad : List Nat) (x : Started) : Prop :=
  let p (n : Nat) : Nat := q.ptr.getD n 0
  let e := q.vals.headD 0
  let lane (a w j : Nat) : Nat := mnat mem (a + j * w) w
  let on (m : Ptr) (j : Nat) : Bool := (h.mask m).getLsbD j
  let count (f : Nat → Bool) : Nat := (List.range 16).countP f
  let masks (d : Ptr) (f : Nat → Bool) : Prop :=
    x.writes = [] ∧ x.qw = none ∧ x.flags = 0 ∧ ∃ v b, x.mask = some (d, v, b) ∧ (bad = [] → b = false) ∧ ∀ j, j < 16 → v.getLsbD j = f j
  let gives (v : Word) : Prop := ∃ b, x.qw = some (v, b) ∧ (bad = [] → b = false)
  let counts (v : Nat) : Prop := x.writes = [] ∧ x.mask = none ∧ x.flags = 0 ∧ gives (BitVec.ofNat 64 v)
  (bad = [] → x.poison = [])
  ∧ (∀ m t z, Obligations.vopParts q.instr = some (m, t, z) →
    let w := tyBytes t
    let v (j : Nat) := Obligations.vopInt q.instr t e (lane (p 1) w j) (lane (p 2) w j) (lane (p 0) w j)
    let r (j : Nat) := Obligations.vopFloat q.instr ((fmtOf t).dec (lane (p 1) w j)) ((fmtOf t).dec (lane (p 2) w j)) ((fmtOf t).dec (lane (p 0) w j))
    (t < 6 → Obligations.Lanes x (p 0) w (on m) z (fun j => ((v j).getD (0, false)).1) ∧ x.qw = none
      ∧ x.flags = if (List.range 16).any (fun j => on m j && ((v j).getD (0, false)).2) then 32 else 0)
    ∧ (6 ≤ t → t < 9 → (r 0).isSome = true →
        Obligations.Lanes x (p 0) w (on m) z (fun j => ((fmtOf t).round false ((r j).getD .nan)).1) ∧ x.qw = none))
  ∧ (∀ d a b m t i, q.instr = .vsel d a b m t i →
      Obligations.Lanes x (p 0) (tyBytes t.toNat) (fun _ => true) false (fun j => lane (p (if on m j then 1 else 2)) (tyBytes t.toNat) j) ∧ x.flags = 0)
  ∧ (∀ d a u m t i z v c, q.instr = .vcvt d a u m t i z v c → t.toNat < 6 → 2 * u.toNat + v.toNat < 6 →
      let ot := 2 * u.toNat + v.toNat
      let r (j : Nat) := Obligations.clampTo ot (Obligations.elem t.toNat (lane (p 1) (tyBytes t.toNat) j))
      Obligations.Lanes x (p 0) (tyBytes ot) (on m) z (fun j => (r j).1)
        ∧ x.flags = if (List.range 16).any (fun j => on m j && (r j).2) then 32 else 0)
  ∧ (∀ d m t z f, Obligations.vcmpParts q.instr = some ((d, m, t, z), f) →
      masks d (fun j => if on m j then Obligations.relates t f (lane (p 0) (tyBytes t) j) (lane (p 1) (tyBytes t) j) else !z && on d j))
  ∧ (∀ a m t i op, q.instr = .vred a m t i op → op.toNat < 6 →
      let w := tyBytes t.toNat
      let act := (List.range 16).filter (on m)
      let el (j : Nat) : Int := Obligations.elem t.toNat (lane (p 0) w j)
      let top (b : Bool) : Int := if t.toNat % 2 = 0 then 2 ^ (8 * w - 1) - ofBool b else 2 ^ (8 * w) - ofBool b
      x.writes = [] ∧ x.mask = none
        ∧ (t.toNat < 6 → x.flags = 0
            ∧ (op = 0 → gives (BitVec.ofInt 64 (act.foldl (fun r j => r + el j) 0)))
            ∧ (op = 1 → gives (BitVec.ofInt 64 (act.foldl (fun r j => min r (el j)) (top true))))
            ∧ (op = 2 → gives (BitVec.ofInt 64 (act.foldl (fun r j => max r (el j)) (if t.toNat % 2 = 0 then -(top false) else 0))))
            ∧ (op = 3 → gives (BitVec.ofNat 64 (act.foldl (fun r j => r &&& lane (p 0) w j) (2 ^ (8 * w) - 1))))
            ∧ (op = 4 → gives (BitVec.ofNat 64 (act.foldl (fun r j => r ||| lane (p 0) w j) 0)))
            ∧ (op = 5 → gives (BitVec.ofNat 64 (act.foldl (fun r j => r ^^^ lane (p 0) w j) 0))))
        ∧ (6 ≤ t.toNat → t.toNat < 9 → op = 0 →
            gives (BitVec.ofNat 64 (Obligations.tree (fun a b => ((fmtOf t.toNat).round false (((fmtOf t.toNat).dec a).add ((fmtOf t.toNat).dec b))).1)
              (fun j => if on m j then lane (p 0) w j else 2 ^ (8 * w - 1)) 4 0))))
  ∧ (∀ d a b m t i z, q.instr = .vperm d a b m t i z →
      Obligations.Lanes x (p 0) (tyBytes t.toNat) (on m) z (fun j => lane (p 1) (tyBytes t.toNat) (lane (p 2) (tyBytes t.toNat) j % 16)) ∧ x.flags = 0)
  ∧ (∀ d a b m t i z, q.instr = .vgath d a b m t i z →
      Obligations.Lanes x (p 0) (tyBytes t.toNat) (on m) z (fun j => lane (p 1) (tyBytes t.toNat) (lane (p 2) 2 j % 4096)) ∧ x.flags = 0)
  ∧ (∀ d a b m t i, q.instr = .vscat d a b m t i →
      let w := tyBytes t.toNat
      let at_ (j : Nat) : Nat := p 0 + w * (lane (p 2) 2 j % 4096)
      x.mask = none ∧ x.flags = 0 ∧ ∀ mm : Memory, mm.wf = true →
        (∀ j, j < 16 → on m j = true → (∀ i, i < 16 → j < i → on m i = true → at_ i ≠ at_ j) → mnat (Obligations.after x mm) (at_ j) w = lane (p 1) w j)
        ∧ ∀ b, (∀ j, j < 16 → on m j = true → b < at_ j ∨ at_ j + w ≤ b) → mget (Obligations.after x mm) b = mget mm b)
  ∧ (∀ d a m t i z c, q.instr = .vcomp d a m t i z c →
      let act := (List.range 16).filter (on m)
      Obligations.Lanes x (p 0) (tyBytes t.toNat) (fun j => decide (j < act.length)) z (fun j => lane (p 1) (tyBytes t.toNat) (act.getD j 0))
        ∧ x.flags = 0 ∧ (c = true → gives (BitVec.ofNat 64 act.length)) ∧ (c = false → x.qw = none))
  ∧ (∀ d a b, q.instr = .mand d a b → masks (d.truncate 3) (fun j => on (a.truncate 3) j && on (b.truncate 3) j))
  ∧ (∀ d a b, q.instr = .mor d a b → masks (d.truncate 3) (fun j => on (a.truncate 3) j || on (b.truncate 3) j))
  ∧ (∀ d a b, q.instr = .mxor d a b → masks (d.truncate 3) (fun j => on (a.truncate 3) j != on (b.truncate 3) j))
  ∧ (∀ d a, q.instr = .mnot d a → masks (d.truncate 3) (fun j => !on (a.truncate 3) j))
  ∧ (∀ d a w, q.instr = .mset d a w → masks (d.truncate 3) (fun j => e.getLsbD j))
  ∧ (∀ a, q.instr = .mpop a → counts (count (on (a.truncate 3))))
  ∧ (∀ a, q.instr = .many a → counts (if 0 < count (on (a.truncate 3)) then 1 else 0))
  ∧ (∀ a, q.instr = .mall a → counts (if count (on (a.truncate 3)) = 16 then 1 else 0))
  ∧ ∀ a, q.instr = .mget a → counts (h.mask (a.truncate 3)).toNat

/-- A joint block in elimination (R207): η and the lower triangle of Λ. -/
abbrev Obligations.InfoBlock := (Nat → Nat) × (Nat → Nat → Nat)

/-- R207: one pivot step, on index `j`. -/
def Obligations.pivot (b : Obligations.InfoBlock) (j : Nat) : Obligations.InfoBlock :=
  let f (i : Nat) : Nat := f32div (b.2 j i) (b.2 j j)
  (fun i => f32fnma (f i) (b.1 j) (b.1 i), fun i l => f32fnma (f i) (b.2 j l) (b.2 i l))

/-- R207: the block once the indices from `n − 1` down to `k` are eliminated, `n − k` of them. -/
def Obligations.eliminated (b : Obligations.InfoBlock) (k : Nat) : Nat → Obligations.InfoBlock
  | 0 => b
  | c + 1 => Obligations.eliminated (Obligations.pivot b (k + c)) k c

/-- R208: the means of the first `m` variables, of a block of which `n` are eliminated. -/
def Obligations.means (b : Obligations.InfoBlock) (n : Nat) : Nat → List Nat
  | 0 => []
  | m + 1 =>
    let mu := Obligations.means b n m
    let at_ := Obligations.eliminated b (m + 1) (n - (m + 1))
    mu ++ [(List.range m).foldl (fun t i => f32fnma (f32div (at_.2 m i) (at_.2 m m)) (mu.getD i 0) t) (f32div (at_.1 m) (at_.2 m m))]

/-- R201, R204 to R211: what a Gaussian command that has read `mem`, with poisoned words `bad`, has as its result: of the block words x of its first source and y of its
second; GELIM and GMEAN fail their verdict at the first pivot d, from the last index down, that is a NaN or at most τ. -/
def Obligations.GauResult (q : Cmd) (mem : Memory) (bad : List Nat) (x : Started) : Prop :=
  let p (n : Nat) : Nat := q.ptr.getD n 0
  let e := q.vals.headD 0
  let word (a i : Nat) : Nat := mnat mem (a + 4 * i) 4
  let size (n : Nat) : Nat := n + n * (n + 1) / 2
  let block (a n : Nat) : Obligations.InfoBlock := (fun i => word a i, fun i l => word a (n + i * (i + 1) / 2 + l))
  let writes (n : Nat) (v : Nat → Nat) : Prop :=
    x.fault = none ∧ x.mask = none ∧ x.qw = none ∧ ∀ m : Memory, m.wf = true →
      (∀ i, i < n → mnat (Obligations.after x m) (p 0 + 4 * i) 4 = v i)
      ∧ ∀ b, (b < p 0 ∨ p 0 + 4 * n ≤ b) → mget (Obligations.after x m) b = mget m b
  let sound (a n : Nat) : Prop := touchesBad bad a (4 * size n) = false
  let two (n : Nat) (f : Nat → Nat → Nat) : Prop :=
    x.phase = 1 ∧ (sound (p 1) n → sound (p 2) n → writes (size n) (fun i => f (word (p 1) i) (word (p 2) i)))
      ∧ (¬(sound (p 1) n ∧ sound (p 2) n) → x.fault = some 0x07 ∧ x.writes = [])
  let fails (b : Obligations.InfoBlock) (n j : Nat) : Prop :=
    let d := (Obligations.eliminated b (j + 1) (n - (j + 1))).2 j j
    (f32 d).isNan = true ∨ (f32 d).lt (f32 q.gthr.toNat) = true ∨ (f32 d).eq (f32 q.gthr.toNat) = true
  let pivots (n k m : Nat) (v : Nat → Nat) : Prop :=
    let b := block (p 1) n
    x.phase = 2 ∧ (¬sound (p 1) n → x.fault = some 0x07 ∧ x.verdict = none ∧ x.writes = [])
      ∧ (sound (p 1) n → (∀ j, k ≤ j → j < n → ¬fails b n j) → x.verdict = none ∧ writes m v)
      ∧ (sound (p 1) n → ∀ j, k ≤ j → j < n → fails b n j → (∀ i, j < i → i < n → ¬fails b n i) →
          x.writes = [] ∧ x.verdict = some (0x0A, BitVec.ofNat 64 ((Obligations.eliminated b (j + 1) (n - (j + 1))).2 j j * 2 ^ 32 + j)))
  (∀ d a b n t u, q.instr = .gacc d a b n t u → two (n.toNat + 1) f32add)
  ∧ (∀ d a b n t u, q.instr = .gsub d a b n t u → two (n.toNat + 1) f32sub)
  ∧ (∀ d a b n t u, q.instr = .gdamp d a b n t u →
      two (n.toNat + 1) (fun v w => toF32 (((Num.fin false (e.toNat % 256) (-8)).mul (f32 (f32sub w v))).add (f32 v))))
  ∧ (∀ d a n t u, q.instr = .gcopy d a n t u →
      x.phase = 1 ∧ (sound (p 1) (n.toNat + 1) → writes (size (n.toNat + 1)) (word (p 1))) ∧ (¬sound (p 1) (n.toNat + 1) → x.fault = some 0x07))
  ∧ (∀ d a n t u, q.instr = .greg d a n t u →
      x.phase = 1 ∧ (¬sound (p 1) (n.toNat + 1) → x.fault = some 0x07) ∧ (sound (p 1) (n.toNat + 1) →
        writes (size (n.toNat + 1)) (fun i =>
          if ∃ j, j < n.toNat + 1 ∧ i = n.toNat + 1 + j * (j + 1) / 2 + j then f32add (word (p 1) i) (e.toNat % 2 ^ 32)
          else if (f32 (word (p 1) i)).isNan then 0x7FC00000 else word (p 1) i)))
  ∧ (∀ a b n t u, q.instr = .gresid a b n t u →
      let dif (i : Nat) : Nat := toF32 (f32 (f32sub (word (p 0) i) (word (p 1) i))).abs
      x.phase = 1 ∧ x.writes = [] ∧ (¬(sound (p 0) (n.toNat + 1) ∧ sound (p 1) (n.toNat + 1)) → x.fault = some 0x07)
        ∧ (sound (p 0) (n.toNat + 1) → sound (p 1) (n.toNat + 1) → x.fault = none ∧ ∃ r, x.qw = some (BitVec.ofNat 64 r, false)
          ∧ (∀ i, i < size (n.toNat + 1) → (f32 (dif i)).isNan = true → r = 0x7FC00000)
          ∧ ((∀ i, i < size (n.toNat + 1) → (f32 (dif i)).isNan = false) →
              (∃ i, i < size (n.toNat + 1) ∧ r = dif i) ∧ ∀ i, i < size (n.toNat + 1) → (f32 r).lt (f32 (dif i)) = false)))
  ∧ (∀ d a k l t u, q.instr = .gelim d a k l t u →
      let n := k.toNat + l.toNat + 2
      let m := k.toNat + 1
      let r := Obligations.eliminated (block (p 1) n) m (n - m)
      pivots n m (size m) (fun i => if i < m then r.1 i else
        let c := ((List.range m).filter (fun j => m + j * (j + 1) / 2 ≤ i)).getLastD 0
        r.2 c (i - m - c * (c + 1) / 2)))
  ∧ (∀ d a n t u, q.instr = .gmean d a n t u →
      pivots (n.toNat + 1) 0 (n.toNat + 1) (fun i => (Obligations.means (block (p 1) (n.toNat + 1)) (n.toNat + 1) (n.toNat + 1)).getD i 0))
  ∧ ∀ a n t u, q.instr = .gsend a n t u →
      let hd := q.vals.getD 1 0
      x.phase = 1 ∧ x.writes = []
        ∧ ((destOf e = none ∨ bits hd 20 19 ≠ 0) → x.fault = some 0x01)
        ∧ (destOf e ≠ none → bits hd 20 19 = 0 → wireFloat (bits hd 51 5) = false → x.fault = some 0x02)
        ∧ (destOf e ≠ none → bits hd 20 19 = 0 → wireFloat (bits hd 51 5) = true →
            (¬sound (p 0) (n.toNat + 1) → x.fault = some 0x07)
            ∧ (sound (p 0) (n.toNat + 1) → x.fault = none
                ∧ x.cmd.vals = q.vals ++ (List.range (size (n.toNat + 1))).map (fun i => BitVec.ofNat 64 (word (p 0) i))))

/-! ### Engines -/

/-- R49, R130, R171, R175, R181, R203: an engine that is free takes its next command. One whose guard is false leaves with its token settled as
discarded; a vector or Gaussian one whose guard is true is started, its QS entries taken. It reads its sources one granule a step, as each stands
then, and has written nothing; with the last one it has its result, that of Table 8.3 and R157 to R167, or of R205 to R211.
What in it is the model's reading and not the spec's words: log entries 15, 41, 79, 80 and 97. -/
def Obligations.EngineStarts : Prop :=
  ∀ (s : State) (k : Nat) (q : Cmd),
    let q1 : Cmd := { q with vals := q.vals ++ (s.ctx k q.ctx).qs.take (qsTakes q.instr) }
    let first (gs : List Nat) : Started := match gs.head? with | some g => (s.core k).readGranule q1.begin g | none => q1.begin
    let vecDone (q' : Cmd) (r1 x : Started) : Prop := x.cmd = q' ∧
      ((∀ m, ((s.core k).wctx q'.ctx).maskBad m = false) → Obligations.VecResult q' ((s.core k).wctx q'.ctx) r1.snap r1.snapBad x)
    let gauDone (q' : Cmd) (r1 x : Started) : Prop := x.cmd.instr = q'.instr ∧ x.cmd.uid = q'.uid ∧ x.phase ≠ 0
      ∧ Obligations.GauResult q' r1.snap r1.snapBad x
    (s.heads k .gau q .no → Answers (.gaussianCommandStart k) s fun t => Discarded s t k .gau q)
    ∧ (s.heads k .mat q .no → Answers (.matrixCommandStart k) s fun t => Discarded s t k .mat q)
    ∧ (s.heads k .push q .no → (s.core k).pushStalled = false → (s.core k).psh.olderOf q.ctx = none → (s.core k).released .push q.ctx = none →
        Answers (.pushCommandStart ⟨k, q.ctx⟩) s fun t => Discarded s t k .push q)
    ∧ (s.heads k .vec q .yes → s.plainStart k q → (∀ n, q.instr ≠ .vpref n) → Answers (.vectorCommandStart k) s fun t =>
      let r1 := first ((s.core k).vecNeeds q1.begin)
      Reads s t k q.ctx ∧ Taken s t k .vec q ∧ (t.ctx k q.ctx).qs = (s.ctx k q.ctx).qs.drop (qsTakes q.instr)
        ∧ if ((s.core k).vecNeeds r1).all r1.got.contains then
            (t.core k).vec.run = none ∧ ∃ x, (t.core k).vec.older = (s.core k).vec.older ++ [x] ∧ vecDone q1 r1 x
          else (t.core k).vec.run = some { r1 with phase := 0 } ∧ (t.core k).vec.older = (s.core k).vec.older)
    ∧ (∀ n, s.heads k .vec q .yes → s.plainStart k q → q.instr = .vpref n → Answers (.vectorCommandStart k) s fun t =>
      Taken s t k .vec q ∧ (t.core k).vec.run = none ∧ (t.ctx k q.ctx).qs = (s.ctx k q.ctx).qs.drop 1
        ∧ (t.core k).vec.older = (s.core k).vec.older ++ [q1.begin])
    ∧ (s.heads k .gau q .yes → s.plainStart k q → Answers (.gaussianCommandStart k) s fun t =>
      let r1 := first (gauNeeds q)
      Reads s t k q.ctx ∧ Taken s t k .gau q ∧ (t.ctx k q.ctx).qs = (s.ctx k q.ctx).qs.drop (qsTakes q.instr)
        ∧ ∃ x, (t.core k).gau.run = some x ∧ if (gauNeeds q).all r1.got.contains then gauDone q1 r1 x else x = { r1 with phase := 0 })
    ∧ (∀ r g, s.works k = true →
      let r1 := (s.core k).readGranule r g
      let had : Prop := mread r1.snap (64 * g) 64 = mread (s.core k).lmem (64 * g) 64 ∧ (∀ w, w / 8 = g → w ∈ (s.core k).lbad → w ∈ r1.snapBad)
      ((s.core k).vec.run = some r → ((s.core k).vecNeeds r).find? (fun g => !r.got.contains g) = some g → Answers (.vectorCommandStart k) s fun t =>
        Reads s t k r.cmd.ctx ∧ had
          ∧ if ((s.core k).vecNeeds r1).all r1.got.contains then
              (t.core k).vec.run = none ∧ ∃ x, (t.core k).vec.older = (s.core k).vec.older ++ [x] ∧ vecDone r.cmd r1 x
            else (t.core k).vec.run = some { r1 with phase := 0 } ∧ (t.core k).vec.older = (s.core k).vec.older)
      ∧ ((s.core k).gau.run = some r → r.phase = 0 → (gauNeeds r.cmd).find? (fun g => !r.got.contains g) = some g → Answers (.gaussianCommandStart k) s fun t =>
        Reads s t k r.cmd.ctx ∧ had
          ∧ ∃ x, (t.core k).gau.run = some x ∧ if (gauNeeds r.cmd).all r1.got.contains then gauDone r.cmd r1 x else x = { r1 with phase := 0 }))

/-- The engine's translation of `va` for command `key` of core `k` is at hand (R310): the cluster's cache holds the page with the right, and it is mapped storage. -/
def Obligations.Reaches (s : State) (k va acc key pa attr : Nat) : Prop :=
  (∃ e, (s.clus (clusOf k)).lookup (s.trId k) va acc = some e ∧ e.result va = (pa, attr)) ∧ inMap pa = true ∧ isReg pa = false ∧ s.noStorage pa = false
    ∧ ∀ f ∈ (s.clus (clusOf k)).walkFails, f.key ≠ key

/-- R189 to R192, R291, R311: a push that starts fixes its receivers, and the engine goes on with each context's push by itself. It reads the next piece of the
source, which lies in one row and one granule, and sends its bytes to every receiver, a message for each granule of the extent there; a source wholly sent
ends the sending. PUSHG and PUSHS first write back, a page at a time, the lines of the stash that the copy reads or, invalidating them, writes. PUSHG asks the
source's home slice for the piece, and sends it once it has the answer. PUSHS writes the bytes that it has read, packed from its address on, line by
line; a write to an IO page waits for the acknowledgements of those before it.
What in it is the model's reading and not the spec's words: log entries 14, 38 and 86. -/
def Obligations.PushSteps : Prop :=
  ∀ (s : State) (k : Nat), (s.core k).pushStalled = false →
    (∀ q, s.heads k .push q .yes → s.plainStart k q → (s.core k).psh.olderOf q.ctx = none → (s.core k).released .push q.ctx = none →
      (s.core k).out q.uid = none → ∀ n td dlv, pushParts q.instr = some (n, td, dlv) → Answers (.pushCommandStart ⟨k, q.ctx⟩) s fun t =>
      Taken s t k .push q
        ∧ (t.core k).psh.older = (s.core k).psh.older
            ++ [{ ({ q with dests := s.pushDests k q } : Cmd).begin with phase := if n = 1 ∨ n = 2 then 2 else 1 }]
        ∧ ∃ o, (t.core k).out q.uid = some o ∧ o.sending = true ∧ o.left = 0 ∧ o.tok = tokOf q.instr)
    ∧ (∀ x r n td dlv o, s.works k = true → (s.core k).psh.olderOf x = some r → pushParts r.cmd.instr = some (n, td, dlv) →
        (s.core k).out r.cmd.uid = some o →
        let d := (s.core k).td td
        let total := d.rows * d.rowBytes
        let p := r.cmd.pos
        let a := d.at p
        let len := min (d.rowBytes - p % d.rowBytes) (64 - a % 64)
        let v := r.cmd.vals.getD 1 0
        let msgs (off : Nat) (bs : List Byte) : List Msg := (cutAt64 (bits v 0 20 + off, bs)).flatMap (fun w => r.cmd.dests.map (fun c =>
          { src := .core k, dst := .core c, vc := 2, terr := s.senderTag k r.cmd.level, fab := none, sentAt := s.now,
            body := .push r.cmd.uid (n == 3) w.1 w.2 [] (if v.getLsbD 36 then none else some (16 * bits v 20 16)) }))
        (r.phase = 2 → n = 1 ∨ n = 2 → total ≠ 0 →
          let b := if n = 1 then d.at r.pos else (r.cmd.vals.headD 0).toNat + r.pos
          let m := min (if n = 1 then d.rowBytes - r.pos % d.rowBytes else total - r.pos) (4096 - b % 4096)
          let e := s.extents k r.cmd.uid b m 0
          e.2.2 = none → Answers (.pushCommandStart ⟨k, x⟩) s fun t =>
            (t.core k).psh.olderOf x = some (if total ≤ r.pos + m then { r with phase := 1, pos := p } else { r with pos := r.pos + m })
              ∧ (t.core k).lmem = (s.core k).lmem
              ∧ (n = 2 → ∀ y ∈ (t.core k).lines, y.2.within e.2.1 = false)
              ∧ (n = 1 → ∀ i l, kget (s.core k).lines i = some l → l.within e.2.1 = true → kget (t.core k).lines i = some { l with d := 0 })
              ∧ ((∀ y ∈ (s.core k).lines, y.2.within e.2.1 = true → y.2.d = 0) → t.net = s.net)
              ∧ ∀ i l, kget (s.core k).lines i = some l → l.within e.2.1 = true → l.d ≠ 0 →
                  ∃ ms, Obligations.Evicts { s with cur := (k, r.cmd.ctx) } i ms ∧ ∀ w ∈ ms, w ∈ t.net)
        ∧ (r.phase = 1 → total ≤ p → Answers (.pushCommandStart ⟨k, x⟩) s fun t =>
          OnlyCore s t k ∧ (t.core k).psh.older = (s.core k).psh.older.filter (fun r' => r'.cmd.uid ≠ r.cmd.uid)
            ∧ (t.core k).out r.cmd.uid = some { o with sending := false })
        ∧ (p < total → r.cmd.dests ≠ [] → v.getLsbD 50 = false → r.carried = [] →
          (n ≠ 1 → n ≠ 2 → r.phase = 1 → (s.core k).poisoned a len = false → (s.core k).sound a len →
            Answers (.pushCommandStart ⟨k, x⟩) s fun t =>
              OnlyCoreNet s t k ∧ (t.core k).lmem = (s.core k).lmem
                ∧ (bits v 45 5 = 0 ∨ d.fmt ≠ 0 → t.net = s.net ++ msgs p (mread (s.core k).lmem a len))
                ∧ (bits v 45 5 ≠ 0 → d.fmt = 0 → t.net = s.net ++ msgs p ((List.range (len / 4)).flatMap (fun i =>
                    leBytes 4 (wireWord (bits v 45 5) (leNat (((mread (s.core k).lmem a len).drop (4 * i)).take 4))))))
                ∧ ∃ r', (t.core k).psh.olderOf x = some r' ∧ r'.phase = 1 ∧ r'.cmd = { r.cmd with pos := p + len })
          ∧ (n = 1 → r.phase = 1 → ∀ pa attr, Obligations.Reaches s k (a % 2 ^ 64) 0 r.cmd.uid pa attr → Answers (.pushCommandStart ⟨k, x⟩) s fun t =>
              (t.core k).psh.olderOf x = some { r with phase := 4, got := [s.uid], pos := pa }
                ∧ ∃ m q, t.net = s.net ++ [m] ∧ m.dst = .slice (homeOf pa) ∧ m.body = .req q ∧ q.pa = pa ∧ q.op = .read len ∧ q.uid = s.uid ∧ q.core = k)
          ∧ (n = 1 → r.phase = 5 → r.fault = none → r.snapBad = [] → (bits v 45 5 = 0 ∨ d.fmt ≠ 0) →
            Answers (.pushCommandStart ⟨k, x⟩) s fun t =>
              OnlyCoreNet s t k ∧ t.net = s.net ++ msgs p (mread r.snap 0 len)
                ∧ ∃ r', (t.core k).psh.olderOf x = some r' ∧ r'.phase = 1 ∧ r'.cmd = { r.cmd with pos := p + len }))
        ∧ (n = 2 → r.phase = 1 → p < total → ∀ pa attr,
            let va := (r.cmd.vals.headD 0).toNat + p
            Obligations.Reaches s k (va % 2 ^ 64) 1 r.cmd.uid pa attr →
            let writes (hand : List Byte) : Prop :=
              let c := min hand.length (64 - va % 64)
              (attr ≠ 2 ∨ o.left = 0 → Answers (.pushCommandStart ⟨k, x⟩) s fun t =>
                (t.core k).lmem = (s.core k).lmem ∧ (t.core k).out r.cmd.uid = some { o with left := o.left + 1 }
                  ∧ (∃ m q, t.net = s.net ++ [m] ∧ m.dst = .slice (homeOf pa) ∧ m.body = .req q ∧ q.pa = pa ∧ q.uid = r.cmd.uid ∧ q.core = k
                      ∧ q.op = .write ((List.range c).zipWith (fun i b => (pa + i, b)) hand) [])
                  ∧ ∃ r', (t.core k).psh.olderOf x = some r' ∧ r'.phase = 1 ∧ r'.cmd = { r.cmd with pos := p + c } ∧ r'.carried = hand.drop c)
              ∧ (attr = 2 → o.left ≠ 0 → Answers (.pushCommandStart ⟨k, x⟩) s fun t =>
                (t.core k).lmem = (s.core k).lmem ∧ t.net = s.net
                  ∧ ∃ r', (t.core k).psh.olderOf x = some r' ∧ r'.phase = 1 ∧ r'.cmd = r.cmd ∧ r'.carried = hand)
            (r.carried ≠ [] → writes r.carried)
            ∧ (r.carried = [] → (s.core k).poisoned a len = false → (s.core k).sound a len → writes (mread (s.core k).lmem a len))))

/-- R245, R247, R254, R255, R257, R258, R259: MZERO, MLDB and MPROG start at once, MCHK waits for its verdict. An MMA without .gang or .prog whose bound B has 32 rows and A's
columns, and whose accumulator holds no other type, starts with its operands as they are and gives the accumulator its type; with nothing bound it faults. MDRAIN without a
list starts at once; with one, it, and MMAG, read the list a granule a step first (R130). MDRAIN's failing start check is its verdict.
What in it is the model's reading and not the spec's words: log entry 44. -/
def Obligations.MatrixStarts : Prop :=
  ∀ (s : State) (k : Nat) (q : Cmd), s.heads k .mat q .yes → s.plainStart k q →
    (∀ x w u, q.instr = .mzero x w u → Answers (.matrixCommandStart k) s fun t =>
      OnlyCore s t k ∧ Taken s t k .mat q ∧ (t.core k).mat.run = some q.begin ∧ (t.core k).slice = (s.core k).slice)
    ∧ (∀ a w u, q.instr = .mldb a w u → Answers (.matrixCommandStart k) s fun t =>
      OnlyCore s t k ∧ Taken s t k .mat q ∧ (t.core k).mat.run = some q.begin ∧ (t.core k).slice = (s.core k).slice)
    ∧ (∀ i g w u, q.instr = .mprog i g w u → Answers (.matrixCommandStart k) s fun t =>
      OnlyCore s t k ∧ Taken s t k .mat q ∧ (t.core k).mat.run = some q.begin ∧ (t.core k).slice = (s.core k).slice)
    ∧ (∀ x w u, q.instr = .mchk x w u → Answers (.matrixCommandStart k) s fun t =>
      OnlyCore s t k ∧ Taken s t k .mat q ∧ (t.core k).mat.run = some { q.begin with phase := 2 } ∧ (t.core k).slice = (s.core k).slice)
    ∧ (∀ a x w g u, q.instr = .mma a false x false g w u → q.pos = 0 →
        let d := (s.core k).td a.toNat
        ((s.core k).slice.bind = none → Answers (.matrixCommandStart k) s fun t =>
          OnlyCore s t k ∧ Taken s t k .mat q ∧ (t.core k).mat.run = none ∧ TokSettled s t k q (.faulted 0x02))
        ∧ (∀ b : TDesc, (s.core k).slice.bind = some b → b.rows = 32 → b.cols = d.cols → d.fmt ≠ 17 → b.fmt ≠ 17 →
            let ty : AccTag := if accI32 d.fmt b.fmt then .i32 else .f32
            ((s.core k).slice.tag x = .none ∨ (s.core k).slice.tag x = ty) → Answers (.matrixCommandStart k) s fun t =>
              OnlyCore s t k ∧ Taken s t k .mat q ∧ (t.core k).slice.tag x = ty
                ∧ (t.core k).mat.run = some { q.begin with mat := some ⟨d, b, [], [], [], accI32 d.fmt b.fmt, [k], none⟩ }))
    ∧ (∀ a x r w u rows, q.instr = .mdrain a x r w u → q.pos = 0 → ((s.core k).td a.toNat).list = 0 →
        (s.core k).drainStart ((s.core k).seen q.begin) a.toNat x = .ok rows → Answers (.matrixCommandStart k) s fun t =>
        OnlyCore s t k ∧ Taken s t k .mat q ∧ (t.core k).lmem = (s.core k).lmem ∧ (t.core k).slice = (s.core k).slice
          ∧ (t.core k).mat.run = some ({ q.begin with phase := 2, writes := (s.core k).drainWrites a.toNat x (q.vals.headD 0) rows } : Started).cut)
    ∧ (∀ g gs, ((∃ a x r w u, q.instr = .mdrain a x r w u) ∨ ∃ a p x h w u, q.instr = .mmag a p x false h w u) → (s.core k).startReads q.begin = g :: gs →
        (∃ e ∈ gs, e ≠ g) → Answers (.matrixCommandStart k) s fun t =>
        OnlyCore s t k ∧ Taken s t k .mat q ∧ (t.core k).lmem = (s.core k).lmem ∧ (t.core k).slice = (s.core k).slice
          ∧ (t.core k).mat.run = some { (s.core k).readGranule q.begin g with phase := 7 })
    ∧ ∀ r a x h w u g, s.works k = true → (s.core k).mat.run = some r → r.phase = 7 → r.cmd.instr = .mdrain a x h w u → r.cmd.pos = 0 → r.mat = none →
        ((s.core k).startReads r).find? (fun g => !r.got.contains g) = some g →
        let r1 := (s.core k).readGranule r g
        Answers (.matrixCommandStart k) s fun t =>
          OnlyCore s t k ∧ (t.core k).slice = (s.core k).slice
            ∧ (¬((s.core k).startReads r).all r1.got.contains → (t.core k).mat.run = some { r1 with phase := 7 } ∧ (t.core k).lmem = (s.core k).lmem)
            ∧ (((s.core k).startReads r).all r1.got.contains →
                (∀ rows, (s.core k).drainStart ((s.core k).seen r1) a.toNat x = .ok rows → (t.core k).lmem = (s.core k).lmem ∧ (t.core k).mat.run
                  = some ({ r.cmd.begin with phase := 2, writes := (s.core k).drainWrites a.toNat x (r.cmd.vals.headD 0) rows } : Started).cut)
                ∧ ∀ e, (s.core k).drainStart ((s.core k).seen r1) a.toNat x = .error e →
                    (t.core k).mat.run = none ∧ VerdictGiven s t k r.cmd a.toNat (some e) ∧ (r.cmd.waited = false → TokSettled s t k r.cmd (.faulted e)))

/-- What a write grant lets take effect, and what is still to come: the writes within the granule of the first (R130). -/
def Obligations.granted (m : Memory) : List (Nat × List Byte) → Memory × List (Nat × List Byte)
  | [] => (m, [])
  | w :: ws => (((w :: ws).filter (fun v => v.1 / 64 == w.1 / 64)).foldl (fun m v => mwrite m v.1 (tdBytes v.1 v.2)) m, ws.filter (fun v => v.1 / 64 != w.1 / 64))

/-- R130, R154, R166, R170, R184, R203, R211: a started command writes its results one granule a step; with the last granule its mask, queue value and flags take
effect and its token settles; a faulted Gaussian one writes nothing; GSEND's message leaves; a push completes when its source has been read, with .dlv
when every byte has been acknowledged. A Gaussian write that covers part of a poisoned word fails the command. VPREF asks for its next line's words, unless the stash holds
them all. R209, R256, R258: a good verdict lets its command run, or ends an MCHK; a bad one ends it without effect. The context
that waits for it has the answer: of a failed checksum the accumulator in bit 32 and the mask of failed rows. A command that no context
waits for faults its token.
What in it is the model's reading and not the spec's words: log entries 15 and 66. -/
def Obligations.EngineCompletions : Prop :=
  (∀ (s : State) (k : Nat),
      (∀ x r, (s.core k).vec.olderOf x = some r → (s.core k).live x = true → (∀ n, r.cmd.instr ≠ .vpref n) →
        Answers (.vectorCommandComplete ⟨k, x⟩) s fun t =>
        let h := s.ctx k x
        let h' := t.ctx k x
        let g := Obligations.granted (s.core k).lmem r.writes
        OnlyCore s t k ∧ (t.core k).lmem = g.1 ∧ RegsSame h h'
          ∧ (g.2 ≠ [] → h' = h ∧ ∃ r', (t.core k).vec.olderOf x = some r' ∧ r'.cmd = r.cmd ∧ r'.writes = g.2)
          ∧ (g.2 = [] →
              (t.core k).vec = { (s.core k).vec with older := (s.core k).vec.older.filter (fun o => o.cmd.uid ≠ r.cmd.uid) }
              ∧ h'.spr.nflag = (if h.spr.nflagFrom ≤ r.cmd.uid then h.spr.nflag ||| r.flags else h.spr.nflag)
              ∧ (∀ m v b, r.mask = some (m, v, b) → m ≠ 0 → h'.mask m = v ∧ h'.maskBad m = b)
              ∧ ∀ v, r.qw = some v → h'.event = true ∧ h'.qw = h.qw.map (fun e => if e.uid = r.cmd.uid then { e with val := some v } else e)))
      ∧ (∀ x r n, (s.core k).vec.olderOf x = some r → r.cmd.instr = .vpref n → (s.core k).spr.stashBusy = false → (s.core k).stashSets ≠ 0 →
        let line := (r.cmd.vals.headD 0).toNat / 64 + r.pos
        ∀ pa, Obligations.Reaches s k (line * 64 % 2 ^ 64) 0 r.cmd.uid pa 0 → Answers (.vectorCommandComplete ⟨k, x⟩) s fun t =>
          let asks (m : Msg) : Prop := m.dst = .slice (homeOf (pa / 64 * 64)) ∧ ∃ q, m.body = .req q ∧ q.op = .fill ∧ q.pa = pa / 64 * 64 ∧ q.core = k
          (t.core k).lmem = (s.core k).lmem
            ∧ (2 ^ n.toNat ≤ r.pos + 1 → ∀ y ∈ (t.core k).vec.older, y.cmd.uid ≠ r.cmd.uid)
            ∧ (r.pos + 1 < 2 ^ n.toNat → (t.core k).vec.olderOf x = some { r with pos := r.pos + 1 })
            ∧ (∀ i l, (s.core k).findLine pa = some (i, l) → (l.v = 0xFFFF → t.net = s.net) ∧ (l.v ≠ 0xFFFF → ∃ m, t.net = s.net ++ [m] ∧ asks m))
            ∧ ((s.core k).findLine pa = none → r.cmd.cache.toNat % 4 ≠ 1 → ∃ m ms, t.net = s.net ++ ms ++ [m] ∧ asks m ∧ ((t.core k).findLine pa).isSome = true)
            ∧ ((s.core k).findLine pa = none → r.cmd.cache.toNat % 4 = 1 → (t.core k).lines = (s.core k).lines
                ∧ ∃ m q, t.net = s.net ++ [m] ∧ m.dst = .slice (homeOf pa) ∧ m.body = .req q ∧ q.op = .read 64 ∧ q.pa = pa))
      ∧ (∀ r, (s.core k).gau.run = some r → engOf r.cmd.instr = .gau → r.phase = 1 →
          (∀ c, r.fault = some c → Answers (.gaussianComplete k) s fun t =>
            OnlyCore s t k ∧ (t.core k).gau.run = none ∧ (t.core k).lmem = (s.core k).lmem ∧ TokSettled s t k r.cmd (.faulted c))
          ∧ (r.fault = none → (∀ a n w u, r.cmd.instr ≠ .gsend a n w u) → (s.core k).grantFails r (r.nextGranule none) = true →
            Answers (.gaussianComplete k) s fun t =>
              OnlyCore s t k ∧ (t.core k).gau.run = none ∧ (t.core k).lmem = (s.core k).lmem ∧ TokSettled s t k r.cmd (.faulted 0x07))
          ∧ (r.fault = none → (∀ a n w u, r.cmd.instr ≠ .gsend a n w u) → (s.core k).grantFails r (r.nextGranule none) = false →
            Answers (.gaussianComplete k) s fun t =>
            let g := Obligations.granted (s.core k).lmem r.writes
            OnlyCore s t k ∧ (t.core k).lmem = g.1
              ∧ (g.2 ≠ [] → ∃ r', (t.core k).gau.run = some r' ∧ r'.cmd = r.cmd ∧ r'.writes = g.2)
              ∧ (g.2 = [] → (t.core k).gau.run = none ∧ TokSettled s t k r.cmd .ok))
          ∧ (∀ a n w u d, r.fault = none → r.cmd.instr = .gsend a n w u → n.toNat < 8 → destOf (r.cmd.vals.headD 0) = some ⟨d, none⟩ → s.works k = true →
              Answers (.gaussianComplete k) s fun t =>
                let lo := r.cmd.vals.getD 1 0
                let hi := r.cmd.vals.getD 2 0
                let wf := bits lo 51 5
                OnlyCoreNet s t k ∧ (t.core k).gau.run = none
                  ∧ (t.core k).outs = (s.core k).outs ++ [{ outOn r.cmd.uid r.cmd.ctx w with wide := true }]
                  ∧ ∃ m hd pre post, s.net = pre ++ post ∧ t.net = pre ++ m :: post ∧ m.src = .core k ∧ m.dst = .core d ∧ m.vc = 2
                      ∧ (∀ o ∈ pre, ∀ v b f e z, o.src = .core k → o.vc = 2 → r.cmd.uid < v → o.body ≠ .mail v b f e z ∧ o.body ≠ .opening v)
                      ∧ (post ≠ [] → ∃ o, post.head? = some o ∧ o.src = .core k ∧ o.vc = 2)
                      ∧ m.body = .mail r.cmd.uid wf hd ((r.cmd.vals.drop 3).map (fun v => wireWord wf (v.toNat % 2 ^ 32))) false
                      ∧ (∀ i, i < 128 → hd.getLsbD i = if i < 40 ∨ (41 ≤ i ∧ i < 47) ∨ (51 ≤ i ∧ i < 64) then lo.getLsbD i
                          else if i = 40 then false else if i < 64 then (n.toNat + 1).testBit (i - 47) else hi.getLsbD (i - 64))))
      ∧ ∀ u o, (s.core k).out u = some o → o.td ≠ none → o.sending = false → (o.dlv = true → o.left = 0) → Answers (.pushComplete k u) s fun t =>
          OnlyCore s t k ∧ (∀ o', (t.core k).out u = some o' → o'.tok = none ∧ o'.td = none ∧ o'.left = o.left)
            ∧ ∀ w, o.tok = some w → (s.core k).live o.ctx = true → (t.ctx k o.ctx).tok w = ((s.ctx k o.ctx).tok w).settle o.ending)
  ∧ (∀ (s : State) (k : Nat) (r : Started), r.phase = 2 →
      ((s.core k).gau.run = some r → engOf r.cmd.instr = .gau →
        (r.verdict = none → Answers (.pivotVerdict k) s fun t =>
          OnlyCore s t k ∧ (t.core k).gau.run = some { r with phase := 1 } ∧ VerdictGiven s t k r.cmd 0 none)
        ∧ (∀ f, r.verdict = some f → Answers (.pivotVerdict k) s fun t =>
          OnlyCore s t k ∧ (t.core k).gau.run = none ∧ (t.core k).lmem = (s.core k).lmem ∧ VerdictGiven s t k r.cmd f.2.toNat (some f.1)
            ∧ (r.cmd.waited = false → TokSettled s t k r.cmd (.faulted f.1))))
      ∧ ((s.core k).mat.run = some r → ∀ x, ((∃ w u, r.cmd.instr = .mchk x w u) ∨ ∃ a g w u, r.cmd.instr = .mdrain a x g w u) →
        let bad := (s.core k).slice.badRows x
        (bad ≠ 0 → Answers (.accVerdict k) s fun t =>
          OnlyCore s t k ∧ (t.core k).mat.run = none ∧ (t.core k).slice = (s.core k).slice
            ∧ VerdictGiven s t k r.cmd (2 ^ 32 * ofBool x + bad) (some 0x0C) ∧ (r.cmd.waited = false → TokSettled s t k r.cmd (.faulted 0x0C)))
        ∧ (bad = 0 → Answers (.accVerdict k) s fun t =>
          OnlyCore s t k ∧ (t.core k).slice = (s.core k).slice ∧ VerdictGiven s t k r.cmd 0 none
            ∧ (t.core k).mat.run = (match r.cmd.instr with | .mchk .. => none | _ => some { r with phase := 1, verdict := none }))))

/-- R26 to R28, R130, R247, R255 to R257, R259, R264: MZERO zeroes its accumulator and its type; MLDB binds its descriptor; MPROG loads its microprogram; MDRAIN writes its
rows one granule a step. An operation that has done its last K-step ends. A K-step first reads its operands, one granule a step, and changes nothing by it; with all
of them read, one K-step of an MMA alone in its row, unscaled and without a microprogram, adds to word (r, 32·lx + c) of the first ctl rows the
products of A's row r and B's row c as they were read, and leaves every other word.
What in it is the model's reading and not the spec's words: log entry 16. -/
def Obligations.MatrixCompletions : Prop :=
  ∀ (s : State) (k : Nat) (r : Started), (s.core k).mat.run = some r → r.phase = 1 →
    (∀ x w u, r.cmd.instr = .mzero x w u → r.mat = none → Answers (.matrixComplete k 0) s fun t =>
      OnlyCore s t k ∧ (t.core k).mat.run = none ∧ (∀ i j, (t.core k).slice.word x i j = 0 ∧ (t.core k).slice.rowBad x i = false)
        ∧ (∀ i j, (t.core k).slice.word (!x) i j = (s.core k).slice.word (!x) i j) ∧ (t.core k).slice.tag x = .none ∧ TokSettled s t k r.cmd .ok)
    ∧ (∀ a w u, r.cmd.instr = .mldb a w u → r.mat = none → Answers (.matrixComplete k 0) s fun t =>
      OnlyCore s t k ∧ (t.core k).mat.run = none ∧ (t.core k).slice = { (s.core k).slice with bind := some ((s.core k).td a.toNat) }
        ∧ TokSettled s t k r.cmd .ok)
    ∧ (∀ i g w u, r.cmd.instr = .mprog i g w u → r.mat = none → Answers (.matrixComplete k 0) s fun t =>
      OnlyCore s t k ∧ (t.core k).mat.run = none
        ∧ (t.core k).slice = { (s.core k).slice with prog := microProg (r.cmd.vals.headD 0), progI32 := i } ∧ TokSettled s t k r.cmd .ok)
    ∧ (∀ a x g w u v ws, r.cmd.instr = .mdrain a x g w u → r.mat = none → r.writes = v :: ws → (s.core k).writePoisoned v.1 v.2.length = false →
        Answers (.matrixComplete k 0) s fun t =>
          OnlyCore s t k ∧ (t.core k).lmem = mwrite (s.core k).lmem v.1 (tdBytes v.1 v.2) ∧ (t.core k).slice = (s.core k).slice
            ∧ (t.core k).mat.run = some { r with writes := ws })
    ∧ (∀ a x g w u, r.cmd.instr = .mdrain a x g w u → r.mat = none → r.writes = [] → Answers (.matrixComplete k 0) s fun t =>
        OnlyCore s t k ∧ (t.core k).mat.run = none ∧ TokSettled s t k r.cmd .ok
          ∧ (∀ i j, (t.core k).slice.word x i j = if (r.cmd.vals.headD 0).getLsbD 1 then 0 else (s.core k).slice.word x i j))
    ∧ ∀ a x w g u m n, r.cmd.instr = .mma a false x w g u n → r.mat = some m → m.held = none → m.row = [k] → s.stopping k r.cmd.ctx = false →
      let da : TDesc := m.a
      let db : TDesc := m.b
      let next := (m.needs r.cmd r.pos).find? (fun e => !r.got.contains e)
      (da.cols ≤ 32 * r.pos → Answers (.matrixComplete k 0) s fun t =>
        OnlyCore s t k ∧ (t.core k).mat.run = none ∧ (t.core k).slice = (s.core k).slice ∧ TokSettled s t k r.cmd .ok)
      ∧ (32 * r.pos < da.cols → ∀ e, next = some e → Answers (.matrixComplete k 0) s fun t =>
          Reads s t k r.cmd.ctx ∧ (t.core k).slice = (s.core k).slice
            ∧ ∃ r', (t.core k).mat.run = some r' ∧ r'.pos = r.pos ∧ r'.mat = r.mat ∧ r'.got = r.got ++ [e]
                ∧ r'.snap = mwrite r.snap (64 * e) (mread (s.core k).lmem (64 * e) 64))
      ∧ (32 * r.pos < da.cols → next = none → (s.core k).slice.latchBad = false → (fmtScale da.fmt).2.1 = 0 → (fmtScale db.fmt).2.1 = 0 →
          bits (r.cmd.vals.headD 0) 0 6 ≤ 32 →
          let cnt := min 32 (da.cols - 32 * r.pos)
          let cntB := min 32 (db.cols - 32 * r.pos)
          let at_ (d : TDesc) (i : Nat) : Nat := d.base + i * d.stride + 4 * fmtBits d.fmt * r.pos
          let row (d : TDesc) (tab : List Nat) (cn i : Nat) : List Machine.Num := (List.range cnt).map
            (elemAt d.fmt tab (32 * r.pos) (leNat (mread r.snap (at_ d i) ((fmtBits d.fmt * cn + 7) / 8))) 0)
          let sum (old i j : Nat) : Nat :=
            if m.i32 then kstepI32 old (row da m.tabA cnt i) (row db m.tabB cntB j) else kstepF32 old (row da m.tabA cnt i) (row db m.tabB cntB j)
          (∀ i < 32, touchesBad r.snapBad (at_ da i) ((fmtBits da.fmt * cnt + 7) / 8) = false
            ∧ touchesBad r.snapBad (at_ db i) ((fmtBits db.fmt * cntB + 7) / 8) = false) →
          Answers (.matrixComplete k 0) s fun t =>
            OnlyCore s t k ∧ (t.core k).lmem = (s.core k).lmem
              ∧ (t.core k).mat.run = some { r with pos := r.pos + 1, got := [], snap := [], snapBad := [] }
              ∧ ∀ i j, j < 128 → (t.core k).slice.word x i j =
                  if i < bits (r.cmd.vals.headD 0) 0 6 ∧ j / 32 = coreX k % 4 then sum ((s.core k).slice.word x i j) i (j % 32)
                  else (s.core k).slice.word x i j)

/-- R238, R250, R262: a row's bridle fires once every counted core has arrived: its generation goes up by one, the GANG arrivals have it as their result, with bit 32
when tags differ, and are past their wait, whatever else is pending; matrix arrivals of one depth and format run together; where they differ, each ends with its own failure, else ILLEGAL_FORMAT; beside
a GANG they end with ILLEGAL_OP. An operation of a stopped or yielding context that waits at its bridle, or has still to read before it starts, goes back to the
head of the queue, its guard decided (R182); one that stands at a boundary claims the save area, writes it one granule a step, and is queued again with the boundary it resumes at.
What in it is the model's reading and not the spec's words: log entry 43. -/
def Obligations.BridleSteps : Prop :=
  (∀ (s : State) (c row : Nat), row < 4 → s.counted c row ≠ [] → (∀ x ∈ s.counted c row, kget (s.bridle c row).arrivals x ≠ none) →
    let b := s.bridle c row
    let fired (t : State) : Prop := (t.bridle c row).arrivals = [] ∧ (t.bridle c row).gen = b.gen + 1
    ((∀ x ∈ s.counted c row, ∀ a, kget b.arrivals x = some a → a.mat = none) → Answers (.bridleFire c row) s fun t =>
      { t with clusters := s.clusters, cores := s.cores } = s ∧ (∀ j, j ≠ c → t.clus j = s.clus j) ∧ fired t
        ∧ (∀ j, (∀ x ∈ s.counted c row, j ≠ coreIn c x row) → t.core j = s.core j)
        ∧ (∀ x ∈ s.counted c row, (s.core (coreIn c x row)).live 0 = true →
            t.ctx (coreIn c x row) 0 = { s.ctx (coreIn c x row) 0 with acc := some ⟨phFired, 0, none⟩ })
        ∧ ∀ x ∈ s.counted c row, ∃ w, kget (t.bridle c row).results x = some w ∧ w.toNat % 2 ^ 32 = (b.gen + 1).toNat
        ∧ (w.getLsbD 32 = true ↔ ∃ y ∈ s.counted c row, ∃ z ∈ s.counted c row, (kget b.arrivals y).map (·.tag) ≠ (kget b.arrivals z).map (·.tag)))
    ∧ (∀ kd fm st, (∀ x ∈ s.counted c row, ∃ tg e, kget b.arrivals x = some ⟨tg, some (kd, fm, true, e), st⟩) → Answers (.bridleFire c row) s fun t =>
      fired t ∧ ∀ x ∈ s.counted c row, ∀ r m, (s.core (coreIn c x row)).mat.run = some r → r.mat = some m → (matParts r.cmd.instr).isSome = true →
        (t.core (coreIn c x row)).mat.run
          = some { r with phase := 1, mat := some { m with row := (s.counted c row).map (fun y => coreIn c y row), held := none } })
    ∧ (∀ y ∈ s.counted c row, ∀ z ∈ s.counted c row, (∀ x ∈ s.counted c row, ∀ a, kget b.arrivals x = some a → a.mat ≠ none) →
        (kget b.arrivals y).bind (fun a => a.mat.map (·.1)) ≠ (kget b.arrivals z).bind (fun a => a.mat.map (·.1)) → Answers (.bridleFire c row) s fun t =>
      fired t ∧ ∀ x ∈ s.counted c row, ∀ r, (s.core (coreIn c x row)).mat.run = some r → (t.core (coreIn c x row)).mat.run = none
        ∧ TokSettled s t (coreIn c x row) r.cmd (.faulted (r.fault.getD 0x02)))
    ∧ (∀ y ∈ s.counted c row, ∀ a, kget b.arrivals y = some a → a.mat = none → Answers (.bridleFire c row) s fun t =>
      fired t ∧ ∀ x ∈ s.counted c row, ∀ r e, kget b.arrivals x = some e → e.mat ≠ none → (s.core (coreIn c x row)).mat.run = some r →
        (t.core (coreIn c x row)).mat.run = none ∧ TokSettled s t (coreIn c x row) r.cmd (.faulted 0x01)))
  ∧ ∀ (s : State) (k : Nat) (r : Started), (s.core k).mat.run = some r →
      (∀ n, r.phase = 3 ∨ r.phase = 7 → (matParts r.cmd.instr).isSome = true → r.mat.bind (·.held) = none → r.cmd.pos = 0 →
        s.stopping k r.cmd.ctx = true → s.killedOf k r.cmd.ctx = false → Answers (.matrixPreempt k n) s fun t =>
          (t.core k).mat.run = none ∧ (t.core k).mat.queue = { r.cmd with decided := true } :: (s.core k).mat.queue
            ∧ t.arrived k = (r.phase == 7 && s.arrived k) ∧ t.cores = (s.setCore k (t.core k)).cores)
      ∧ (∀ m p a x, r.phase = 1 → r.mat = some m → m.row = [k] → matParts r.cmd.instr = some (a, p, x, false) → r.pos < (TDesc.cols m.a + 31) / 32 → r.got = [] →
          s.stopping k r.cmd.ctx = true → s.killedOf k r.cmd.ctx = false → (s.core k).canSave = true → Answers (.matrixPreempt k 0) s fun t =>
            OnlyCore s t k ∧ (t.core k).spr.msaveClaim = true ∧ (t.core k).slice = (s.core k).slice ∧ (t.core k).lmem = (s.core k).lmem
              ∧ ∃ r', (t.core k).mat.run = some r' ∧ r'.phase = 6 ∧ r'.cmd = r.cmd ∧ r'.pos = r.pos
                  ∧ r'.writes = cutAt64 (256 * bits (s.core k).spr.msave 8 12, (s.core k).slice.saveBytes r.cmd m x r.pos))
      ∧ (r.phase = 6 →
          (r.writes = [] → Answers (.matrixPreempt k 0) s fun t =>
            OnlyCore s t k ∧ (t.core k).mat.run = none ∧ (t.core k).mat.queue = { r.cmd with pos := r.pos + 1, decided := true } :: (s.core k).mat.queue)
          ∧ (r.writes ≠ [] → Answers (.matrixPreempt k 0) s fun t =>
            let g := Obligations.granted (s.core k).lmem r.writes
            OnlyCore s t k ∧ (t.core k).lmem = g.1 ∧ ∃ r', (t.core k).mat.run = some r' ∧ r'.phase = 6 ∧ r'.writes = g.2))

/-! ### Messages that arrive -/

/-- R135, R136, R139, R184, R287: an answer leaves the mesh and reaches the access or the operation that waits for it: data an access, an
acknowledgement or a refusal its operation's count, with a refusal's cause; a load under way writes its destination. A fill writes the bytes of the
words that its line lacks and that nothing has spoiled since, sets their valid bits, and changes no other byte. R87, R187, R190, R193, R194,
R287: a push or a memory packet that its core refuses is answered with the cause; else its bytes land in local memory below the stash, or in
the instruction store, those of a packet one granule a step; in a step of its own each grant is counted; and the whole is acknowledged, or answered
LOCAL_BOUNDS where some do not land, UNCORRECTABLE where a count fails. A register post fills an empty
register and sets the event bit, waits behind a full one, is refused for a context that is not live, and with sixteen
posts held stays in the mesh, where nothing of its channel to the core passes it.
What in it is the model's reading and not the spec's words: log entries 13, 26, 82 and 94. -/
def Obligations.CoreArrivals : Prop :=
  (∀ (s : State) (n q uid : Nat) (m : Msg), s.arriving n = some m → m.dst = .core q →
      (∀ r bytes bad p, m.body = .data r bytes bad → r.op ≠ .fill → (s.core q).live r.ctx = true → (s.ctx q r.ctx).acc = some ⟨p, r.uid, none⟩ →
          (s.ctx q r.ctx).load = none → (p = 2 ∨ p = 4 ∨ p = 5 ∨ p = 6) → Answers (.stashFillReturn n) s fun t =>
        OnlyCoreNet s t q ∧ t.net = s.net.eraseIdx n ∧ (t.ctx q r.ctx).acc = some ⟨p, r.uid, some ⟨leNat bytes, !bad.isEmpty, none⟩⟩
          ∧ RegsSame (s.ctx q r.ctx) (t.ctx q r.ctx))
      ∧ (∀ r bytes bad l, m.body = .data r bytes bad → r.op ≠ .fill → (s.core q).live r.ctx = true → (s.ctx q r.ctx).load = some l → l.uid = r.uid →
          l.ans = none → let a : Ans := ⟨leNat bytes, !bad.isEmpty, none⟩
          l.failure a = none → Answers (.stashFillReturn n) s fun t =>
        OnlyCoreNet s t q ∧ t.net = s.net.eraseIdx n ∧ (t.ctx q r.ctx).load = none ∧ (t.ctx q r.ctx).pc = (s.ctx q r.ctx).pc
          ∧ (l.lost = false → RegFile (s.ctx q r.ctx) (t.ctx q r.ctx) none l.rd (l.value a))
          ∧ (l.lost = true → RegsSame (s.ctx q r.ctx) (t.ctx q r.ctx)))
      ∧ (∀ r bytes bad, m.body = .data r bytes bad → r.op = .fill → Answers (.stashFillReturn n) s fun t =>
        OnlyCoreNet s t q ∧ t.net = s.net.eraseIdx n ∧ (∀ f ∈ (t.core q).fills, f.uid ≠ r.uid)
          ∧ match (s.core q).fills.find? (fun f => f.uid == r.uid) with
            | none => (t.core q).lines = (s.core q).lines ∧ (t.core q).lmem = (s.core q).lmem
            | some f => ∀ i l, (s.core q).findLine r.pa = some (i, l) →
                let a := (s.core q).lineData i
                (∃ l', kget (t.core q).lines i = some l' ∧ l'.tag = l.tag ∧ l'.v = l.v ||| f.mask ∧ l'.d = l.d)
                  ∧ (∀ j, j < 64 → mget (t.core q).lmem (a + j)
                      = if (f.mask &&& ~~~l.v).getLsbD (j / 4) then bytes.getD j 0 else mget (s.core q).lmem (a + j))
                  ∧ (∀ b, (b < a ∨ a + 64 ≤ b) → mget (t.core q).lmem b = mget (s.core q).lmem b)
                  ∧ ∀ o d b z x w g, bad = [] → (s.core q).live r.ctx = true → (s.ctx q r.ctx).load = some o → o.uid = r.uid → o.ans = none → o.phase = 2 →
                      o.instr = .ldg d b z x w g → o.va.toNat % 2 ^ z.toNat = 0 → lineMask o.va.toNat (2 ^ z.toNat) &&& ~~~(l.v ||| f.mask) = 0 →
                      let at_ := a + o.va.toNat % 64
                      let v := leNat (mread (t.core q).lmem at_ (2 ^ z.toNat))
                      (t.core q).poisoned at_ (2 ^ z.toNat) = false → (t.ctx q r.ctx).load = none ∧ (o.lost = false →
                        RegFile (s.ctx q r.ctx) (t.ctx q r.ctx) none o.rd
                          (if x then BitVec.ofInt 64 (Obligations.signed (2 ^ z.toNat) v) else BitVec.ofNat 64 v)))
      ∧ (∀ c, m.body = .ack c uid → (m.src = .io ∨ (∃ h, m.src = .slice h) ∨ ∃ h, m.src = .cluster h) → Answers (.writeAck n) s fun t =>
        Acked s t q uid none ∧ t.net = s.net.eraseIdx n)
      ∧ (∀ c, m.body = .ack c uid → (∃ o, m.src = .core o) → Answers (.deliveryAck n) s fun t => Acked s t q uid none ∧ t.net = s.net.eraseIdx n)
      ∧ (∀ c, m.body = .ack c uid → (∃ o, m.src = .port o) → Answers (.deliveryAck n) s fun t => Acked s t q uid none)
      ∧ (∀ c cause, m.body = .nak c uid cause → Answers (.negativeAck n) s fun t =>
        Acked s t q uid (some cause) ∧ ((∀ p, m.src ≠ .port p) → t.net = s.net.eraseIdx n)))
  ∧ (∀ (s : State) (n q uid : Nat) (m : Msg), s.arriving n = some m → m.dst = .core q →
      let replies (b : Body) (t : State) : Prop := t.net = s.replied m n b
      let nak (cause : BitVec 8) (t : State) : Prop := t = { s with net := s.replied m n (.nak m.sender uid cause) }
      (∀ ist addr bytes bad bar, m.body = .push uid ist addr bytes bad bar →
        (m.due = none → s.blocked m q = false →
          let cnt := if ist then bytes.length else min bytes.length ((s.core q).stashBase - addr)
          let landed (t : State) : Prop :=
            ((s.core q).counts bar cnt = true → ∀ a, bar = some a → t.net = s.net.set n { m with due := some (a, cnt) })
            ∧ ((s.core q).counts bar cnt = false →
                replies (if cnt = bytes.length then .ack m.sender uid else .nak m.sender uid 0x04) t)
          (∀ c, s.refusal m q = some c → Answers (.pushArrival n) s (nak c))
          ∧ (s.refusal m q = none → ist = true → Answers (.pushArrival n) s fun t =>
              OnlyCoreNet s t q ∧ landed t ∧ (t.core q).lmem = (s.core q).lmem ∧ mread (t.core q).istore addr bytes.length = bytes
                ∧ ∀ a, (a < addr ∨ addr + bytes.length ≤ a) → mget (t.core q).istore a = mget (s.core q).istore a)
          ∧ (s.refusal m q = none → ist = false →
              ((s.core q).writePoisoned addr cnt = true → Answers (.pushArrival n) s (nak 0x07))
              ∧ ((s.core q).writePoisoned addr cnt = false → Answers (.pushArrival n) s fun t =>
                OnlyCoreNet s t q ∧ landed t ∧ (t.core q).istore = (s.core q).istore
                  ∧ (∀ i, (h : i < bytes.length) → i < cnt → mget (t.core q).lmem (addr + i) = asHeld (addr + i) bytes[i])
                  ∧ ∀ a, (a < addr ∨ addr + cnt ≤ a) → mget (t.core q).lmem a = mget (s.core q).lmem a)))
        ∧ (∀ a c, m.due = some (a, c) →
          (∀ e, s.lateRefusal m q = some e → Answers (.pushArrival n) s (nak e))
          ∧ (s.lateRefusal m q = none → Answers (.pushArrival n) s fun t =>
              OnlyCoreNet s t q ∧ (t.core q).lmem = ((s.core q).countAt (some a) c).lmem
                ∧ replies (if (s.core q).countFails (some a) c then .nak m.sender uid 0x07
                    else if c = bytes.length then .ack m.sender uid else .nak m.sender uid 0x04) t)))
      ∧ (∀ hdr words bad taken, m.body = .packet uid hdr words bad taken → (m.vc ≠ 3 ∨ inControl (hdrDst hdr) = false) →
        let whole := (List.range words.length).all (fun i => (s.core q).landable (hdrDst hdr + 8 * i))
        let ends (failed : Bool) (t : State) : Prop :=
          replies (if failed then .nak m.sender uid 0x07 else if whole then .ack m.sender uid else .nak m.sender uid 0x04) t
        (m.due = none → s.blocked m q = false →
          let a := hdrDst hdr + 8 * taken
          let cnt := min (words.length - taken) (8 - a / 8 % 8)
          let bar := 16 * bits hdr 20 16
          let due : Option (Nat × Nat) :=
            if (s.core q).landable a ∧ wbit hdr 36 = false ∧ (s.core q).counts (some bar) (8 * cnt) = true then some (bar, 8 * cnt) else none
          (∀ c, s.refusal m q = some c → Answers (.packetArrival n) s (nak c))
          ∧ (s.refusal m q = none → Answers (.packetArrival n) s fun t =>
              OnlyCoreNet s t q
                ∧ (taken + cnt < words.length ∨ due ≠ none → t.net = s.net.set n { m with body := .packet uid hdr words bad (taken + cnt), due := due })
                ∧ (words.length ≤ taken + cnt → due = none → ends m.failed t)
                ∧ ((s.core q).landable a = true →
                    (∀ i, (h : taken + i < words.length) → i < cnt → mnat (t.core q).lmem (a + 8 * i) 8 = words[taken + i].toNat)
                    ∧ ∀ b, (b < a ∨ a + 8 * cnt ≤ b) → mget (t.core q).lmem b = mget (s.core q).lmem b)
                ∧ ((s.core q).landable a = false → (t.core q).lmem = (s.core q).lmem)))
        ∧ (∀ a c, m.due = some (a, c) →
          let failed := m.failed || (s.core q).countFails (some a) c
          (∀ e, s.lateRefusal m q = some e → Answers (.packetArrival n) s (nak e))
          ∧ (s.lateRefusal m q = none → Answers (.packetArrival n) s fun t =>
              OnlyCoreNet s t q ∧ (t.core q).lmem = ((s.core q).countAt (some a) c).lmem
                ∧ (taken < words.length → t.net = s.net.set n { m with due := none, failed := failed })
                ∧ (words.length ≤ taken → ends failed t))))
      ∧ ∀ x r v bad, m.body = .post uid x r v bad → s.blocked m q = false → s.refusal m q = none →
        ((s.core q).live x = false → s.savedAway q x = false → Answers (.rpostArrival n) s (nak 0x04))
        ∧ ((s.core q).live x = true → (s.ctx q x).isFull r = false → (∀ p ∈ (s.core q).rx.posts, p.ctx ≠ x) → kget (s.core q).pairs x = none →
            Answers (.rpostArrival n) s fun t =>
            OnlyCoreNet s t q ∧ t.net = s.replied m n (.ack m.sender uid) ∧ (t.ctx q x).reg r = v ∧ (t.ctx q x).isFull r = true
              ∧ (t.ctx q x).isBad r = bad ∧ (t.ctx q x).event = true ∧ ∀ r', r' ≠ r → (t.ctx q x).reg r' = (s.ctx q x).reg r')
        ∧ ((s.core q).live x = true → (s.ctx q x).isFull r = true → (s.core q).rx.posts.length < 16 → Answers (.rpostArrival n) s fun t =>
            OnlyCoreNet s t q ∧ t.net = s.replied m n (.ack m.sender uid) ∧ (t.core q).rx.posts = (s.core q).rx.posts ++ [⟨x, r, v, bad⟩]
              ∧ t.ctx q x = s.ctx q x)
        ∧ ((s.core q).live x = true → (s.ctx q x).isFull r = true → 16 ≤ (s.core q).rx.posts.length → Answers (.rpostArrival n) s fun t =>
            t = { s with net := s.net.set n { m with stuck := true } }))
  ∧ (∀ (s : State) (j : Nat) (o m : Msg), o ∈ s.net → o.stuck = true → s.net[j]? = some m → m ≠ o → m.vc = o.vc → m.dst = o.dst →
      Answers (.pushArrival j) s (fun t => t = s) ∧ Answers (.packetArrival j) s (fun t => t = s) ∧ Answers (.messageArrival j) s (fun t => t = s)
        ∧ Answers (.rpostArrival j) s (fun t => t = s))
  ∧ ∀ (s : State) (k i : Nat) (p : HeldPost), (s.core k).rx.posts[i]? = some p → (s.core k).live p.ctx = true → (s.ctx k p.ctx).isFull p.reg = false →
        kget (s.core k).pairs p.ctx = none →
        (∀ o ∈ (s.core k).rx.posts.take i, ¬ (o.ctx = p.ctx ∧ o.reg = p.reg)) → Answers (.heldPostFill k i) s fun t =>
          OnlyCore s t k ∧ (t.core k).rx.posts = (s.core k).rx.posts.eraseIdx i ∧ (t.ctx k p.ctx).reg p.reg = p.val
            ∧ (t.ctx k p.ctx).isFull p.reg = true ∧ (t.ctx k p.ctx).isBad p.reg = p.bad ∧ (t.ctx k p.ctx).event = true

/-- R212, R213, R217, R219, R220, R271, R281: a message for an open edge mailbox of its dimension and format is accepted: it is written into its slot one granule a step,
then its descriptor advances in one grant, valid, fresh, the arrival count and, if it is to post, pend; then it counts, then it posts, and it is acknowledged with the last of
these; no other message begins meanwhile. One for what is no open
mailbox is refused with LOCAL_BOUNDS, one of another dimension or format with ILLEGAL_FORMAT; one that its core cannot take is held, and tried again. The idle ballonet
starts for a spill with g1 = 1, else for a room notice with g1 = 2 and the mailbox in g2. A record posted to a mapped queue with room enters its slot and
its poster has 0; to a full one, which 1,024 records fill with those that a dispatcher has chosen and those that messages being written will post, 2, to a
queue that does not exist 3.
What in it is the model's reading and not the spec's words: log entries 37, 83, 84, 85 and 90. -/
def Obligations.MailboxSteps : Prop :=
  (∀ (s : State) (n q : Nat) (m : Msg) (v : MailMsg), s.arriving n = some m → m.dst = .core q → m.mail? = some v → s.blocked m q = false →
    (∀ l, (s.core q).rx.landing = some l → Answers (.messageArrival n) s fun t => t = s)
    ∧ ((s.core q).rx.landing = none →
      let c := s.core q
      let a := v.box
      let d := c.mbox a
      let reply (b : Body) : Msg := { src := .core q, dst := .core v.src, vc := 1, terr := none, fab := none, body := b, sentAt := s.now }
      let nak (cause : BitVec 8) (t : State) : Prop := t = { s with net := s.net.eraseIdx n ++ [reply (.nak v.src v.uid cause)] }
      (∀ c, s.refusal m q = some c → Answers (.messageArrival n) s fun t => t = { s with net := s.replied m n (.nak m.sender v.uid c) })
      ∧ (s.refusal m q = none → v.port = none →
        (c.mboxAt a = false ∨ (c.poisoned a 64 = false ∧ (c.mboxMalformed d = true ∨ d.isOpen = false)) → Answers (.messageArrival n) s (nak 0x04))
        ∧ (c.mboxAt a = true → c.poisoned a 64 = true → Answers (.messageArrival n) s (nak 0x07))
        ∧ (c.mboxAt a = true → c.poisoned a 64 = false → c.mboxMalformed d = false → d.isOpen = true → d.edge = true → v.slot < d.slots →
            (v.dim ≠ d.dim ∨ v.hdrWf ≠ d.wfmt ∨ v.wf ≠ v.hdrWf → Answers (.messageArrival n) s (nak 0x02))
            ∧ (v.dim = d.dim → v.hdrWf = d.wfmt → v.wf = v.hdrWf → blockWords d.dim ≤ v.blk.length → d.valid v.slot = false →
                (d.task = 0xFFFF ∨ v.nopost = true) → Answers (.messageArrival n) s fun t =>
              OnlyCoreNet s t q ∧ t.net = s.net.eraseIdx n ∧ (t.core q).lmem = c.lmem
                ∧ ∃ l bs, (t.core q).rx.landing = some l ∧ l.msg = v ∧ l.lbk = none ∧ l.slot = v.slot ∧ l.stage = 0 ∧ l.posts = false ∧ l.pend = false
                    ∧ l.narr = (d.narr + 1) % 2 ^ 32 ∧ l.todo = cutAt64 (d.slotAt v.slot, bs) ∧ bs.length = 208
                    ∧ bs.take 192 = leBytes 16 v.hdr.toNat ++ slotBlock (v.blk.take (blockWords d.dim))))
        ∧ ((s.remove n).mailIn q v = none → Answers (.messageArrival n) s fun t =>
            OnlyCoreNet s t q ∧ t.net = s.net.eraseIdx n ∧ (t.core q).rx.held = c.rx.held ++ [v] ∧ (t.core q).lmem = c.lmem))))
  ∧ (∀ (s : State) (k : Nat) (l : Landing), (s.core k).rx.landing = some l → l.lbk = none →
      let c := s.core k
      let a := l.msg.box
      let d := c.mbox a
      let acks (t : State) : Prop := (t.core k).rx.landing = none ∧ ∃ net x, t.net = net ++ [x] ∧ x.src = .core k ∧ x.vc = 1 ∧ x.body = .ack l.msg.src l.msg.uid
      (∀ p bs rest, l.todo = (p, bs) :: rest → Answers (.heldMessageRetry k) s fun t =>
        OnlyCore s t k ∧ (t.core k).lmem = mwrite c.lmem p (tdBytes p bs) ∧ (t.core k).rx.landing = some { l with todo := rest })
      ∧ (l.todo = [] → l.stage = 0 → l.slot < 64 → d.edge = true → c.mboxAt a = true → Answers (.heldMessageRetry k) s fun t =>
        OnlyCore s t k ∧ (t.core k).rx.landing = some { l with stage := 1 }
          ∧ ((t.core k).mbox a).valid l.slot = true ∧ ((t.core k).mbox a).fresh l.slot = true ∧ ((t.core k).mbox a).narr = l.narr % 2 ^ 32
          ∧ (l.pend = true → ((t.core k).mbox a).pend = true)
          ∧ ∀ b, (b < a ∨ a + 64 ≤ b) → mget (t.core k).lmem b = mget c.lmem b)
      ∧ (l.todo = [] → l.stage = 1 → Answers (.heldMessageRetry k) s fun t =>
        OnlyCoreNet s t k ∧ (l.posts = false → acks t) ∧ (l.posts = true → (t.core k).rx.landing = some { l with stage := 2 } ∧ t.net = s.net)
          ∧ (d.bar = 0 → (t.core k).lmem = c.lmem) ∧ (d.bar ≠ 0 → (t.core k).lmem = (c.countAt (some d.bar) 208).lmem))
      ∧ (l.todo = [] → l.stage = 2 → l.pend = true → Answers (.heldMessageRetry k) s fun t =>
        let o := (s.setCore k { c with rx := { c.rx with landing := none } }).postRecord (s.terrOf k) l.rec_ (some k)
        acks t ∧ t.terrs = o.1.terrs ∧ t.gmem = o.1.gmem ∧ (o.2 = 2 → (t.core k).rx.postings = c.rx.postings ++ [(a, l.rec_)])))
  ∧ (∀ (s : State) (k : Nat), s.works k = true →
      (∀ m r, (s.core k).rx.held = m :: r → (s.core k).rx.landing = none →
        let s1 := s.setCore k { s.core k with rx := { (s.core k).rx with held := r } }
        Answers (.heldMessageRetry k) s fun t => (s1.mailIn k m = none → t = s) ∧ ∀ s2, s1.mailIn k m = some s2 → t = s2)
      ∧ ((s.core k).live 11 = false →
          ((s.core k).rx.wake = true → Answers (.ballonetWake k) s fun t =>
            OnlyCore s t k ∧ (t.core k).live 11 = true ∧ (t.core k).rx.wake = false ∧ (t.ctx k 11).reg 1 = 1 ∧ (t.ctx k 11).reg 2 = 0
              ∧ (t.ctx k 11).pc = 4 * bits (s.core k).spr.blnvec 2 13 ∧ (t.ctx k 11).level = .u ∧ (t.ctx k 11).run = .running)
          ∧ ∀ a r, (s.core k).rx.wake = false → (s.core k).rx.notices = a :: r → a < 2 ^ 64 → Answers (.ballonetWake k) s fun t =>
            OnlyCore s t k ∧ (t.core k).live 11 = true ∧ (t.core k).rx.notices = r ∧ (t.ctx k 11).reg 1 = 2 ∧ (t.ctx k 11).reg 2 = BitVec.ofNat 64 a)
      ∧ ∀ p, (s.core k).rx.postings = [p] →
          let o := s.postRecord (s.terrOf k) p.2 (some k)
          (o.2 = 2 → Answers (.mailboxPostRetry k) s fun t => t = s.setCore k (s.core k)) ∧ (o.2 < 2 → Answers (.mailboxPostRetry k) s fun t =>
            (t.core k).rx.postings = [] ∧ t.terrs = o.1.terrs ∧ t.gmem = o.1.gmem))
  ∧ ∀ (s : State) (n t q x uid : Nat) (bytes : List Byte) (m : Msg), s.arriving n = some m → m.dst = .terr t → m.body = .record q x uid bytes →
      (s.core q).live x = true → (s.ctx q x).acc = some ⟨9, uid, none⟩ →
      (s.qcount t ≤ recQueue bytes → Answers (.postRecordArrival n) s fun u =>
        OnlyCoreNet s u q ∧ u.net = s.net.eraseIdx n ∧ (u.ctx q x).acc = some ⟨9, uid, some ⟨3, false, none⟩⟩)
      ∧ ∀ j sl, recQueue bytes < s.qcount t → (s.terr t).slotOf (recQueue bytes) = some j → kget (s.terr t).slots j = some sl →
          let room := 1024 - (s.terr t).chosenOf (recQueue bytes) - s.landingsOf t (recQueue bytes)
          (room ≤ sl.recs.length → Answers (.postRecordArrival n) s fun u =>
            OnlyCoreNet s u q ∧ (u.ctx q x).acc = some ⟨9, uid, some ⟨2, false, none⟩⟩)
          ∧ (sl.recs.length < room → recCheck bytes = none → Answers (.postRecordArrival n) s fun u =>
            (u.ctx q x).acc = some ⟨9, uid, some ⟨0, false, none⟩⟩ ∧ u.gmem = s.gmem
              ∧ ∃ sl', kget (u.terr t).slots j = some sl' ∧ sl'.recs = insertRec ⟨bytes, s.now, none, s.uid⟩ sl.recs)

/-- R280: an arrival at a group counts while a context of its core waits there; with every present member that counts in its generation arrived, the generation
goes up by one, the arrivals are cleared, each present member is told, and the present ones count in the next; before that, a member that is present no more
counts in it no more; a firing gives the waiting contexts of its core
the new generation.
What in it is the model's reading and not the spec's words: log entry 91. -/
def Obligations.GroupFirings : Prop :=
  ∀ (s : State) (n gid q : Nat) (m : Msg), s.arriving n = some m →
    (∀ t g, m.dst = .terr t → m.body = .groupArrive gid q → kget (s.terr t).groups gid = some g →
      let pres := s.present t g
      let arr := nput g.arrived q
      ((∀ e ∈ (s.core q).ctxs, e.2.inGroup gid = false) → Answers (.groupArrival n) s fun u => u = s.remove n)
      ∧ ((∃ e ∈ (s.core q).ctxs, e.2.inGroup gid = true) →
        ((∃ k ∈ pres, k ∈ arr) → (∀ k ∈ g.expected, k ∈ pres → k ∈ arr) → Answers (.groupArrival n) s fun u =>
          kget (u.terr t).groups gid = some { g with arrived := [], gen := g.gen + 1, expected := pres } ∧ u.cores = s.cores
            ∧ u.net = s.net.eraseIdx n ++ pres.map (fun k =>
                { src := .terr t, dst := .core k, vc := 3, terr := some t, fab := none, body := .groupFire gid (g.gen + 1).toNat, sentAt := s.now }))
        ∧ ((∃ k ∈ g.expected, k ∈ pres ∧ k ∉ arr) → Answers (.groupArrival n) s fun u =>
          kget (u.terr t).groups gid = some { g with arrived := arr.filter pres.contains, expected := g.expected.filter pres.contains } ∧ u.net = s.net.eraseIdx n ∧ u.cores = s.cores)))
    ∧ ∀ gen, m.dst = .core q → m.body = .groupFire gid gen → Answers (.groupFiringArrival n) s fun u =>
        OnlyCoreNet s u q ∧ u.net = s.net.eraseIdx n ∧ ∀ x, (s.core q).live x = true →
          u.ctx q x = if (s.ctx q x).inGroup gid then { s.ctx q x with acc := some ⟨10, gid, some ⟨gen, false, none⟩⟩ } else s.ctx q x

/-- R225 to R228, R234 to R237: a started head sends its first word at its time, once the words of the earlier run have arrived; in a later beat it sends the word at its
index and goes on to the next, to the target of a taken transfer with one bubble, or stops after SSTOP; no beat passes while a word is due. A word due at a
core is buffered while context 0 streams, or handles what it took as it streamed, else lost to it, and puts a waiting JOIN of its index into streamed mode.
What in it is the model's reading and not the spec's words: log entry 45. -/
def Obligations.StreamSteps : Prop :=
  (∀ (s : State) (c : Nat), s.frozen c = false →
    let h := (s.clus c).head
    let w : StreamWord := ⟨h.idx, (kget (s.clus c).sstore h.idx).getD 0, (s.clus c).sbad.contains h.idx⟩
    (∀ at_, h.startAt = some at_ → at_ ≤ s.now → h.flight = [] → Answers (.streamHeadStart c) s fun t =>
      (t.clus c).head.startAt = none ∧ (t.clus c).head.flight = [(0, w)] ∧ (t.clus c).head.time = 0 ∧ (t.clus c).head.pace = h.skew
        ∧ ∀ k ∈ coresOf c, (t.core k).stream.from_ = 0 ∧ (t.core k).ctxs = (s.core k).ctxs)
    ∧ ((∀ k ∈ s.streamCores c, s.due k = none) →
      (h.running = false ∨ h.startAt ≠ none → Answers (.streamHeadSend c) s fun t =>
        OnlyClus s t c ∧ (t.clus c).head = { h with time := h.time + 1 })
      ∧ (h.running = true → h.startAt = none →
        (h.bubble = true → Answers (.streamHeadSend c) s fun t => OnlyClus s t c ∧ (t.clus c).head = { h with time := h.time + 1, bubble := false })
        ∧ (h.bubble = false → w.bad = false → h.idx < 16383 →
          ((headTarget h.idx w.word = none → (∀ d a x, decodeOr w.word ≠ .sstop d a x) → Answers (.streamHeadSend c) s fun t =>
            OnlyClus s t c ∧ (t.clus c).head = { h with time := h.time + 1, idx := h.idx + 1, bubble := false, flight := h.flight ++ [(h.time + 1, w)] })
          ∧ (∀ g : Nat, headTarget h.idx w.word = some (g : Int) → g ≤ 16383 → Answers (.streamHeadSend c) s fun t =>
            OnlyClus s t c ∧ (t.clus c).head = { h with time := h.time + 1, idx := g, bubble := true, flight := h.flight ++ [(h.time + 1, w)] })
          ∧ (∀ d a x, decodeOr w.word = .sstop d a x → Answers (.streamHeadSend c) s fun t =>
            OnlyClus s t c ∧ (t.clus c).head.running = false ∧ (t.clus c).head.flight = h.flight ++ [(h.time + 1, w)]))))))
  ∧ ∀ (s : State) (k e : Nat) (w : StreamWord), s.disabled.contains k = false → s.due k = some (e, w) →
      (s.awaits k w.idx = false → (s.core k).buffers = true → Answers (.streamWordDelivery k) s fun t =>
        (t.core k).stream.buf = (s.core k).stream.buf ++ [w] ∧ (t.core k).stream.next = nextAfter w ∧ (t.core k).ctxs = (s.core k).ctxs
          ∧ w.idx ∈ (t.core k).stream.got ∧ (t.core k).stream.lost = (s.core k).stream.lost ∧ t.gmem = s.gmem)
      ∧ (s.awaits k w.idx = false → (s.core k).buffers = false → Answers (.streamWordDelivery k) s fun t =>
        (t.core k).stream.buf = (s.core k).stream.buf ∧ (t.core k).ctxs = (s.core k).ctxs ∧ w.idx ∈ (t.core k).stream.lost)
      ∧ (s.awaits k w.idx = true → Answers (.streamWordDelivery k) s fun t =>
        (t.core k).stream.buf = [w] ∧ (t.ctx k 0).mode = .streamed ∧ (t.ctx k 0).pc = w.idx ∧ (t.ctx k 0).run = .running
          ∧ RegsSame (s.ctx k 0) (t.ctx k 0) ∧ t.gmem = s.gmem)

/-! ### Steps of contexts -/

/-- R91, R82, R353: an upcall with an entry, at a boundary of context 0 outside a handler, saves PC, latch and level, sets the cause and
value and enters at level T; one without an entry is dropped. A held upcall enters the queue when there is room. R92 to R94, R104, R194,
R323: a stop at a boundary, once the wide side is ready, writes the image, and before its boundary the context is asked to stop; a restore reads it back and
the context runs, and one that a drain or a pause saved comes back from its save entry; an open packet ends 1,024 cc after its SNDO with its token faulted and
a PACKET_ABORT trap, out of the word that waits; a waiting helper takes a free slot, or that of a
helper parked in HJOIN, its image read back and the other's written; a WFE ends at its deadline with 1; a burner that is empty fences its core.
What in it is the model's reading and not the spec's words: log entries 32, 35, 42, 67, 92 and 95. -/
def Obligations.ContextSteps : Prop :=
  ((∀ (s : State) (k : Nat) (c : BitVec 8) (v : Word) (rest : List (BitVec 8 × Word)), s.works k = true → (s.core k).upq = (c, v) :: rest →
      s.atBoundary k 0 = true → (s.ctx k 0).spr.inh = false → (s.ctx k 0).stopping = false →
      (∀ pc, (s.terr (s.terrOf k)).upcallEntry c = some pc → (s.ctx k 0).mode = .loc → Answers (.upcallDelivery k) s fun t =>
        let h := s.ctx k 0
        let h' := t.ctx k 0
        (t.core k).upq = rest ∧ h'.spr.epc = word h.pc ∧ h'.spr.ecause = c ∧ (c ≠ 0x21 → h'.spr.eval = v) ∧ h'.spr.hlatch = h.latch
          ∧ h'.spr.plev = h.level ∧ h'.spr.inh = true ∧ h'.spr.upc = true ∧ h'.spr.str = false ∧ h'.level = .t ∧ h'.pc = pc
          ∧ h'.latch = Latch.empty ∧ h'.run = .running ∧ RegsSame h h' ∧ (t.core k).lmem = (s.core k).lmem ∧ t.gmem = s.gmem)
      ∧ (∀ pc, (s.terr (s.terrOf k)).upcallEntry c = some pc → (s.ctx k 0).mode ≠ .loc → Answers (.upcallDelivery k) s fun t =>
        let h := s.ctx k 0
        let h' := t.ctx k 0
        (t.core k).upq = rest ∧ h'.spr.epc = word ((s.core k).stopPc h) ∧ h'.spr.ecause = c ∧ h'.spr.inh = true ∧ h'.spr.upc = true ∧ h'.spr.str = true
          ∧ h'.keeps = h.streamed ∧ h'.mode = .loc ∧ h'.level = .t ∧ h'.pc = pc ∧ RegsSame h h' ∧ (t.core k).stream.buf = (s.core k).stream.buf)
      ∧ ((s.terr (s.terrOf k)).upcallEntry c = none → Answers (.upcallDelivery k) s fun t =>
        OnlyCore s t k ∧ (t.core k).upq = rest ∧ t.ctx k 0 = s.ctx k 0))
    ∧ ∀ (s : State) (i : Nat) (h : HeldUpcall), s.heldUpcalls[i]? = some h → (s.core h.core).upq.length < 8 →
        (∀ o ∈ s.heldUpcalls.take i, o.core ≠ h.core) → Answers (.upcallRetry i) s fun t =>
          (t.core h.core).upq = (s.core h.core).upq ++ [(h.cause, h.eval)] ∧ t.heldUpcalls = s.heldUpcalls.eraseIdx i
            ∧ ∀ j, j ≠ h.core → t.core j = s.core j)
  ∧ (∀ (s : State) (k x : Nat),
      (s.works k = true → s.atBoundary k x = true → s.stopReady k x = true → (s.ctx k x).mode = .loc → Answers (.contextStop k x) s fun t =>
        (t.ctx k x).run = .stopped .saved ∧ (t.ctx k x).pc = (s.ctx k x).pc ∧ RegsSame (s.ctx k x) (t.ctx k x)
          ∧ mread (t.core k).lmem (imageAt x) 512 = (t.ctx k x).image s.now (s.ctx k x).pc (x = 0 ∧ (s.core k).upq ≠ []) ∧ t.gmem = s.gmem)
      ∧ (s.works k = true → (s.core k).live x = true → (∀ y, (s.ctx k x).run ≠ .stopped y) → s.atBoundary k x = false → Answers (.contextStop k x) s fun t => OnlyCore s t k ∧ t.ctx k x = { s.ctx k x with stopping := true })
      ∧ ((s.core k).live x = true → s.works k = true → s.draining k = false → (s.ctx k x).run = .stopped .saved →
          let h := Ctx.ofImage (s.ctx k x) s.now (mread (s.core k).lmem (imageAt x) 512)
          h.mode = .loc → Answers (.contextRestore k x) s fun t => OnlyCore s t k ∧ t.ctx k x = { h with run := .running })
      ∧ (∀ i v, (s.core k).live x = false → s.works k = true → s.draining k = false → s.savedEntry k x = some i → kget (s.terr (s.terrOf k)).saved i = some v →
          let h := Ctx.ofImage v.ctx s.now (s.gread (s.terrOf k) (s.entryAt (s.terrOf k) i + 128) 512)
          h.mode = .loc → Answers (.contextRestore k x) s fun t =>
            (t.core k).live x = true ∧ t.ctx k x = { h with run := .running, acc := none } ∧ kget (t.terr (s.terrOf k)).saved i = none
              ∧ (t.terr (s.terrOf k)).paused = false ∧ ∀ j, j ≠ k → t.core j = s.core j)
      ∧ (∀ p, (s.ctx k x).pkt = some p → (s.core k).live x = true → s.works k = true → p.openedAt + 1024 ≤ s.now → (s.ctx k x).committed = false →
          (s.ctx k x).load = none → (∀ y, (s.ctx k x).run ≠ .stopped y) → (s.ctx k x).mode = .loc → (s.ctx k x).spr.tvec.getLsbD 0 = true → (s.ctx k x).spr.inh = false →
          Answers (.packetAbort k x) s fun t =>
            let h' := t.ctx k x
            { t with cores := s.cores, net := s.net, clusters := s.clusters, terrs := s.terrs } = s ∧ (∀ j, j ≠ k → t.core j = s.core j)
              ∧ t.net = s.net.filter (fun m => m.body ≠ .opening p.uid) ∧ h'.pkt = none ∧ h'.run = .running ∧ h'.acc = none
              ∧ h'.tok p.tok = ((s.ctx k x).tok p.tok).settle (.faulted 0x0E) ∧ h'.spr.ecause = 0x0E
              ∧ h'.spr.eval = word p.pc ∧ h'.spr.epc = word (s.ctx k x).pc ∧ h'.pc = 4 * ((s.ctx k x).spr.tvec.toNat / 4) ∧ RegsSame (s.ctx k x) h')
      ∧ (1 ≤ x → x ≤ 10 → (s.core k).slotWaiters = [(x, s.ctx k x)] →
          let saved := Ctx.ofImage (s.ctx k x) s.now (mread (s.core k).lmem (imageAt x) 512)
          let joins (e : Nat × Ctx) : Bool := match e.2.run with | .parked (.child _) => true | _ => false
          ((s.core k).slotsUsed + s.reservedOn k < (s.core k).slots → Answers (.helperSlotRestore k) s fun t =>
            OnlyCore s t k ∧ t.ctx k x = saved.setRun s.now .running)
          ∧ (∀ y h d a, (s.core k).slots ≤ (s.core k).slotsUsed + s.reservedOn k → (s.core k).ctxs.filter joins = [(y, h)] → 1 ≤ y → y ≤ 10 → y ≠ x →
            s.nextWord k y = some (.hjoin d a) → s.atBoundary k y = true → s.stopReady k y = true → Answers (.helperSlotRestore k) s fun t =>
              (t.ctx k x).run = .running ∧ RegsSame saved (t.ctx k x) ∧ (t.ctx k y).run = .stopped .slot ∧ RegsSame (s.ctx k y) (t.ctx k y)
                ∧ mread (t.core k).lmem (imageAt y) 512 = (t.ctx k y).image s.now ((s.core k).stopPc (s.ctx k y)) False
                ∧ ∀ j, j ≠ k → t.core j = s.core j)
          ∧ ((s.core k).slots ≤ (s.core k).slotsUsed + s.reservedOn k → (s.core k).ctxs.filter joins = [] → Answers (.helperSlotRestore k) s fun t => t = s))
      ∧ (∀ d a idle b at_, (s.core k).live x = true → s.works k = true → (s.ctx k x).stopping = false → (s.ctx k x).run = .parked (.event b (some at_)) →
          s.nextWord k x = some (.wfe d a idle) → at_ ≤ s.now → (s.ctx k x).event = false → (s.ctx k x).mode = .loc → (s.ctx k x).rep = none →
          Answers (.wfeTimeout k x) s fun t =>
            OnlyCore s t k ∧ RegFile (s.ctx k x) (t.ctx k x) none d 1 ∧ (t.ctx k x).pc = (s.ctx k x).pc + 4 ∧ (t.ctx k x).run = .running)
      ∧ ((s.core k).live x = true → s.works k = true → (s.ctx k x).spr.hbtiv ≠ 0 → (s.ctx k x).run.ages = true → (s.ctx k x).burnLeft s.now = 0 →
          Answers (.burnerExpiry k x) s fun t =>
            (t.stat k).fenced = true ∧ (∀ j, j ≠ k → t.stat j = s.stat j) ∧ t.gmem = s.gmem ∧ (∀ j, (t.core j).ctxs = (s.core j).ctxs)
              ∧ ∃ m b, t.net.getLast? = some m ∧ m.src = .core k ∧ m.dst = .core (supOf (dieOf k)) ∧ m.body = .fault b ∧ b.getD 19 0 = 5))

/-! ### Slices, translations and supervisors -/

/-- R141, R149, R290, R293, R296, R318, R376: a slice refuses a request for no storage; one that reads base memory, or a line of GDDR7 in its
way, is answered with its bytes, one that writes it changes exactly the bytes it lists, and an atomic leaves the new value of Table 7.9 and
answers the old one, or, where an uncorrectable word stands in it, writes nothing; a GDDR7 read that may take no way is answered from GDDR7; one that misses and finds a way blocks its set, and the line, once it returns,
takes its way and answers the requests held for it. The scan of the tags ends with an exact OCC; patrol scrubbing corrects the correctable words of its granule and counts them, a host read changes
nothing; a host write changes its bytes. R306, R310, R312: a walk that succeeds leaves its entry in the translation
cache; one that fails answers the waiting accesses, those of the engines too, with its reason; an invalidation drops the entries it names and is acknowledged once no
access of the cluster is outstanding.
What in it is the model's reading and not the spec's words: log entries 18, 19, 20, 22, 50 and 74. -/
def Obligations.SliceAndTranslationSteps : Prop :=
  ((∀ (s : State) (n h : Nat) (m : Msg) (r : Req), s.arriving n = some m → m.dst = .slice h → m.body = .req r →
      let answer (b : Body) : List Msg :=
        s.net.eraseIdx n ++ [{ src := .slice h, dst := .core r.core, vc := 1, terr := none, fab := none, body := b, sentAt := s.now }]
      (s.slice h).blocks = [] → (s.slice h).bypass = [] →
      (s.noStorage r.pa = true → Answers (.sliceRequest n) s fun t => t = { s with net := answer (.nak r.core r.uid 0x06) })
      ∧ (isBase r.pa = true → s.noStorage r.pa = false →
        (∀ l, r.op = .read l → (s.slice h).weak = [] → Answers (.sliceRequest n) s fun t =>
          t = { s with net := answer (.data r (mread s.gmem r.pa l) (s.badIn r.pa l)) })
        ∧ (∀ cells, r.op = .write cells [] → (cells.map (·.1)).Nodup → Answers (.sliceRequest n) s fun t =>
          t.net = answer (.ack r.core r.uid) ∧ (∀ c ∈ cells, mget t.gmem c.1 = c.2) ∧ (∀ a, (∀ c ∈ cells, c.1 ≠ a) → mget t.gmem a = mget s.gmem a)
            ∧ t.cores = s.cores))
      -- a read and a write of a line of GDDR7 in its way
      ∧ (∀ w, isGddr r.pa = true → homeOf r.pa = h → (s.slice h).holds r.pa = some w →
        (∀ l, r.op = .read l → r.pa % 128 + l ≤ 128 → Answers (.sliceRequest n) s fun t =>
          t.net = answer (.data r (mread s.gmem r.pa l) (s.badIn r.pa l)) ∧ t.gmem = s.gmem ∧ t.cores = s.cores ∧ (t.slice h).holds r.pa = some w)
        ∧ (∀ cells, r.op = .write cells [] → (cells.map (·.1)).Nodup → Answers (.sliceRequest n) s fun t =>
          t.net = answer (.ack r.core r.uid) ∧ (∀ c ∈ cells, mget t.gmem c.1 = c.2) ∧ (∀ a, (∀ c ∈ cells, c.1 ≠ a) → mget t.gmem a = mget s.gmem a)
            ∧ t.cores = s.cores ∧ ∃ y, (t.slice h).wayAt (setOf r.pa) w = some y ∧ y.line = r.pa / 128 ∧ y.dirty = true))
      -- an atomic of a line in place: the old value is the answer, and the new one of Table 7.9 stands there, unless a word of it is uncorrectable
      ∧ (∀ fn l v cmp, r.op = .atomic fn l v cmp → fn < 10 → v < 2 ^ (8 * l) → r.pa % 128 + l ≤ 128 →
          (isBase r.pa = true ∧ s.noStorage r.pa = false) ∨ (isGddr r.pa = true ∧ homeOf r.pa = h ∧ ((s.slice h).holds r.pa).isSome = true) →
          let old := leNat (mread s.gmem r.pa l)
          let sg := Obligations.signed l
          let new := match fn with
            | 0 => (old + v) % 2 ^ (8 * l)
            | 1 => v
            | 2 => if old = cmp then v else old
            | 3 => if sg old ≤ sg v then old else v
            | 4 => if sg v ≤ sg old then old else v
            | 5 => min old v
            | 6 => max old v
            | 7 => old &&& v
            | 8 => old ||| v
            | _ => old ^^^ v
          Answers (.sliceRequest n) s fun t =>
            t.net = answer (.data r (mread s.gmem r.pa l) (s.badIn r.pa l)) ∧ t.cores = s.cores
              ∧ (∀ a, (a < r.pa ∨ r.pa + l ≤ a) → mget t.gmem a = mget s.gmem a)
              ∧ (s.badIn r.pa l = [] → mread t.gmem r.pa l = leBytes l new) ∧ (s.badIn r.pa l ≠ [] → t.gmem = s.gmem))
      -- a read of GDDR7 that may take no way passes the cache by
      ∧ (∀ l, isGddr r.pa = true → homeOf r.pa = h → (s.slice h).holds r.pa = none → (s.slice h).victim r.terr (setOf r.pa) r.alloc = none →
          r.op = .read l → r.pa % 128 + l ≤ 128 → s.crypt r.key (r.pa / 128) = none → Answers (.sliceRequest n) s fun t =>
            t.net = answer (.data r (mread s.gmem r.pa l) (s.badIn r.pa l)) ∧ t.gmem = s.gmem ∧ (t.slice h).ways = (s.slice h).ways)
      ∧ (isGddr r.pa = true → (s.slice h).holds r.pa = none → ∀ w, (s.slice h).victim r.terr (setOf r.pa) r.alloc = some w →
          (s.slice h).wayAt (setOf r.pa) w = none → Answers (.sliceRequest n) s fun t =>
            t.net = s.net.eraseIdx n ∧ t.gmem = s.gmem ∧ (∀ j, j ≠ h → t.slice j = s.slice j)
              ∧ (t.slice h).blocks = [(setOf r.pa, ⟨r.pa / 128, w, r.alloc == 2, r.terr, r.key, [r], []⟩)]))
    ∧ (∀ (s : State) (h set l : Nat) (b : Block) (r : Req), kget (s.slice h).blocks set = some b → b.held = [r] → b.conflict = [] → r.op = .read l →
        (s.slice h).weak = [] → s.crypt b.key b.line = none → r.key = b.key → r.pa / 128 = b.line → r.pa % 128 + l ≤ 128 → Answers (.sliceFillReturn h set) s fun t =>
          kget (t.slice h).blocks set = none ∧ (∃ y, (t.slice h).wayAt set b.way = some y ∧ y.line = b.line ∧ y.dirty = false ∧ y.owner = b.terr)
            ∧ t.gmem = s.gmem ∧ t.cores = s.cores
            ∧ t.net = s.net ++ [{ src := .slice h, dst := .core r.core, vc := 1, terr := none, fab := none, sentAt := s.now,
                                  body := .data r (mread s.gmem r.pa l) (s.badIn r.pa l) }])
    ∧ ∀ (s : State) (h k g pa : Nat) (bs : List Byte),
        (Answers (.occRebuildEnd h) s fun t => (∀ w, (t.slice h).occ w = ((s.slice h).ways.filter (fun e => e.2.owner == w)).length)
          ∧ { t with slices := s.slices } = s ∧ ∀ j, j ≠ h → t.slice j = s.slice j)
        ∧ (s.disabled.contains k = false → Answers (.patrolScrub k g) s fun t =>
          OnlyCore s t k ∧ (t.core k).lmem = (s.core k).lmem ∧ (∀ x, (t.core k).ctxs = (s.core k).ctxs ∧ t.ctx k x = s.ctx k x)
            ∧ (∀ w, w ∈ (t.core k).weak ↔ w ∈ (s.core k).weak ∧ w / 8 ≠ g)
            ∧ (t.core k).corrected + (t.core k).weak.length = (s.core k).corrected + (s.core k).weak.length)
        ∧ (Answers (.hostDmaAccess pa none g) s fun t => t = s)
        ∧ (bs ≠ [] → pa + bs.length ≤ 2 ^ 37 → (∀ l, s.crypt (s.keyOf 0 pa) l = none) → Answers (.hostDmaAccess pa (some bs) bs.length) s fun t =>
          mread t.gmem pa bs.length = bs ∧ (∀ a, (a < pa ∨ pa + bs.length ≤ a) → mget t.gmem a = mget s.gmem a) ∧ t.cores = s.cores ∧ t.net = s.net))
  ∧ ((∀ (s : State) (c i : Nat) (w : Walk), (s.clus c).walks[i]? = some w → s.walking c w = true →
      (∀ l, s.walk w.terr w.acc w.va = .ok l → Answers (.walkComplete c i) s fun t =>
        OnlyClus s t c ∧ (t.clus c).walks = (s.clus c).walks.eraseIdx i ∧ ∃ e, e ∈ (t.clus c).tlb ∧ e.maps w.terr w.va = true ∧ e.ppn = l.pa / 2 ^ l.lg
          ∧ e.lg = l.lg ∧ e.r = l.r ∧ e.w = l.w ∧ e.bad = false)
      ∧ (∀ f k x v, s.walk w.terr w.acc w.va = .error f → (s.terr w.terr).win.tmig.getLsbD 0 = false → s.waiters c w = [(k, x, v)] →
          Answers (.walkComplete c i) s fun t =>
            (t.clus c).walks = (s.clus c).walks.eraseIdx i ∧ (t.clus c).tlb = (s.clus c).tlb ∧ RegsSame (s.ctx k x) (t.ctx k x)
              ∧ (t.ctx k x).acc = some ⟨1, v, some ⟨8 * f.1 + f.2, false, some 0x06⟩⟩
              -- and each engine access that shares the walk finds its refusal
              ∧ ∀ u ∈ w.keys, ⟨u, w.va, w.acc, f⟩ ∈ (t.clus c).walkFails))
    ∧ ∀ (s : State) (n c k uid t va mode : Nat) (m : Msg), s.arriving n = some m → m.dst = .cluster c → m.body = .tinvb k uid t va mode →
        Answers (.tinvbInvalidate n) s fun u =>
          (u.clus c).tlb = (s.clus c).tlb.filter (fun e => !e.hit t va mode) ∧ (∀ j, j ≠ c → u.clus j = s.clus j) ∧ u.cores = s.cores
            ∧ u.net = if s.accessing c then s.net else s.replied m n (.ack m.sender uid))

/-- R315, R316, R320, R322, R324: a fault message enters its supervisor's ring and sets the event bit, or goes back and is sent again a microsecond later. RESUME lets a copy translate
again, ABORT ends it with a cause, RESTART runs a halted context, UNFENCE ends a fence and reloads the burners, in the images of stopped contexts too; each is acknowledged. A containment kill
empties every enabled core of its unit and reports it.
What in it is the model's reading and not the spec's words: log entries 40, 48 and 73. -/
def Obligations.SupervisorSteps : Prop :=
  (∀ (s : State) (n q : Nat) (m : Msg) (bytes : List Byte), m.body = .fault bytes →
    (s.arriving n = some m → m.dst = .core q → m.vc = 3 →
      let w := (s.core q).spr.fring
      let held := (bits w 36 12 + 4096 - bits w 24 12) % 4096
      (wbit w 0 = true → held < 2 ^ bits w 20 4 → Answers (.faultMessageArrival n) s fun t =>
        OnlyCoreNet s t q ∧ t.net = s.net.eraseIdx n
          ∧ mread (t.core q).lmem (256 * bits w 8 12 + 32 * (bits w 36 12 % 2 ^ bits w 20 4)) bytes.length = bytes
          ∧ bits (t.core q).spr.fring 36 12 = (bits w 36 12 + 1) % 4096 ∧ ((s.core q).live 0 = true → (t.ctx q 0).event = true))
      ∧ (wbit w 0 = false ∨ 2 ^ bits w 20 4 ≤ held → Answers (.faultMessageArrival n) s fun t =>
        t = { s with net := s.net.eraseIdx n ++ [{ m with src := m.dst, dst := m.src, vc := 1, sentAt := s.now }] }))
    ∧ (s.net[n]? = some m → m.vc = 1 → m.sentAt + 700 ≤ s.now → Answers (.faultMessageResend n) s fun t =>
        t = { s with net := s.net.eraseIdx n ++ [{ m with src := m.dst, dst := m.src, vc := 3, sentAt := s.now }] }))
  ∧ (∀ (s : State) (n q uid j : Nat) (m : Msg) (hdr w : Word), s.arriving n = some m → m.dst = .core q → m.body = .packet uid hdr [w] false j → m.vc = 3 →
      hdrMail hdr = false → s.controlRefusal m q (hdrDst hdr) = none →
      let done (t : State) : Prop := t.net = s.replied m n (.ack m.sender uid) ∧ ∀ j, j ≠ q → t.core j = s.core j ∧ t.stat j = s.stat j
      (∀ a c, hdrDst hdr = 0xFF000 → (s.core q).aside.find? (fun e => e.fid == bits w 0 8) = some a → a.cmd = some c → Answers (.resumeCopy n) s fun t =>
        done t ∧ (t.core q).aside = (s.core q).aside.map (fun b => if b = a then { b with verdict := some (true, 0) } else b))
      ∧ (∀ a c o, hdrDst hdr = 0xFF008 → (s.core q).aside.find? (fun e => e.fid == bits w 0 8) = some a → a.cmd = some c →
          (s.core q).out c.uid = some o → Answers (.abortCopy n) s fun t =>
        done t ∧ (t.core q).aside = (s.core q).aside.filter (· ≠ a)
          ∧ (t.core q).out c.uid = some { o with sending := false, cause := o.cause.or (some (BitVec.ofNat 8 (bits w 8 8))) })
      ∧ (hdrDst hdr = 0xFF010 → (s.core q).live (bits w 0 4) = true → (s.ctx q (bits w 0 4)).run = .stopped .halted → Answers (.restart n) s fun t =>
        done t ∧ (t.ctx q (bits w 0 4)).run = .running ∧ (t.ctx q (bits w 0 4)).pc = (s.ctx q (bits w 0 4)).pc
          ∧ RegsSame (s.ctx q (bits w 0 4)) (t.ctx q (bits w 0 4)) ∧ (bits w 0 4 = 0 → (t.stat q).begun = true))
      ∧ (hdrDst hdr = 0xFF018 → (s.stat q).fenced = true → Answers (.unfence n) s fun t =>
        done t ∧ (t.stat q).fenced = false ∧ ∀ x, (s.core q).live x = true → (t.ctx q x).burnLeft s.now = 1024 * (s.ctx q x).spr.hbtiv.toNat
          ∧ RegsSame (s.ctx q x) (t.ctx q x)
          -- the image of a context that stands stopped holds the new count
          ∧ ((s.ctx q x).run = .stopped .slot ∨ (s.ctx q x).run = .stopped .saved → x < 12 →
              mread (t.core q).lmem (imageAt x) 512
                = (t.ctx q x).image s.now ((s.core q).stopPc (s.ctx q x)) (x = 0 ∧ (s.core q).upq ≠ []))))
  ∧ ∀ (s : State) (k : Nat), s.disabled.contains k = false → Answers (.containmentKill k) s fun t =>
      (∀ j ∈ s.killUnit k, s.disabled.contains j = false → (t.stat j).killed = true ∧ (t.core j).ctxs = [] ∧ (t.core j).lmem = [])
        ∧ t.gmem = s.gmem ∧ ∃ j ∈ s.killUnit k, ∃ m b, t.net.getLast? = some m ∧ m.dst = .core (supOf (dieOf j)) ∧ m.body = .fault b ∧ b.getD 19 0 = 6

/-! ### Tasks, power and time -/

/-- R270 to R273, R276, R348, R349, R358: a dispatcher chooses the one record of its territory's one mapped queue for the coolest qualifying core, and charges the bucket. The
chosen record starts there, at its entry with its arguments, or goes back to its queue with its charge once its cluster starts nothing more. A drained helper
gives its number back, or leaves it to its parent. A bucket gains its allowance, up to 64 times that. The
allowance of a cluster is the module's energy scaled down between 85 and 105 °C; at 110 °C module power goes.
What in it is the model's reading and not the spec's words: log entries 46, 47 and 90. -/
def Obligations.PowerAndTaskSteps : Prop :=
  (∀ (s : State) (c t j k : Nat) (q : QSlot) (r : Record), (s.clus c).owner = some t → s.dispatches c = true → s.oldestHeld t c = none →
    (s.terr t).slots = [(j, q)] → q.recs = [r] → recPaired r.bytes = false → recBarrier r.bytes = false →
    (s.clus c).refused = [] → s.coreFor c r = some k → s.fits t c (recClass r.bytes) 1 = true → Answers (.dispatchRequest c) s fun u =>
      let e := s.charge t (recClass r.bytes)
      (u.terr t).chosen = (s.terr t).chosen ++ [⟨c, some k, r, e, 1⟩] ∧ (∃ q', kget (u.terr t).slots j = some q' ∧ q'.recs = [])
        ∧ (u.clus c).bucket = min ((64 * (s.clus c).allow : Nat) : Int) ((s.clus c).bucket - (e : Int)) ∧ u.cores = s.cores ∧ u.gmem = s.gmem)
  ∧ (∀ (s : State) (t i k : Nat) (c : Chosen) (rest : List Turn), s.power = true → s.turns = .record t i :: rest → (s.terr t).chosen[i]? = some c →
      (∀ o, c.core = some o → recPaired c.rec_.bytes = false → s.dispatches c.cluster = true → s.startable o = true → (s.core o).slotsUsed < (s.core o).slots →
          c.slots = 1 → (∃ x, 1 ≤ x ∧ x ≤ 10 ∧ (s.core o).helperFree x = true) → ∃ u, step s = .next u ∧
        let x := (s.core o).freeHelper
        (u.core o).live x = true ∧ (u.ctx o x).pc = recEntry c.rec_.bytes ∧ (u.ctx o x).level = .u ∧ (u.ctx o x).run = .running
          ∧ (∀ i < 6, (u.ctx o x).reg (BitVec.ofNat 5 (i + 1)) = word (recField c.rec_.bytes (8 + 8 * i) 8))
          ∧ (u.terr t).chosen = (s.terr t).chosen.filter (fun d => d.rec_.id ≠ c.rec_.id) ∧ u.gmem = s.gmem)
      ∧ (c.core = some k → s.dispatches c.cluster = false → ∀ j, (s.terr t).slotOf (recQueue c.rec_.bytes) = some j → recCheck c.rec_.bytes = none →
          (∃ sl, kget (s.terr t).slots j = some sl) → ∃ u, step s = .next u ∧
        (u.slot t j).recs = insertRec c.rec_ (s.slot t j).recs ∧ (u.terr t).chosen = (s.terr t).chosen.filter (fun d => d.rec_.id ≠ c.rec_.id)
          ∧ (u.clus c.cluster).bucket = min ((64 * (s.clus c.cluster).allow : Nat) : Int) ((s.clus c.cluster).bucket + (c.charge : Int)) ∧ u.cores = s.cores))
  ∧ (∀ (s : State) (k x e : Nat) (d : Ended), kget (s.core k).ended x = some d → d.drained = false → (s.core k).pending x = false →
      (d.parent = none → d.task = none → Answers (.helperDrain k x e) s fun t => OnlyCore s t k ∧ kget (t.core k).ended x = none ∧ (t.core k).ctxs = (s.core k).ctxs)
      ∧ (d.parent ≠ none → d.task = none → Answers (.helperDrain k x e) s fun t =>
        OnlyCore s t k ∧ kget (t.core k).ended x = some { d with drained := true } ∧ (t.core k).ctxs = (s.core k).ctxs)
      ∧ (∀ u, d.parent = none → d.task = some u → u.own = true → d.kind = 0 → Answers (.helperDrain k x e) s fun t =>
        kget (t.core k).ended x = none ∧ (t.clus (clusOf k)).bucket
            = min ((64 * (s.clus (clusOf k)).allow : Nat) : Int) ((s.clus (clusOf k)).bucket + ((u.charged : Int) - e))))
  ∧ ∀ (s : State),
      (Answers .bucketRefill s fun t => { t with clusters := s.clusters } = s ∧ ∀ c, t.clus c =
        { s.clus c with bucket := min ((64 * (s.clus c).allow : Nat) : Int) ((s.clus c).bucket + ((s.clus c).allow : Int)) })
      ∧ (∀ c readings, Answers (.temperatureRefresh c readings) s fun t => { t with stats := s.stats } = s
          ∧ ∀ i < 16, ∀ v, readings[i]? = some v → t.stat (coreIn c (i % 4) (i / 4)) = { s.stat (coreIn c (i % 4) (i / 4)) with temp := v })
      ∧ (∀ mw hot, Answers (.powerControl mw hot) s fun t => { t with clusters := s.clusters } = s ∧ ∀ c < 256,
          let h := (hot[c]?).getD (s.clus c).hottest
          let allowed (h mw : Nat) : Nat :=
            min 65535 (if h ≤ 85 then (2000000 - mw) / 256 else if 105 ≤ h then 0 else (2000000 - mw) * (105 - h) / (20 * 256))
          t.clus c = { s.clus c with hottest := h, allow := allowed h mw, bucket := min ((64 * allowed h mw : Nat) : Int) (s.clus c).bucket })
      ∧ (∀ v, 110 ≤ v → Answers (.thermalShutdown v) s fun t => t = { s with power := false, io := { s.io with msix0 := s.io.msix0 + 1 } })
      ∧ ∀ v, v < 110 → Answers (.thermalShutdown v) s fun t => t = s

/-! ### Territories on the move -/

/-- R341 to R347: gossip gives every cluster its next view and what its neighbours show. A cluster whose turn it is and that finds a
candidate proposes to it and locks its window. Rechecked with exact values the move drains; refused, it is given up and its lock goes. R348,
R351, R352, R374: a core without anything left has drained; before the deadline one whose context 0 has not returned by UPRET.yield is left alone; with every core
drained a cluster is scrubbed: untagged, its cores zeroed. It then passes to its taker, tethered unless that is territory 0, both
generations go up, the save entries of the move take the giver's new one, and the move is over. A paused territory keeps its generation and starts nothing more.
What in it is the model's reading and not the spec's words: log entries 48, 54, 62, 68, 69 and 90. -/
def Obligations.MoveSteps : Prop :=
  (∀ (s : State) (c : Nat),
      (Answers .pressureGossip s fun t => { t with clusters := s.clusters } = s ∧ ∀ j < 256,
        (t.clus j).view = s.nextView j ∧ (t.clus j).owner = (s.clus j).owner
          ∧ ∀ d < 4, kget (t.clus j).nviews d = (clusNext j d).map (fun n => (s.clus n).shows))
      ∧ (∀ own a, (s.clus c).owner = some own → pcEn s.pcfg = true → s.now % 700 = 0 → s.now / 700 % pcPer s.pcfg = c % pcPer s.pcfg →
          s.drifts own = true → (s.clus c).move = none → (∀ j ∈ clusWindow c, (s.clus j).lock = none) → s.candidate c own = some a →
          Answers (.driftEvaluate c) s fun t =>
            (t.clus c).move = some ⟨.proposed, a, own, s.now, s.pcfg, [], [], []⟩ ∧ (∀ j ∈ clusWindow c, (t.clus j).lock = some c) ∧ t.cores = s.cores
              ∧ t.terrs = s.terrs)
      ∧ (∀ own, (s.clus c).owner = some own → s.candidate c own = none → Answers (.driftEvaluate c) s fun t => t = s)
      ∧ ∀ m, (s.clus c).move = some m → m.phase = .proposed →
          let sure := s.drifts m.taker && s.drifts m.from_ && !s.moorBusy m.taker c && !s.moorBusy m.from_ c && (s.clus c).owner == some m.from_
            && s.mayAnnex m.taker m.from_ c (s.pressure m.taker) (s.pressure m.from_)
          (sure = true → (s.terr m.from_).chosen = [] → Answers (.proposeConfirm c) s fun t =>
            (t.clus c).move = some ⟨.draining, m.taker, m.from_, s.now, s.pcfg, [], [], []⟩ ∧ t.gmem = s.gmem ∧ ∀ k, (t.core k).ctxs = (s.core k).ctxs)
          ∧ (sure = false → (∀ e ∈ s.terrs, e.2.closing = false) → Answers (.proposeConfirm c) s fun t =>
            (t.clus c).move = none ∧ (∀ j ∈ clusWindow c, (t.clus j).lock ≠ some c) ∧ t.cores = s.cores))
  ∧ ((∀ (s : State) (c : Nat) (m : Move), (s.clus c).move = some m →
      (∀ k e, m.phase = .draining → clusOf k = c → s.plain k = true → m.drained.contains k = false →
        (m.yielded.contains k = false → s.now < m.began + 700 * pcDl m.pcfg → Answers (.drainDeadline k e) s fun t => t = s)
        ∧ ((m.yielded.contains k = true ∨ m.began + 700 * pcDl m.pcfg ≤ s.now) → (s.core k).ctxs = [] → (s.core k).ended = [] → (s.core k).lines = [] →
            (s.core k).outs = [] → (s.core k).rx.spill = none → Answers (.drainDeadline k e) s fun t =>
          OnlyClus s t c ∧ (t.clus c).move = some { m with drained := nput m.drained k }))
      ∧ (m.phase = .draining → (∀ k ∈ coresOf c, s.plain k = true → k ∈ m.drained) → Answers (.scrubPhase c) s fun t =>
        (t.clus c).owner = none ∧ (t.clus c).move = some { m with phase := .scrubbing } ∧ (t.clus c).sstore = [] ∧ (t.clus c).tlb = []
          ∧ t.gmem = s.gmem ∧ ∀ k ∈ coresOf c, s.plain k = true → (t.core k).ctxs = [] ∧ (t.core k).lmem = [] ∧ (t.core k).istore = [])
      ∧ (m.phase = .scrubbing → m.taker ≠ m.from_ → (∀ e ∈ s.terrs, e.2.closing = false) → (s.terr m.from_).slots = [] → Answers (.transferPhase c) s fun t =>
        (t.clus c).owner = some m.taker ∧ (t.clus c).move = none ∧ (t.clus c).tether = (m.taker != 0)
          ∧ (t.clus c).cooldown = s.now + 700 * pcCool m.pcfg ∧ (t.terr m.taker).gen = (s.terr m.taker).gen + 1
          ∧ (t.terr m.from_).gen = (s.terr m.from_).gen + 1 ∧ (m.entries = [] → t.gmem = s.gmem)
          -- a save entry that the cluster's cores wrote in this move takes the generation after it
          ∧ ∀ i, m.entries = [i] →
              let hd := s.entryHeader m.from_ i
              (hd % 256 ≠ 0 → clusOf (hd / 2 ^ 16 % 4096) = c →
                t.gmem = (s.gwrite m.from_ (s.entryAt m.from_ i + 4) (leBytes 4 ((s.terr m.from_).gen + 1).toNat)).gmem)
              ∧ (hd % 256 = 0 ∨ clusOf (hd / 2 ^ 16 % 4096) ≠ c → t.gmem = s.gmem)))
    ∧ ∀ (s : State) (t : Nat) (e : List (Nat × Nat)), t ≠ 0 → s.tlive t = true →
        (∀ c ∈ s.clustersOf t, ∀ k ∈ coresOf c, (s.core k).ctxs = [] ∧ (s.core k).lines = [] ∧ (s.core k).rx.spill = none) →
        (s.terr t).chosen = [] →
        Answers (.territoryPause t e) s fun u => (u.terr t) = { s.terr t with paused := true } ∧ u.cores = s.cores ∧ u.gmem = s.gmem
          ∧ ∀ c ∈ s.clustersOf t, u.dispatches c = false)

/-! ### Register writes -/

/-- R339, R355: a write of TCFG that sets live and passes the checks gives the territory its clusters and tables, one that fails changes
nothing; one that clears live closes it; each is acknowledged. A slot write with map set maps a queue and takes its records, up to 1,024 with
those that messages being written will post; with map clear the slot is freed when the ring has room for both, and keeps the queue id and the rate written. R240, R295, R298, R352, R366, R369, R373: each register takes what its rule lets it
take and acknowledges it, or refuses it with TRANSLATION: TOFF never takes TIME below TLAST; the tether aperture writes stores, starts
context 0 at level T or U, starts a stopped head and ends a tether, and takes nothing for a cluster that is not tethered; way masks and unlocked way counts change; a ROUTE entry waits for its
frames; PKGID is written once; a window field takes its bits.
What in it is the model's reading and not the spec's words: log entries 23, 55, 56, 57, 61, 70, 83, 87 and 88. -/
def Obligations.RegisterWrites : Prop :=
  (∀ (s : State) (n : Nat),
      (∀ r t w, s.tcfgWrite n = some (r, t, w) →
        (s.tlive t = false → wbit w 29 = true → (s.terr t).closing = false → (∀ c ∈ s.tinit t, (s.clus c).lock = none) → ∀ tab,
          (s.launchOk w (s.tinit t) = false → Answers (.territoryLaunch n tab) s fun u => u = (s.remove n).accept r.msg r.uid)
          ∧ (s.launchOk w (s.tinit t) = true → (s.setWin t { (s.terr t).win with tcfg := w }).groupsOk t tab.groups = false → (s.terr 0).slots = [] →
            Answers (.territoryLaunch n tab) s fun u => u.tlive t = false ∧ u.net.getLast? = (s.replied r.msg n (.ack r.msg.sender r.uid)).getLast?)
          ∧ (s.launchOk w (s.tinit t) = true → (s.setWin t { (s.terr t).win with tcfg := w }).groupsOk t tab.groups = true → (s.terr 0).slots = [] →
            Answers (.territoryLaunch n tab) s fun u =>
            (u.terr t).win.tcfg = w ∧ u.tlive t = true ∧ (∀ c ∈ s.tinit t, (u.clus c).owner = some t ∧ (u.clus c).tether = (t != 0))
              ∧ (u.terr t).templates = tab.templates ∧ u.net.getLast? = (s.replied r.msg n (.ack r.msg.sender r.uid)).getLast?))
        ∧ (s.tlive t = true → wbit w 29 = false → Answers (.territoryShutdown n) s fun u =>
            (u.terr t).win.tcfg = w ∧ u.tlive t = false ∧ u.net.getLast? = (s.replied r.msg n (.ack r.msg.sender r.uid)).getLast?
              ∧ (s.clustersOf t ≠ [] → (u.terr t).closing = true)))
      ∧ ∀ r t j, s.slotWrite n = some (r, t, j) →
        (wbit (word r.val) 32 = true →
          let q := bits (word r.val) 0 16
          let v := s.qcb t q
          (s.qcount t ≤ q → Answers (.queueMap n) s fun u => u = (s.remove n).accept r.msg r.uid)
          ∧ (q < s.qcount t → (s.terr t).slotOf q = none → (s.slot t j).mapped = false →
              let n' := min (1024 - s.landingsOf t q) (qcbHeld v)
              (∀ i < n', recCheck (s.gread t (qcbRing v + 64 * ((qcbHead v + i) % 2 ^ qcbLg v)) 64) = none) → Answers (.queueMap n) s fun u =>
            u.net = (s.replied r.msg n (.ack r.msg.sender r.uid)) ∧ u.cores = s.cores ∧ (u.slot t j).mapped = true ∧ (u.slot t j).queue = q
              ∧ (u.slot t j).rho = bits (word r.val) 16 16 ∧ (u.slot t j).recs.length = n'))
        ∧ (wbit (word r.val) 32 = false →
          let sl := s.slot t j
          let v := s.qcb t sl.queue
          let off : QSlot := ⟨false, bits (word r.val) 0 16, bits (word r.val) 16 16, [], s.now⟩
          (sl.mapped = false → Answers (.queueUnmap n) s fun u => u = ((s.remove n).setSlot t j off).accept r.msg r.uid)
          ∧ (sl.mapped = true → 2 ^ qcbLg v < qcbHeld v + sl.recs.length + s.landingsOf t sl.queue → Answers (.queueUnmap n) s fun u => u = (s.remove n).accept r.msg r.uid)
          ∧ (sl.mapped = true → qcbHeld v + sl.recs.length + s.landingsOf t sl.queue ≤ 2 ^ qcbLg v → Answers (.queueUnmap n) s fun u =>
              u.slot t j = off ∧ u.net = s.replied r.msg n (.ack r.msg.sender r.uid) ∧ u.cores = s.cores)))
  ∧ (∀ (s : State) (n : Nat) (r : RegWr), s.regWr n = some r →
      let ok := s.replied r.msg n (.ack r.msg.sender r.uid)
      let no := s.replied r.msg n (.nak r.msg.sender r.uid 0x06)
      (∀ t, r.isToff = some t → Answers (.toffWrite n) s fun u =>
        u.net = ok ∧ u.cores = s.cores ∧ (((s.io.tbase : Int) + (word r.val).toInt < ((s.terr t).win.tlast.toNat : Int) →
            (u.terr t).win.toff = (s.terr t).win.toff ∧ (u.terr t).win.tmig.getLsbD 2 = true)
          ∧ (((s.terr t).win.tlast.toNat : Int) ≤ (s.io.tbase : Int) + (word r.val).toInt →
            (u.terr t).win.toff = word r.val ∧ (u.terr t).win.tmig.getLsbD 2 = false)))
      ∧ (∀ c p, s.apWrite r = some (c, p) →
        (∀ k a, p = .istore k a → Answers (.tetherStoreWrite n) s fun u =>
          OnlyCoreNet s u k ∧ u.net = ok ∧ mnat (u.core k).istore a 4 = r.val % 2 ^ 32
            ∧ ∀ b, (b < a ∨ a + 4 ≤ b) → mget (u.core k).istore b = mget (s.core k).istore b)
        ∧ (∀ i, p = .sstore i → Answers (.tetherStoreWrite n) s fun u =>
          u.net = ok ∧ (kget (u.clus c).sstore i).getD 0 = BitVec.ofNat 32 r.val ∧ (u.clus c).sbad.contains i = false ∧ u.cores = s.cores)
        ∧ (∀ k, p = .start k →
          (startOk (word r.val) = false → Answers (.start n) s fun u => u = { s with net := no })
          ∧ (startOk (word r.val) = true → wbit (word r.val) 31 = false → Answers (.start n) s fun u =>
            u.net = ok ∧ (u.core k).live 0 = true ∧ (u.ctx k 0).pc = bits (word r.val) 0 15 ∧ (u.ctx k 0).mode = .loc ∧ (u.ctx k 0).run = .running
              ∧ (u.ctx k 0).level = (if wbit (word r.val) 30 then .t else .u) ∧ (u.stat k).tether = false ∧ (u.stat k).begun = true
              ∧ (u.core k).regions = (s.terr ((s.clus c).owner.getD 0)).regions ∧ ∀ j, j ≠ k → u.core j = s.core j))
        ∧ (p = .sgo →
          let v := word r.val
          ((bits v 18 14 ≠ 0 ∨ bits v 0 4 = 0 ∨ (s.clus c).head.running = true) → Answers (.sgo n) s fun u => u = { s with net := no })
          ∧ (bits v 18 14 = 0 → bits v 0 4 ≠ 0 → (s.clus c).head.running = false → Answers (.sgo n) s fun u =>
            u.net = ok ∧ (u.clus c).head.running = true ∧ (u.clus c).head.idx = bits v 4 14 ∧ (u.clus c).head.skew = bits v 0 4 ∧ u.cores = s.cores))
        ∧ (p = .tdone →
          (r.val % 2 ^ 32 ≠ 0 → Answers (.tdone n) s fun u => u = { s with net := no })
          ∧ (r.val % 2 ^ 32 = 0 → Answers (.tdone n) s fun u =>
            u.net = ok ∧ (u.clus c).tether = false ∧ (∀ k ∈ coresOf c, (u.stat k).tether = false) ∧ u.cores = s.cores)))
      -- nothing is written through the aperture of a cluster that is not tethered
      ∧ (∀ c o, r.aperture = some (c, o) → (s.clus c).tether = false → Answers (.registerWrite n) s fun u => u = { s with net := no })
      ∧ (∀ h t, r.isWmask = some (h, t) → Answers (.wmaskWrite n) s fun u =>
        u.net = ok ∧ (u.slice h).mask t = BitVec.ofNat 16 r.val ∧ (∀ j, j ≠ t → (u.slice h).mask j = (s.slice h).mask j)
          ∧ (∀ j, j ≠ h → u.slice j = s.slice j) ∧ u.cores = s.cores)
      ∧ (∀ h, r.isScfg = some h → (s.slice h).blocks = [] → (s.slice h).bypass = [] →
        ((s.slice h).lock = true → Answers (.scfgWrite n) s fun u => u = { s with net := ok })
        ∧ ((s.slice h).lock = false → (r.val % 4 ≠ 0 ∨ 16 < r.val % 32) → Answers (.scfgWrite n) s fun u => u = { s with net := ok })
        ∧ ((s.slice h).lock = false → (s.slice h).ways = [] → (r.val % 32 = 0 ∨ r.val % 32 = 4 ∨ r.val % 32 = 8 ∨ r.val % 32 = 12 ∨ r.val % 32 = 16) →
          Answers (.scfgWrite n) s fun u => u.net = ok ∧ (u.slice h).c = r.val % 32 ∧ (u.slice h).lock = wbit (word r.val) 8
            ∧ (∀ j, j ≠ h → u.slice j = s.slice j) ∧ u.cores = s.cores))
      ∧ (∀ p, r.isRoute = some p → ((kget s.io.route p).getD 0).getLsbD 15 = false → Answers (.routeWrite n) s fun u =>
        u.net = ok ∧ (kget u.io.route p).getD 0 = BitVec.ofNat 16 r.val &&& 0x800F#16
          ∧ (∀ j, j ≠ p → kget u.io.route j = kget s.io.route j) ∧ u.cores = s.cores)
      ∧ (r.isPkgid = true →
        (s.io.pkgWritten = true → Answers (.pkgidWrite n) s fun u => u = { s with net := no })
        ∧ (s.io.pkgWritten = false → Answers (.pkgidWrite n) s fun u =>
          u.net = ok ∧ u.io.pkgid = word (r.val % 65536) ∧ u.io.pkgWritten = true ∧ u.cores = s.cores))
      ∧ (∀ i, r.sliceReg = none → r.aperture = none → r.crectReg = some i → r.ioReg = none → wbit (word r.val) 32 = false → Answers (.registerWrite n) s fun u =>
        u.net = ok ∧ (kget u.crects i).getD 0 = word r.val &&& 0x01FFFFE1#64 ∧ u.cores = s.cores)
      ∧ (∀ o, r.sliceReg = none → r.aperture = none → r.crectReg = none → r.ioReg = some o → r.isRoute = none → r.isPkgid = false →
        (∀ d, s.io.write o r.n r.val = some d → Answers (.registerWrite n) s fun u => u = { s with net := ok, io := d })
        ∧ (s.io.write o r.n r.val = none → Answers (.registerWrite n) s fun u => u = { s with net := no }))
      ∧ (r.sliceReg = none → r.aperture = none → r.crectReg = none → r.ioReg = none →
        (r.window = none → Answers (.registerWrite n) s fun u => u = { s with net := no })
        ∧ (∀ t o, r.window = some (t, o) → o ≠ 0 → o ≠ 0x308 → (o < 0x100 ∨ 0x200 ≤ o) → Answers (.registerWrite n) s fun u =>
          u.net = ok ∧ (u.terr t).win = (s.terr t).win.write o r.val ∧ u.cores = s.cores
            ∧ (o = 8 → (u.terr t).win.root1 = word r.val) ∧ ∀ j, j ≠ t → u.terr j = s.terr j)))

/-! ### The outside world -/

/-- R317, R328, R338, R359, R366, R367, R368, R370, R371, R372, R377: a fabric frame at a port that is not in fabric mode is none; one that its receiver's TFAB admits goes on
to its core, another is refused; a frame with no acknowledgement in 1 ms faults its
operation. A frame on a port that is not in ingress mode is none; one that its mailbox cannot take is dropped and counted; an accepted one
fills its slots chunk by chunk, granule by granule, waiting where the data channel to the core waits; a written chunk is valid and fresh in one grant and counts in another, and
with the last one tail and the arrival count advance, and the record is posted. The operating system's writes go to the registers of the I/O die and the territory
windows; time goes forward by the ns that pass, slewed by at most 500 ppm; measurements go out
signed; link training sets the port's up bit; die reset leaves a core zeroed with context 0 halted and a slice as reset; a good supervisor image starts
context 0 at level S at its entry, a bad one is reported; a boot stage extends its register, the keys are loaded, the pool takes every cluster and PCFG its reset
value, each in its order; an error in a bank, a register or GDDR7 poisons what it strikes.
What in it is the model's reading and not the spec's words: log entries 10, 25, 51, 52, 63, 64 and 96. -/
def Obligations.OutsideSteps : Prop :=
  (∀ (s : State) (n p p' uid : Nat) (m : Msg) (f : Fab), s.arriving n = some m → m.src = .port p → m.dst = .port p' → m.fab = some f →
    m.body.uid? = some uid →
    (s.fabricMode p = false → Answers (.fabricFrameReceive n) s fun u => u = { s with net := s.net.eraseIdx n })
    ∧ ∀ t, s.fabricMode p = true → s.disabled.contains f.here = false → (s.stat f.here).killed = false → (s.stat f.here).fenced = false →
      isSup f.here = false → s.tagOf f.here = some t →
      let w := (s.terr t).win.tfab
      ((wbit w 16 = true ∧ bits w 0 16 = f.tag) → Answers (.fabricFrameReceive n) s fun u =>
        u = { s with net := s.net.eraseIdx n ++ [{ m with dst := .core f.here, terr := some t, sentAt := s.now }] })
      ∧ ((wbit w 16 = false ∨ bits w 0 16 ≠ f.tag) → Answers (.fabricFrameReceive n) s fun u => u = { s with net := s.replied m n (.nak m.sender uid 0x12) }))
  ∧ (∀ (s : State) (n q p uid : Nat) (m : Msg) (f : Fab), s.net[n]? = some m → m.src = .core q → m.dst = .port p → m.fab = some f → m.body.uid? = some uid →
      (m.sentAt + 700000 ≤ s.now → Answers (.fabricAckTimeout n) s fun u => Acked s u q uid (some 0x07) ∧ u.net = s.net.eraseIdx n)
      ∧ (s.now < m.sentAt + 700000 → Answers (.fabricAckTimeout n) s fun u => u = s))
  ∧ ∀ (s : State),
      (∀ p frame bad, p < 16 → bits (s.io.fpcfg.toList.getD p 0) 0 2 ≠ 2 → Answers (.ingressFrame p frame bad) s fun t => t = s)
      ∧ (∀ p frame bad, (h : p < 16) → 64 ≤ frame.length → bits s.io.fpcfg[p] 0 2 = 2 → s.works (bits s.io.fpcfg[p] 8 12) = false →
          Answers (.ingressFrame p frame bad) s fun t => t.cores = s.cores ∧ t.io.fseq[p] = s.io.fseq[p] + 1
            ∧ bits t.io.fpcnt[p] 32 32 = (bits s.io.fpcnt[p] 32 32 + 1) % 2 ^ 32 ∧ bits t.io.fpcnt[p] 0 32 = bits s.io.fpcnt[p] 0 32)
      ∧ (∀ p (frame : List Byte) bad, (h : p < 16) → 64 ≤ frame.length → bits s.io.fpcfg[p] 0 2 = 2 →
          let w := s.io.fpcfg[p]
          let k := bits w 8 12
          let a := bits w 20 20
          let d := (s.core k).mbox a
          let n := (frame.length + 175) / 176
          s.works k = true → s.tagOf k = some (bits w 40 8) → (s.core k).mboxAt a = true → (s.core k).poisoned a 64 = false →
          (s.core k).mboxMalformed d = false → d.edge = false → d.isOpen = true → n ≤ 64 → n ≤ d.slots →
          (∀ j < n, d.fresh ((d.tail + j) % d.slots) = false) →
          Answers (.ingressFrame p frame bad) s fun t =>
            t.io.fseq[p] = s.io.fseq[p] + 1 ∧ bits t.io.fpcnt[p] 0 32 = (bits s.io.fpcnt[p] 0 32 + 1) % 2 ^ 32
              ∧ bits t.io.fpcnt[p] 32 32 = bits s.io.fpcnt[p] 32 32 ∧ t.cores = s.cores
              ∧ t.io.inbound = s.io.inbound ++ [{
                  port := p, core := k, box := a, terr := bits w 40 8, slot := d.tail, chunks := n, next := 0, seq := s.io.fseq[p].toNat
                  time := (s.timeFor (bits w 40 8)).toNat, frame := frame, fcsBad := bad, draw := s.free, todo := [], stage := 0 }])
      ∧ (∀ p r i, s.power = true → s.turns = .chunk p :: r → s.io.inbound.find? (fun i => i.port == p) = some i →
          let k := i.core
          let c := s.core k
          let d := c.mbox i.box
          let sl := (i.slot + i.next) % d.slots
          -- the frame's next step leaves it so, or is its last
          let Goes (o : Option Inbound) (P : State → Prop) : Prop := ∃ t, step s = .next t ∧ P t ∧ t.io.inbound
            = match o with | some j => s.io.inbound.map (fun x => if x = i then j else x) | none => s.io.inbound.erase i
          (s.works k = false ∨ s.tagOf k ≠ some i.terr → Goes none fun t => t.cores = s.cores)
          ∧ (s.works k = true → s.tagOf k = some i.terr →
            (c.dataBlocked = true ∨ c.lands i.box = true → Goes (some i) fun t => t.cores = s.cores)
            ∧ (c.dataBlocked = false → c.lands i.box = false →
              (i.stage = 0 → i.todo = [] →
                let last := i.next + 1 == i.chunks
                let part := (i.frame.drop (176 * i.next)).take 176
                Goes (some { i with todo := cutAt64 (d.slotAt sl,
                    leBytes 4 i.seq ++ leBytes 2 i.frame.length ++ leBytes 1 i.next ++ leBytes 1 i.chunks
                      ++ leBytes 1 (p + 16 * ofBool last + 32 * ofBool (last && i.fcsBad)) ++ leBytes 3 0 ++ leBytes 4 i.box ++ part
                      ++ leBytes (176 - part.length) 0 ++ leBytes 4 0 ++ leBytes 4 (if last then (d.narr + 1) % 2 ^ 32 else 0) ++ leBytes 8 i.time) })
                  fun t => t.cores = s.cores)
              ∧ (∀ a bs rest, i.stage = 0 → i.todo = (a, bs) :: rest →
                  Goes (some { i with todo := rest, stage := if rest = [] then 1 else 0 }) fun t =>
                    (t.core k).lmem = mwrite c.lmem a (tdBytes a bs) ∧ ∀ j, j ≠ k → t.core j = s.core j)
              ∧ (i.stage = 1 → sl < 64 → d.edge = false → c.mboxAt i.box = true → Goes (some { i with stage := 2 }) fun t =>
                  let d' := (t.core k).mbox i.box
                  d'.valid sl = true ∧ d'.fresh sl = true ∧ d'.tail = d.tail ∧ d'.narr = d.narr
                    ∧ ∀ b, (b < i.box ∨ i.box + 64 ≤ b) → mget (t.core k).lmem b = mget c.lmem b)
              ∧ (i.stage = 2 → Goes (some (if i.next + 1 < i.chunks then { i with next := i.next + 1, stage := 0 } else { i with stage := 3 })) fun t =>
                  (d.bar = 0 → (t.core k).lmem = c.lmem) ∧ (d.bar ≠ 0 → (t.core k).lmem = (c.countAt (some d.bar) 208).lmem))
              ∧ (i.stage = 3 → d.edge = false → c.mboxAt i.box = true →
                  let posts := d.task ≠ 0xFFFF ∧ d.pend = false
                  Goes (if posts then some { i with stage := 4 } else none) fun t =>
                    let d' := (t.core k).mbox i.box
                    d'.tail = (i.slot + i.chunks) % d.slots % 64 ∧ d'.narr = (d.narr + 1) % 2 ^ 32
                      ∧ (d'.pend = true ↔ d.pend = true ∨ (posts ∧ (s.ingressRec i).2 = true)))
              ∧ (i.stage = 4 → (s.ingressRec i).2 = true → Goes none fun t =>
                  let o := s.postRecord (s.terrOf k) (s.ingressRec i).1 (some k)
                  t.terrs = o.1.terrs ∧ t.gmem = o.1.gmem ∧ (o.2 = 2 → (t.core k).rx.postings = c.rx.postings ++ [(i.box, (s.ingressRec i).1)])))))
      ∧ (∀ pa v m r, s.power = true → s.turns = .os pa m v :: r → ∃ t, step s = .next t ∧ t.cores = s.cores ∧ t.gmem = s.gmem ∧ t.io = s.io
          ∧ ((windowOf pa).isSome = true ∨ (0x8004000000 ≤ pa ∧ pa < 0x8100000000) → ∃ x, t.net.getLast? = some x ∧ x.src = .io ∧ x.dst = .io ∧ x.terr = none
              ∧ x.body = .regWrite 0 0 s.uid .s 0 pa m v)
          ∧ (windowOf pa = none → (pa < 0x8004000000 ∨ 0x8100000000 ≤ pa) → t.net = s.net))
      ∧ (∀ e d, Answers (.timeDiscipline e d) s fun t =>
          { t with io := { t.io with tbase := s.io.tbase } } = s ∧ s.io.tbase + e - e * 500 / 1000000 ≤ t.io.tbase
            ∧ t.io.tbase ≤ s.io.tbase + e + e * 500 / 1000000
            ∧ (d.natAbs ≤ e * 500 / 1000000 → (t.io.tbase : Int) = s.io.tbase + e + d))
      ∧ (Answers (.spdmGetMeasurements none) s fun t =>
          t = { s with io := { s.io with spdm := s.io.spdm ++ [(none, s.io.meas.toList, Config.signature s.io.meas.toList)] } })
      ∧ (∀ p b, (h : p < 16) → Answers (.fabricLinkTraining p b) s fun t =>
          t.io.fpcfg[p].getLsbD 2 = b ∧ (∀ i, i ≠ 2 → t.io.fpcfg[p].getLsbD i = s.io.fpcfg[p].getLsbD i)
            ∧ (∀ q, (g : q < 16) → q ≠ p → t.io.fpcfg[q] = s.io.fpcfg[q]) ∧ { t with io := s.io } = s)
      ∧ (∀ d < 4, Answers (.dieReset d) s fun t => ∀ k < 4096, dieOf k = d → (t.core k) = Core.reset k ∧ (t.stat k).fenced = false
            ∧ (t.stat k).killed = false ∧ (t.clus (clusOf k)) = Cluster.reset ∧ t.slice (64 * d + k % 64) = CacheSlice.reset)
      ∧ (∀ (d : Nat) (img : SupervisorImage), d < 4 → 2 ≤ s.io.bring → (s.core (supOf d)).live 0 = false →
          (img.entry % 4 = 0 ∧ img.entry < 0x8000 → Answers (.supervisorImagePlace d img) s fun t =>
            OnlyCore { s with stats := t.stats } t (supOf d) ∧ (t.core (supOf d)).live 0 = true ∧ (t.ctx (supOf d) 0).pc = img.entry
              ∧ (t.ctx (supOf d) 0).level = .s ∧ (t.ctx (supOf d) 0).run = .running)
          ∧ (img.entry % 4 ≠ 0 ∨ 0x8000 ≤ img.entry → Answers (.supervisorImagePlace d img) s fun t =>
            d ∈ t.io.bootErrors ∧ t.cores = s.cores))
      ∧ (∀ k g, (h : k < 16) →
          (s.io.bring ≤ 1 → Answers (.moduleBringup (.measured k g)) s fun t =>
            t.io.meas[k] = Config.sha384 (leBytes 48 s.io.meas[k].toNat ++ leBytes 48 g.toNat) ∧ { t with io := s.io } = s)
          ∧ (1 < s.io.bring → Answers (.moduleBringup (.measured k g)) s fun t => t = s))
      ∧ (s.io.bring = 1 → Answers (.moduleBringup .keys) s fun t => t = { s with io := { s.io with keysLoaded := true, bring := 2 } })
      ∧ (s.io.bring ≠ 1 → Answers (.moduleBringup .keys) s fun t => t = s)
      ∧ (s.io.bring = 2 → s.diesUp = true → Answers (.moduleBringup .pool) s fun t =>
          t.pcfg = 0x0000_0640_320A_0040#64 ∧ (∀ j, (t.clus j).owner = some 0) ∧ t.cores = s.cores)
      ∧ (s.io.bring ≠ 2 ∨ s.diesUp = false → Answers (.moduleBringup .pool) s fun t => t = s)
      ∧ (∀ k a, a < 0x60000 → s.disabled.contains k = false → Answers (.softError (.coreWord k a)) s fun t =>
          a / 8 ∈ (t.core k).weak ∧ (t.core k).lmem = (s.core k).lmem ∧ (t.core k).lbad = (s.core k).lbad)
      ∧ (∀ k x p, (s.core k).live x = true → p < (s.ctx k x).qs.length → p < 8 → Answers (.softError (.qs k x p)) s fun t =>
          (t.ctx k x).qsBad.getLsbD p = true ∧ (t.ctx k x).qs = (s.ctx k x).qs)
      ∧ (∀ k a, a < 0x60000 → Answers (.softError (.bank k a)) s fun t => (t.core k).poisoned a 1 = true ∧ (t.core k).lmem = (s.core k).lmem)
      ∧ (∀ k x (r : Reg), r ≠ 0 → (s.core k).live x = true → Answers (.softError (.reg k x r)) s fun t =>
          (t.ctx k x).isBad r = true ∧ ∀ j, (t.ctx k x).reg j = (s.ctx k x).reg j)
      ∧ ∀ pa, isGddr pa = true → Answers (.softError (.data pa)) s fun t => pa / 8 ∈ t.gbad ∧ t.gmem = s.gmem


/-! ### The machine as a whole -/

/-- R33, R126, R127, R147, R328: a step runs the decoded instruction. When it is core `k`'s turn, and no context before `x` in the order of the cc can be offered the slot, and `x`
runs in local mode, then the word at its PC, as the store holds it or as it was fetched ahead, decoded, is what the step executes, one cc later and with `x` as the
executing context. If the word waits and has done nothing, the slot passes to the contexts after `x`. A turn that names a step beside the words executes that; without
power the step stops.
What in it is the model's reading and not the spec's words: log entries 1, 29 and 72. -/
def Obligations.StepRunsDecoded : Prop :=
  ∀ (s : State),
    (s.power = true →
      (∀ k x r h i w pre post, ((s.turns = [] ∧ r = [] ∧ k = s.cur.1) ∨ s.turns = .core k :: r) →
        (s.stat k).fenced = false → (s.stat k).killed = false → s.disabled.contains k = false →
        (∀ e ∈ (s.core k).ctxs, e.2.task.any (·.diverged) = false) →
        let s1 : State := { s with turns := r, now := s.now + 1 }
        (s.core k).order (s1.cyc k) = pre ++ x :: post → (∀ y ∈ pre, (s.core k).offered y = false) →
        kget (s.core k).ctxs x = some h → h.run = .running → h.halting = false → h.mode = .loc → h.rep = none → h.yld = false →
        h.failedLoad = none → h.task.bind (·.pair) = none → h.pc < 0x8000 →
        (kget h.ahead h.pc = some (w, false)
          ∨ (kget h.ahead h.pc = none ∧ (s.core k).ibad.contains (h.pc / 4) = false ∧ w = BitVec.ofNat 32 (mnat (s.core k).istore h.pc 4))) →
        decode w = some i →
        (∀ t, exec i (s1.at k x) = .next t → s1.passed t k x = false → step s = .next t)
        ∧ ∀ t, exec i (s1.at k x) = .next t → s1.passed t k x = true → step s = State.offer (t.setCore k { t.core k with rot := (s.core k).rot }) k post)
      ∧ (∀ i r, s.turns = .event i :: r → encodeNat i = none → step s = exec i { s with turns := r })
      ∧ (∀ k x r w, s.turns = .ahead k x :: r → s.works k = true → (s.core k).live x = true → (s.ctx k x).mode = .loc → (s.ctx k x).going = true →
          (s.ctx k x).ahead = [] → (s.ctx k x).pc < 0x8000 → w = BitVec.ofNat 32 (mnat (s.core k).istore (s.ctx k x).pc 4) →
          ∃ t, step s = .next t ∧ (t.ctx k x).ahead = [((s.ctx k x).pc, w, (s.core k).ibad.contains ((s.ctx k x).pc / 4))] ∧ OnlyCore { s with turns := r } t k)
      ∧ (∀ n r, s.turns = .wait n :: r → step s = .next { s with turns := r, now := s.now + n })
      ∧ (∀ p vc f b r, s.turns = .wire p vc f b :: r → step s = .next (State.fromWire { s with turns := r } p vc f b))
      ∧ (∀ t i r, s.turns = .record t i :: r → step s = .next (State.startChosen { s with turns := r } t i))
      ∧ (∀ h b r, s.turns = .bypass h b :: r → step s = .next (State.bypassGo { s with turns := r } h b))
      ∧ (∀ k e x g w r, s.turns = .grant k e x g w :: r → step s = .next (State.grantNext { s with turns := r } k e x g w))
      ∧ (∀ p r, s.turns = .chunk p :: r → step s = .next (State.nextChunk { s with turns := r } p))
      ∧ ∀ pa m v r, s.turns = .os pa m v :: r → step s = .next (State.osWrite { s with turns := r } pa m v))
    ∧ (s.power = false → step s = .fault .powerRemoved)

/-- R33, R48, R53: words of the spec's encoding tables decode to the instructions they stand for, and words that the tables leave out decode to none. -/
def Obligations.DecodeWords : Prop :=
  decode 0x00000000#32 = some (.add 0 0 0 false)
  ∧ decode 0x00811383#32 = some (.madd 4 1 2 false 3)
  ∧ decode 0x06415005#32 = some (.shri 18 1 5)
  ∧ decode 0x04A0BDEF#32 = some (.ldi 5 0xDEF)
  ∧ decode 0x08E7FFFB#32 = some (.bnez 7 (-5))
  ∧ decode 0xC2789ABC#32 = some (.himm 0x2789ABC)
  ∧ decode 0x64810040#32 = some (.barwait 4 1 false)
  ∧ decode 0x6C432203#32 = some (.rpost 2 3 4 2 0)
  ∧ decode 0x78620608#32 = some (.hstart 3 2 6 1)
  ∧ decode 0x1CA01000#32 = some (.rpbstop 5)
  ∧ decode 0x90852001#32 = some (.pressNb 4 5)
  ∧ decode 0xFFFFFFFF#32 = none ∧ decode 0x98000000#32 = none ∧ decode 0x00811003#32 = none ∧ decode 0x008113A3#32 = none

/-- R228, R276, R328, R342, R359, R372: right after reset every cluster lies in territory 0 with an empty bucket and nothing to refill it, PCFG holds 0x0000_0640_320A_0040, no territory, move or message
is under way, no byte of global memory is listed (each reads 0, the model's choice), and an enabled core that is not its die's supervisor has context 0 alone live, halted in local mode at level T with PC, TVEC, HBTIV and STASHCFG 0.
What in it is the model's reading and not the spec's words: log entries 5, 6 and 7. -/
def Obligations.ResetFacts : Prop :=
  let s := State.reset
  s.pcfg = 0x0000_0640_320A_0040#64 ∧ s.net = [] ∧ s.gmem = []
  ∧ (∀ c, (s.clus c).owner = some 0 ∧ (s.clus c).bucket = 0 ∧ (s.clus c).allow = 0 ∧ (s.clus c).move = none)
  ∧ ∀ k, isSup k = false →
      (s.core k).lmem = [] ∧ (s.core k).istore = [] ∧ (∀ x, x ≠ 0 → kget (s.core k).ctxs x = none)
        ∧ ∃ h, kget (s.core k).ctxs 0 = some h ∧ h.run = .stopped .halted ∧ h.mode = .loc ∧ h.level = .t ∧ h.pc = 0 ∧ h.spr.tvec = 0
          ∧ h.spr.hbtiv = 0 ∧ (s.core k).spr.stash = 0

/-- The model's own form of memory (log entry 5): right after reset every memory is canonical, so that equal memories are equal data. -/
def Obligations.ResetMemoriesCanonical : Prop := State.reset.memOk

/-- The model's own form of memory (log entry 5): whatever a step does, every memory that was canonical stays so: global memory, and the local memory and the instruction
store of every core. -/
def Obligations.StepKeepsMemories : Prop := ∀ s t : State, s.memOk → step s = .next t → t.memOk

/-- R33, R48, R53: for every well-formed instruction that has a word, decoding its word gives it back, with every operand at every value that the encoding admits. -/
def Obligations.EncodeDecodeRoundTrip : Prop :=
  ∀ (i : Instr) (w : BitVec 32), i.wf = true → (∀ v, i ≠ .illegalWord v) → encode i = some w → decode w = some i
end

