-- ==== Sys2Proof/Laws/State.lean ====
section
/-! SUPPORT. One lemma per field and update of the state, a core and a context: what the update leaves alone. -/

namespace Sys2Proof.Machine

@[simp] theorem State.setCore_turns (s : State) (k : Nat) (v : Core) : (s.setCore k v).turns = s.turns := rfl
@[simp] theorem State.setCore_cur (s : State) (k : Nat) (v : Core) : (s.setCore k v).cur = s.cur := rfl
@[simp] theorem State.setCore_now (s : State) (k : Nat) (v : Core) : (s.setCore k v).now = s.now := rfl
@[simp] theorem State.setCore_stats (s : State) (k : Nat) (v : Core) : (s.setCore k v).stats = s.stats := rfl
@[simp] theorem State.setCore_clusters (s : State) (k : Nat) (v : Core) : (s.setCore k v).clusters = s.clusters := rfl
@[simp] theorem State.setCore_slices (s : State) (k : Nat) (v : Core) : (s.setCore k v).slices = s.slices := rfl
@[simp] theorem State.setCore_terrs (s : State) (k : Nat) (v : Core) : (s.setCore k v).terrs = s.terrs := rfl
@[simp] theorem State.setCore_gmem (s : State) (k : Nat) (v : Core) : (s.setCore k v).gmem = s.gmem := rfl
@[simp] theorem State.setCore_gbad (s : State) (k : Nat) (v : Core) : (s.setCore k v).gbad = s.gbad := rfl
@[simp] theorem State.setCore_gkeys (s : State) (k : Nat) (v : Core) : (s.setCore k v).gkeys = s.gkeys := rfl
@[simp] theorem State.setCore_net (s : State) (k : Nat) (v : Core) : (s.setCore k v).net = s.net := rfl
@[simp] theorem State.setCore_heldUpcalls (s : State) (k : Nat) (v : Core) : (s.setCore k v).heldUpcalls = s.heldUpcalls := rfl
@[simp] theorem State.setCore_io (s : State) (k : Nat) (v : Core) : (s.setCore k v).io = s.io := rfl
@[simp] theorem State.setCore_pcfg (s : State) (k : Nat) (v : Core) : (s.setCore k v).pcfg = s.pcfg := rfl
@[simp] theorem State.setCore_crects (s : State) (k : Nat) (v : Core) : (s.setCore k v).crects = s.crects := rfl
@[simp] theorem State.setCore_suproots (s : State) (k : Nat) (v : Core) : (s.setCore k v).suproots = s.suproots := rfl
@[simp] theorem State.setCore_disabled (s : State) (k : Nat) (v : Core) : (s.setCore k v).disabled = s.disabled := rfl
@[simp] theorem State.setCore_power (s : State) (k : Nat) (v : Core) : (s.setCore k v).power = s.power := rfl
@[simp] theorem State.setCore_uid (s : State) (k : Nat) (v : Core) : (s.setCore k v).uid = s.uid := rfl
@[simp] theorem State.setCore_free (s : State) (k : Nat) (v : Core) : (s.setCore k v).free = s.free := rfl
@[simp] theorem State.setStat_turns (s : State) (k : Nat) (v : CoreStat) : (s.setStat k v).turns = s.turns := rfl
@[simp] theorem State.setStat_cur (s : State) (k : Nat) (v : CoreStat) : (s.setStat k v).cur = s.cur := rfl
@[simp] theorem State.setStat_now (s : State) (k : Nat) (v : CoreStat) : (s.setStat k v).now = s.now := rfl
@[simp] theorem State.setStat_cores (s : State) (k : Nat) (v : CoreStat) : (s.setStat k v).cores = s.cores := rfl
@[simp] theorem State.setStat_clusters (s : State) (k : Nat) (v : CoreStat) : (s.setStat k v).clusters = s.clusters := rfl
@[simp] theorem State.setStat_slices (s : State) (k : Nat) (v : CoreStat) : (s.setStat k v).slices = s.slices := rfl
@[simp] theorem State.setStat_terrs (s : State) (k : Nat) (v : CoreStat) : (s.setStat k v).terrs = s.terrs := rfl
@[simp] theorem State.setStat_gmem (s : State) (k : Nat) (v : CoreStat) : (s.setStat k v).gmem = s.gmem := rfl
@[simp] theorem State.setStat_gbad (s : State) (k : Nat) (v : CoreStat) : (s.setStat k v).gbad = s.gbad := rfl
@[simp] theorem State.setStat_gkeys (s : State) (k : Nat) (v : CoreStat) : (s.setStat k v).gkeys = s.gkeys := rfl
@[simp] theorem State.setStat_net (s : State) (k : Nat) (v : CoreStat) : (s.setStat k v).net = s.net := rfl
@[simp] theorem State.setStat_heldUpcalls (s : State) (k : Nat) (v : CoreStat) : (s.setStat k v).heldUpcalls = s.heldUpcalls := rfl
@[simp] theorem State.setStat_io (s : State) (k : Nat) (v : CoreStat) : (s.setStat k v).io = s.io := rfl
@[simp] theorem State.setStat_pcfg (s : State) (k : Nat) (v : CoreStat) : (s.setStat k v).pcfg = s.pcfg := rfl
@[simp] theorem State.setStat_crects (s : State) (k : Nat) (v : CoreStat) : (s.setStat k v).crects = s.crects := rfl
@[simp] theorem State.setStat_suproots (s : State) (k : Nat) (v : CoreStat) : (s.setStat k v).suproots = s.suproots := rfl
@[simp] theorem State.setStat_disabled (s : State) (k : Nat) (v : CoreStat) : (s.setStat k v).disabled = s.disabled := rfl
@[simp] theorem State.setStat_power (s : State) (k : Nat) (v : CoreStat) : (s.setStat k v).power = s.power := rfl
@[simp] theorem State.setStat_uid (s : State) (k : Nat) (v : CoreStat) : (s.setStat k v).uid = s.uid := rfl
@[simp] theorem State.setStat_free (s : State) (k : Nat) (v : CoreStat) : (s.setStat k v).free = s.free := rfl
@[simp] theorem State.setClus_turns (s : State) (k : Nat) (v : Cluster) : (s.setClus k v).turns = s.turns := rfl
@[simp] theorem State.setClus_cur (s : State) (k : Nat) (v : Cluster) : (s.setClus k v).cur = s.cur := rfl
@[simp] theorem State.setClus_now (s : State) (k : Nat) (v : Cluster) : (s.setClus k v).now = s.now := rfl
@[simp] theorem State.setClus_cores (s : State) (k : Nat) (v : Cluster) : (s.setClus k v).cores = s.cores := rfl
@[simp] theorem State.setClus_stats (s : State) (k : Nat) (v : Cluster) : (s.setClus k v).stats = s.stats := rfl
@[simp] theorem State.setClus_slices (s : State) (k : Nat) (v : Cluster) : (s.setClus k v).slices = s.slices := rfl
@[simp] theorem State.setClus_terrs (s : State) (k : Nat) (v : Cluster) : (s.setClus k v).terrs = s.terrs := rfl
@[simp] theorem State.setClus_gmem (s : State) (k : Nat) (v : Cluster) : (s.setClus k v).gmem = s.gmem := rfl
@[simp] theorem State.setClus_gbad (s : State) (k : Nat) (v : Cluster) : (s.setClus k v).gbad = s.gbad := rfl
@[simp] theorem State.setClus_gkeys (s : State) (k : Nat) (v : Cluster) : (s.setClus k v).gkeys = s.gkeys := rfl
@[simp] theorem State.setClus_net (s : State) (k : Nat) (v : Cluster) : (s.setClus k v).net = s.net := rfl
@[simp] theorem State.setClus_heldUpcalls (s : State) (k : Nat) (v : Cluster) : (s.setClus k v).heldUpcalls = s.heldUpcalls := rfl
@[simp] theorem State.setClus_io (s : State) (k : Nat) (v : Cluster) : (s.setClus k v).io = s.io := rfl
@[simp] theorem State.setClus_pcfg (s : State) (k : Nat) (v : Cluster) : (s.setClus k v).pcfg = s.pcfg := rfl
@[simp] theorem State.setClus_crects (s : State) (k : Nat) (v : Cluster) : (s.setClus k v).crects = s.crects := rfl
@[simp] theorem State.setClus_suproots (s : State) (k : Nat) (v : Cluster) : (s.setClus k v).suproots = s.suproots := rfl
@[simp] theorem State.setClus_disabled (s : State) (k : Nat) (v : Cluster) : (s.setClus k v).disabled = s.disabled := rfl
@[simp] theorem State.setClus_power (s : State) (k : Nat) (v : Cluster) : (s.setClus k v).power = s.power := rfl
@[simp] theorem State.setClus_uid (s : State) (k : Nat) (v : Cluster) : (s.setClus k v).uid = s.uid := rfl
@[simp] theorem State.setClus_free (s : State) (k : Nat) (v : Cluster) : (s.setClus k v).free = s.free := rfl
@[simp] theorem State.setSlice_turns (s : State) (k : Nat) (v : CacheSlice) : (s.setSlice k v).turns = s.turns := rfl
@[simp] theorem State.setSlice_cur (s : State) (k : Nat) (v : CacheSlice) : (s.setSlice k v).cur = s.cur := rfl
@[simp] theorem State.setSlice_now (s : State) (k : Nat) (v : CacheSlice) : (s.setSlice k v).now = s.now := rfl
@[simp] theorem State.setSlice_cores (s : State) (k : Nat) (v : CacheSlice) : (s.setSlice k v).cores = s.cores := rfl
@[simp] theorem State.setSlice_stats (s : State) (k : Nat) (v : CacheSlice) : (s.setSlice k v).stats = s.stats := rfl
@[simp] theorem State.setSlice_clusters (s : State) (k : Nat) (v : CacheSlice) : (s.setSlice k v).clusters = s.clusters := rfl
@[simp] theorem State.setSlice_terrs (s : State) (k : Nat) (v : CacheSlice) : (s.setSlice k v).terrs = s.terrs := rfl
@[simp] theorem State.setSlice_gmem (s : State) (k : Nat) (v : CacheSlice) : (s.setSlice k v).gmem = s.gmem := rfl
@[simp] theorem State.setSlice_gbad (s : State) (k : Nat) (v : CacheSlice) : (s.setSlice k v).gbad = s.gbad := rfl
@[simp] theorem State.setSlice_gkeys (s : State) (k : Nat) (v : CacheSlice) : (s.setSlice k v).gkeys = s.gkeys := rfl
@[simp] theorem State.setSlice_net (s : State) (k : Nat) (v : CacheSlice) : (s.setSlice k v).net = s.net := rfl
@[simp] theorem State.setSlice_heldUpcalls (s : State) (k : Nat) (v : CacheSlice) : (s.setSlice k v).heldUpcalls = s.heldUpcalls := rfl
@[simp] theorem State.setSlice_io (s : State) (k : Nat) (v : CacheSlice) : (s.setSlice k v).io = s.io := rfl
@[simp] theorem State.setSlice_pcfg (s : State) (k : Nat) (v : CacheSlice) : (s.setSlice k v).pcfg = s.pcfg := rfl
@[simp] theorem State.setSlice_crects (s : State) (k : Nat) (v : CacheSlice) : (s.setSlice k v).crects = s.crects := rfl
@[simp] theorem State.setSlice_suproots (s : State) (k : Nat) (v : CacheSlice) : (s.setSlice k v).suproots = s.suproots := rfl
@[simp] theorem State.setSlice_disabled (s : State) (k : Nat) (v : CacheSlice) : (s.setSlice k v).disabled = s.disabled := rfl
@[simp] theorem State.setSlice_power (s : State) (k : Nat) (v : CacheSlice) : (s.setSlice k v).power = s.power := rfl
@[simp] theorem State.setSlice_uid (s : State) (k : Nat) (v : CacheSlice) : (s.setSlice k v).uid = s.uid := rfl
@[simp] theorem State.setSlice_free (s : State) (k : Nat) (v : CacheSlice) : (s.setSlice k v).free = s.free := rfl
@[simp] theorem State.setTerr_turns (s : State) (k : Nat) (v : Terr) : (s.setTerr k v).turns = s.turns := rfl
@[simp] theorem State.setTerr_cur (s : State) (k : Nat) (v : Terr) : (s.setTerr k v).cur = s.cur := rfl
@[simp] theorem State.setTerr_now (s : State) (k : Nat) (v : Terr) : (s.setTerr k v).now = s.now := rfl
@[simp] theorem State.setTerr_cores (s : State) (k : Nat) (v : Terr) : (s.setTerr k v).cores = s.cores := rfl
@[simp] theorem State.setTerr_stats (s : State) (k : Nat) (v : Terr) : (s.setTerr k v).stats = s.stats := rfl
@[simp] theorem State.setTerr_clusters (s : State) (k : Nat) (v : Terr) : (s.setTerr k v).clusters = s.clusters := rfl
@[simp] theorem State.setTerr_slices (s : State) (k : Nat) (v : Terr) : (s.setTerr k v).slices = s.slices := rfl
@[simp] theorem State.setTerr_gmem (s : State) (k : Nat) (v : Terr) : (s.setTerr k v).gmem = s.gmem := rfl
@[simp] theorem State.setTerr_gbad (s : State) (k : Nat) (v : Terr) : (s.setTerr k v).gbad = s.gbad := rfl
@[simp] theorem State.setTerr_gkeys (s : State) (k : Nat) (v : Terr) : (s.setTerr k v).gkeys = s.gkeys := rfl
@[simp] theorem State.setTerr_net (s : State) (k : Nat) (v : Terr) : (s.setTerr k v).net = s.net := rfl
@[simp] theorem State.setTerr_heldUpcalls (s : State) (k : Nat) (v : Terr) : (s.setTerr k v).heldUpcalls = s.heldUpcalls := rfl
@[simp] theorem State.setTerr_io (s : State) (k : Nat) (v : Terr) : (s.setTerr k v).io = s.io := rfl
@[simp] theorem State.setTerr_pcfg (s : State) (k : Nat) (v : Terr) : (s.setTerr k v).pcfg = s.pcfg := rfl
@[simp] theorem State.setTerr_crects (s : State) (k : Nat) (v : Terr) : (s.setTerr k v).crects = s.crects := rfl
@[simp] theorem State.setTerr_suproots (s : State) (k : Nat) (v : Terr) : (s.setTerr k v).suproots = s.suproots := rfl
@[simp] theorem State.setTerr_disabled (s : State) (k : Nat) (v : Terr) : (s.setTerr k v).disabled = s.disabled := rfl
@[simp] theorem State.setTerr_power (s : State) (k : Nat) (v : Terr) : (s.setTerr k v).power = s.power := rfl
@[simp] theorem State.setTerr_uid (s : State) (k : Nat) (v : Terr) : (s.setTerr k v).uid = s.uid := rfl
@[simp] theorem State.setTerr_free (s : State) (k : Nat) (v : Terr) : (s.setTerr k v).free = s.free := rfl
@[simp] theorem State.setCtx_turns (s : State) (k x : Nat) (v : Ctx) : (s.setCtx k x v).turns = s.turns := rfl
@[simp] theorem State.setCtx_cur (s : State) (k x : Nat) (v : Ctx) : (s.setCtx k x v).cur = s.cur := rfl
@[simp] theorem State.setCtx_now (s : State) (k x : Nat) (v : Ctx) : (s.setCtx k x v).now = s.now := rfl
@[simp] theorem State.setCtx_stats (s : State) (k x : Nat) (v : Ctx) : (s.setCtx k x v).stats = s.stats := rfl
@[simp] theorem State.setCtx_clusters (s : State) (k x : Nat) (v : Ctx) : (s.setCtx k x v).clusters = s.clusters := rfl
@[simp] theorem State.setCtx_slices (s : State) (k x : Nat) (v : Ctx) : (s.setCtx k x v).slices = s.slices := rfl
@[simp] theorem State.setCtx_terrs (s : State) (k x : Nat) (v : Ctx) : (s.setCtx k x v).terrs = s.terrs := rfl
@[simp] theorem State.setCtx_gmem (s : State) (k x : Nat) (v : Ctx) : (s.setCtx k x v).gmem = s.gmem := rfl
@[simp] theorem State.setCtx_gbad (s : State) (k x : Nat) (v : Ctx) : (s.setCtx k x v).gbad = s.gbad := rfl
@[simp] theorem State.setCtx_gkeys (s : State) (k x : Nat) (v : Ctx) : (s.setCtx k x v).gkeys = s.gkeys := rfl
@[simp] theorem State.setCtx_net (s : State) (k x : Nat) (v : Ctx) : (s.setCtx k x v).net = s.net := rfl
@[simp] theorem State.setCtx_heldUpcalls (s : State) (k x : Nat) (v : Ctx) : (s.setCtx k x v).heldUpcalls = s.heldUpcalls := rfl
@[simp] theorem State.setCtx_io (s : State) (k x : Nat) (v : Ctx) : (s.setCtx k x v).io = s.io := rfl
@[simp] theorem State.setCtx_pcfg (s : State) (k x : Nat) (v : Ctx) : (s.setCtx k x v).pcfg = s.pcfg := rfl
@[simp] theorem State.setCtx_crects (s : State) (k x : Nat) (v : Ctx) : (s.setCtx k x v).crects = s.crects := rfl
@[simp] theorem State.setCtx_suproots (s : State) (k x : Nat) (v : Ctx) : (s.setCtx k x v).suproots = s.suproots := rfl
@[simp] theorem State.setCtx_disabled (s : State) (k x : Nat) (v : Ctx) : (s.setCtx k x v).disabled = s.disabled := rfl
@[simp] theorem State.setCtx_power (s : State) (k x : Nat) (v : Ctx) : (s.setCtx k x v).power = s.power := rfl
@[simp] theorem State.setCtx_uid (s : State) (k x : Nat) (v : Ctx) : (s.setCtx k x v).uid = s.uid := rfl
@[simp] theorem State.setCtx_free (s : State) (k x : Nat) (v : Ctx) : (s.setCtx k x v).free = s.free := rfl
@[simp] theorem State.setMe_turns (s : State) (v : Core) : (s.setMe v).turns = s.turns := rfl
@[simp] theorem State.setMe_cur (s : State) (v : Core) : (s.setMe v).cur = s.cur := rfl
@[simp] theorem State.setMe_now (s : State) (v : Core) : (s.setMe v).now = s.now := rfl
@[simp] theorem State.setMe_stats (s : State) (v : Core) : (s.setMe v).stats = s.stats := rfl
@[simp] theorem State.setMe_clusters (s : State) (v : Core) : (s.setMe v).clusters = s.clusters := rfl
@[simp] theorem State.setMe_slices (s : State) (v : Core) : (s.setMe v).slices = s.slices := rfl
@[simp] theorem State.setMe_terrs (s : State) (v : Core) : (s.setMe v).terrs = s.terrs := rfl
@[simp] theorem State.setMe_gmem (s : State) (v : Core) : (s.setMe v).gmem = s.gmem := rfl
@[simp] theorem State.setMe_gbad (s : State) (v : Core) : (s.setMe v).gbad = s.gbad := rfl
@[simp] theorem State.setMe_gkeys (s : State) (v : Core) : (s.setMe v).gkeys = s.gkeys := rfl
@[simp] theorem State.setMe_net (s : State) (v : Core) : (s.setMe v).net = s.net := rfl
@[simp] theorem State.setMe_heldUpcalls (s : State) (v : Core) : (s.setMe v).heldUpcalls = s.heldUpcalls := rfl
@[simp] theorem State.setMe_io (s : State) (v : Core) : (s.setMe v).io = s.io := rfl
@[simp] theorem State.setMe_pcfg (s : State) (v : Core) : (s.setMe v).pcfg = s.pcfg := rfl
@[simp] theorem State.setMe_crects (s : State) (v : Core) : (s.setMe v).crects = s.crects := rfl
@[simp] theorem State.setMe_suproots (s : State) (v : Core) : (s.setMe v).suproots = s.suproots := rfl
@[simp] theorem State.setMe_disabled (s : State) (v : Core) : (s.setMe v).disabled = s.disabled := rfl
@[simp] theorem State.setMe_power (s : State) (v : Core) : (s.setMe v).power = s.power := rfl
@[simp] theorem State.setMe_uid (s : State) (v : Core) : (s.setMe v).uid = s.uid := rfl
@[simp] theorem State.setMe_free (s : State) (v : Core) : (s.setMe v).free = s.free := rfl
@[simp] theorem State.setCx_turns (s : State) (v : Ctx) : (s.setCx v).turns = s.turns := rfl
@[simp] theorem State.setCx_cur (s : State) (v : Ctx) : (s.setCx v).cur = s.cur := rfl
@[simp] theorem State.setCx_now (s : State) (v : Ctx) : (s.setCx v).now = s.now := rfl
@[simp] theorem State.setCx_stats (s : State) (v : Ctx) : (s.setCx v).stats = s.stats := rfl
@[simp] theorem State.setCx_clusters (s : State) (v : Ctx) : (s.setCx v).clusters = s.clusters := rfl
@[simp] theorem State.setCx_slices (s : State) (v : Ctx) : (s.setCx v).slices = s.slices := rfl
@[simp] theorem State.setCx_terrs (s : State) (v : Ctx) : (s.setCx v).terrs = s.terrs := rfl
@[simp] theorem State.setCx_gmem (s : State) (v : Ctx) : (s.setCx v).gmem = s.gmem := rfl
@[simp] theorem State.setCx_gbad (s : State) (v : Ctx) : (s.setCx v).gbad = s.gbad := rfl
@[simp] theorem State.setCx_gkeys (s : State) (v : Ctx) : (s.setCx v).gkeys = s.gkeys := rfl
@[simp] theorem State.setCx_net (s : State) (v : Ctx) : (s.setCx v).net = s.net := rfl
@[simp] theorem State.setCx_heldUpcalls (s : State) (v : Ctx) : (s.setCx v).heldUpcalls = s.heldUpcalls := rfl
@[simp] theorem State.setCx_io (s : State) (v : Ctx) : (s.setCx v).io = s.io := rfl
@[simp] theorem State.setCx_pcfg (s : State) (v : Ctx) : (s.setCx v).pcfg = s.pcfg := rfl
@[simp] theorem State.setCx_crects (s : State) (v : Ctx) : (s.setCx v).crects = s.crects := rfl
@[simp] theorem State.setCx_suproots (s : State) (v : Ctx) : (s.setCx v).suproots = s.suproots := rfl
@[simp] theorem State.setCx_disabled (s : State) (v : Ctx) : (s.setCx v).disabled = s.disabled := rfl
@[simp] theorem State.setCx_power (s : State) (v : Ctx) : (s.setCx v).power = s.power := rfl
@[simp] theorem State.setCx_uid (s : State) (v : Ctx) : (s.setCx v).uid = s.uid := rfl
@[simp] theorem State.setCx_free (s : State) (v : Ctx) : (s.setCx v).free = s.free := rfl
@[simp] theorem State.bump_turns (s : State) : (s.bump).turns = s.turns := rfl
@[simp] theorem State.bump_cur (s : State) : (s.bump).cur = s.cur := rfl
@[simp] theorem State.bump_now (s : State) : (s.bump).now = s.now := rfl
@[simp] theorem State.bump_cores (s : State) : (s.bump).cores = s.cores := rfl
@[simp] theorem State.bump_stats (s : State) : (s.bump).stats = s.stats := rfl
@[simp] theorem State.bump_clusters (s : State) : (s.bump).clusters = s.clusters := rfl
@[simp] theorem State.bump_slices (s : State) : (s.bump).slices = s.slices := rfl
@[simp] theorem State.bump_terrs (s : State) : (s.bump).terrs = s.terrs := rfl
@[simp] theorem State.bump_gmem (s : State) : (s.bump).gmem = s.gmem := rfl
@[simp] theorem State.bump_gbad (s : State) : (s.bump).gbad = s.gbad := rfl
@[simp] theorem State.bump_gkeys (s : State) : (s.bump).gkeys = s.gkeys := rfl
@[simp] theorem State.bump_net (s : State) : (s.bump).net = s.net := rfl
@[simp] theorem State.bump_heldUpcalls (s : State) : (s.bump).heldUpcalls = s.heldUpcalls := rfl
@[simp] theorem State.bump_io (s : State) : (s.bump).io = s.io := rfl
@[simp] theorem State.bump_pcfg (s : State) : (s.bump).pcfg = s.pcfg := rfl
@[simp] theorem State.bump_crects (s : State) : (s.bump).crects = s.crects := rfl
@[simp] theorem State.bump_suproots (s : State) : (s.bump).suproots = s.suproots := rfl
@[simp] theorem State.bump_disabled (s : State) : (s.bump).disabled = s.disabled := rfl
@[simp] theorem State.bump_power (s : State) : (s.bump).power = s.power := rfl
@[simp] theorem State.bump_free (s : State) : (s.bump).free = s.free := rfl
@[simp] theorem State.send_turns (s : State) (m : Msg) : (s.send m).turns = s.turns := rfl
@[simp] theorem State.send_cur (s : State) (m : Msg) : (s.send m).cur = s.cur := rfl
@[simp] theorem State.send_now (s : State) (m : Msg) : (s.send m).now = s.now := rfl
@[simp] theorem State.send_cores (s : State) (m : Msg) : (s.send m).cores = s.cores := rfl
@[simp] theorem State.send_stats (s : State) (m : Msg) : (s.send m).stats = s.stats := rfl
@[simp] theorem State.send_clusters (s : State) (m : Msg) : (s.send m).clusters = s.clusters := rfl
@[simp] theorem State.send_slices (s : State) (m : Msg) : (s.send m).slices = s.slices := rfl
@[simp] theorem State.send_terrs (s : State) (m : Msg) : (s.send m).terrs = s.terrs := rfl
@[simp] theorem State.send_gmem (s : State) (m : Msg) : (s.send m).gmem = s.gmem := rfl
@[simp] theorem State.send_gbad (s : State) (m : Msg) : (s.send m).gbad = s.gbad := rfl
@[simp] theorem State.send_gkeys (s : State) (m : Msg) : (s.send m).gkeys = s.gkeys := rfl
@[simp] theorem State.send_heldUpcalls (s : State) (m : Msg) : (s.send m).heldUpcalls = s.heldUpcalls := rfl
@[simp] theorem State.send_io (s : State) (m : Msg) : (s.send m).io = s.io := rfl
@[simp] theorem State.send_pcfg (s : State) (m : Msg) : (s.send m).pcfg = s.pcfg := rfl
@[simp] theorem State.send_crects (s : State) (m : Msg) : (s.send m).crects = s.crects := rfl
@[simp] theorem State.send_suproots (s : State) (m : Msg) : (s.send m).suproots = s.suproots := rfl
@[simp] theorem State.send_disabled (s : State) (m : Msg) : (s.send m).disabled = s.disabled := rfl
@[simp] theorem State.send_power (s : State) (m : Msg) : (s.send m).power = s.power := rfl
@[simp] theorem State.send_uid (s : State) (m : Msg) : (s.send m).uid = s.uid := rfl
@[simp] theorem State.send_free (s : State) (m : Msg) : (s.send m).free = s.free := rfl
@[simp] theorem Core.setCtx_ended (c : Core) (x : Nat) (v : Ctx) : (c.setCtx x v).ended = c.ended := rfl
@[simp] theorem Core.setCtx_rot (c : Core) (x : Nat) (v : Ctx) : (c.setCtx x v).rot = c.rot := rfl
@[simp] theorem Core.setCtx_slots (c : Core) (x : Nat) (v : Ctx) : (c.setCtx x v).slots = c.slots := rfl
@[simp] theorem Core.setCtx_lmem (c : Core) (x : Nat) (v : Ctx) : (c.setCtx x v).lmem = c.lmem := rfl
@[simp] theorem Core.setCtx_lbad (c : Core) (x : Nat) (v : Ctx) : (c.setCtx x v).lbad = c.lbad := rfl
@[simp] theorem Core.setCtx_weak (c : Core) (x : Nat) (v : Ctx) : (c.setCtx x v).weak = c.weak := rfl
@[simp] theorem Core.setCtx_corrected (c : Core) (x : Nat) (v : Ctx) : (c.setCtx x v).corrected = c.corrected := rfl
@[simp] theorem Core.setCtx_istore (c : Core) (x : Nat) (v : Ctx) : (c.setCtx x v).istore = c.istore := rfl
@[simp] theorem Core.setCtx_ibad (c : Core) (x : Nat) (v : Ctx) : (c.setCtx x v).ibad = c.ibad := rfl
@[simp] theorem Core.setCtx_lines (c : Core) (x : Nat) (v : Ctx) : (c.setCtx x v).lines = c.lines := rfl
@[simp] theorem Core.setCtx_lruTick (c : Core) (x : Nat) (v : Ctx) : (c.setCtx x v).lruTick = c.lruTick := rfl
@[simp] theorem Core.setCtx_fills (c : Core) (x : Nat) (v : Ctx) : (c.setCtx x v).fills = c.fills := rfl
@[simp] theorem Core.setCtx_regions (c : Core) (x : Nat) (v : Ctx) : (c.setCtx x v).regions = c.regions := rfl
@[simp] theorem Core.setCtx_vec (c : Core) (x : Nat) (v : Ctx) : (c.setCtx x v).vec = c.vec := rfl
@[simp] theorem Core.setCtx_psh (c : Core) (x : Nat) (v : Ctx) : (c.setCtx x v).psh = c.psh := rfl
@[simp] theorem Core.setCtx_mat (c : Core) (x : Nat) (v : Ctx) : (c.setCtx x v).mat = c.mat := rfl
@[simp] theorem Core.setCtx_gau (c : Core) (x : Nat) (v : Ctx) : (c.setCtx x v).gau = c.gau := rfl
@[simp] theorem Core.setCtx_slice (c : Core) (x : Nat) (v : Ctx) : (c.setCtx x v).slice = c.slice := rfl
@[simp] theorem Core.setCtx_seq (c : Core) (x : Nat) (v : Ctx) : (c.setCtx x v).seq = c.seq := rfl
@[simp] theorem Core.setCtx_outs (c : Core) (x : Nat) (v : Ctx) : (c.setCtx x v).outs = c.outs := rfl
@[simp] theorem Core.setCtx_aside (c : Core) (x : Nat) (v : Ctx) : (c.setCtx x v).aside = c.aside := rfl
@[simp] theorem Core.setCtx_nextFid (c : Core) (x : Nat) (v : Ctx) : (c.setCtx x v).nextFid = c.nextFid := rfl
@[simp] theorem Core.setCtx_spr (c : Core) (x : Nat) (v : Ctx) : (c.setCtx x v).spr = c.spr := rfl
@[simp] theorem Core.setCtx_tail (c : Core) (x : Nat) (v : Ctx) : (c.setCtx x v).tail = c.tail := rfl
@[simp] theorem Core.setCtx_links (c : Core) (x : Nat) (v : Ctx) : (c.setCtx x v).links = c.links := rfl
@[simp] theorem Core.setCtx_upq (c : Core) (x : Nat) (v : Ctx) : (c.setCtx x v).upq = c.upq := rfl
@[simp] theorem Core.setCtx_rx (c : Core) (x : Nat) (v : Ctx) : (c.setCtx x v).rx = c.rx := rfl
@[simp] theorem Core.setCtx_pairs (c : Core) (x : Nat) (v : Ctx) : (c.setCtx x v).pairs = c.pairs := rfl
@[simp] theorem Core.setCtx_stream (c : Core) (x : Nat) (v : Ctx) : (c.setCtx x v).stream = c.stream := rfl
@[simp] theorem Ctx.empty_g (c : Ctx) (r : Reg) : (c.empty r).g = c.g := rfl
@[simp] theorem Ctx.empty_bad (c : Ctx) (r : Reg) : (c.empty r).bad = c.bad := rfl
@[simp] theorem Ctx.empty_p (c : Ctx) (r : Reg) : (c.empty r).p = c.p := rfl
@[simp] theorem Ctx.empty_m (c : Ctx) (r : Reg) : (c.empty r).m = c.m := rfl
@[simp] theorem Ctx.empty_mbad (c : Ctx) (r : Reg) : (c.empty r).mbad = c.mbad := rfl
@[simp] theorem Ctx.empty_c (c : Ctx) (r : Reg) : (c.empty r).c = c.c := rfl
@[simp] theorem Ctx.empty_t (c : Ctx) (r : Reg) : (c.empty r).t = c.t := rfl
@[simp] theorem Ctx.empty_pc (c : Ctx) (r : Reg) : (c.empty r).pc = c.pc := rfl
@[simp] theorem Ctx.empty_mode (c : Ctx) (r : Reg) : (c.empty r).mode = c.mode := rfl
@[simp] theorem Ctx.empty_latch (c : Ctx) (r : Reg) : (c.empty r).latch = c.latch := rfl
@[simp] theorem Ctx.empty_qs (c : Ctx) (r : Reg) : (c.empty r).qs = c.qs := rfl
@[simp] theorem Ctx.empty_qsBad (c : Ctx) (r : Reg) : (c.empty r).qsBad = c.qsBad := rfl
@[simp] theorem Ctx.empty_qw (c : Ctx) (r : Reg) : (c.empty r).qw = c.qw := rfl
@[simp] theorem Ctx.empty_spr (c : Ctx) (r : Reg) : (c.empty r).spr = c.spr := rfl
@[simp] theorem Ctx.empty_event (c : Ctx) (r : Reg) : (c.empty r).event = c.event := rfl
@[simp] theorem Ctx.empty_level (c : Ctx) (r : Reg) : (c.empty r).level = c.level := rfl
@[simp] theorem Ctx.empty_run (c : Ctx) (r : Reg) : (c.empty r).run = c.run := rfl
@[simp] theorem Ctx.empty_parent (c : Ctx) (r : Reg) : (c.empty r).parent = c.parent := rfl
@[simp] theorem Ctx.empty_pkt (c : Ctx) (r : Reg) : (c.empty r).pkt = c.pkt := rfl
@[simp] theorem Ctx.empty_rep (c : Ctx) (r : Reg) : (c.empty r).rep = c.rep := rfl
@[simp] theorem Ctx.empty_acc (c : Ctx) (r : Reg) : (c.empty r).acc = c.acc := rfl
@[simp] theorem Ctx.empty_load (c : Ctx) (r : Reg) : (c.empty r).load = c.load := rfl
@[simp] theorem Ctx.empty_waited (c : Ctx) (r : Reg) : (c.empty r).waited = c.waited := rfl
@[simp] theorem Ctx.empty_ahead (c : Ctx) (r : Reg) : (c.empty r).ahead = c.ahead := rfl
@[simp] theorem Ctx.empty_stopping (c : Ctx) (r : Reg) : (c.empty r).stopping = c.stopping := rfl
@[simp] theorem Ctx.empty_burn (c : Ctx) (r : Reg) : (c.empty r).burn = c.burn := rfl
@[simp] theorem Ctx.empty_burnAt (c : Ctx) (r : Reg) : (c.empty r).burnAt = c.burnAt := rfl
@[simp] theorem Ctx.empty_task (c : Ctx) (r : Reg) : (c.empty r).task = c.task := rfl
@[simp] theorem Ctx.empty_yld (c : Ctx) (r : Reg) : (c.empty r).yld = c.yld := rfl
@[simp] theorem Ctx.empty_keeps (c : Ctx) (r : Reg) : (c.empty r).keeps = c.keeps := rfl
@[simp] theorem Ctx.empty_slotAt (c : Ctx) (r : Reg) : (c.empty r).slotAt = c.slotAt := rfl
@[simp] theorem Ctx.setPtr_g (c : Ctx) (p : Ptr) (v : PtrReg) : (c.setPtr p v).g = c.g := rfl
@[simp] theorem Ctx.setPtr_full (c : Ctx) (p : Ptr) (v : PtrReg) : (c.setPtr p v).full = c.full := rfl
@[simp] theorem Ctx.setPtr_bad (c : Ctx) (p : Ptr) (v : PtrReg) : (c.setPtr p v).bad = c.bad := rfl
@[simp] theorem Ctx.setPtr_m (c : Ctx) (p : Ptr) (v : PtrReg) : (c.setPtr p v).m = c.m := rfl
@[simp] theorem Ctx.setPtr_mbad (c : Ctx) (p : Ptr) (v : PtrReg) : (c.setPtr p v).mbad = c.mbad := rfl
@[simp] theorem Ctx.setPtr_c (c : Ctx) (p : Ptr) (v : PtrReg) : (c.setPtr p v).c = c.c := rfl
@[simp] theorem Ctx.setPtr_t (c : Ctx) (p : Ptr) (v : PtrReg) : (c.setPtr p v).t = c.t := rfl
@[simp] theorem Ctx.setPtr_pc (c : Ctx) (p : Ptr) (v : PtrReg) : (c.setPtr p v).pc = c.pc := rfl
@[simp] theorem Ctx.setPtr_mode (c : Ctx) (p : Ptr) (v : PtrReg) : (c.setPtr p v).mode = c.mode := rfl
@[simp] theorem Ctx.setPtr_latch (c : Ctx) (p : Ptr) (v : PtrReg) : (c.setPtr p v).latch = c.latch := rfl
@[simp] theorem Ctx.setPtr_qs (c : Ctx) (p : Ptr) (v : PtrReg) : (c.setPtr p v).qs = c.qs := rfl
@[simp] theorem Ctx.setPtr_qsBad (c : Ctx) (p : Ptr) (v : PtrReg) : (c.setPtr p v).qsBad = c.qsBad := rfl
@[simp] theorem Ctx.setPtr_qw (c : Ctx) (p : Ptr) (v : PtrReg) : (c.setPtr p v).qw = c.qw := rfl
@[simp] theorem Ctx.setPtr_spr (c : Ctx) (p : Ptr) (v : PtrReg) : (c.setPtr p v).spr = c.spr := rfl
@[simp] theorem Ctx.setPtr_event (c : Ctx) (p : Ptr) (v : PtrReg) : (c.setPtr p v).event = c.event := rfl
@[simp] theorem Ctx.setPtr_level (c : Ctx) (p : Ptr) (v : PtrReg) : (c.setPtr p v).level = c.level := rfl
@[simp] theorem Ctx.setPtr_run (c : Ctx) (p : Ptr) (v : PtrReg) : (c.setPtr p v).run = c.run := rfl
@[simp] theorem Ctx.setPtr_parent (c : Ctx) (p : Ptr) (v : PtrReg) : (c.setPtr p v).parent = c.parent := rfl
@[simp] theorem Ctx.setPtr_pkt (c : Ctx) (p : Ptr) (v : PtrReg) : (c.setPtr p v).pkt = c.pkt := rfl
@[simp] theorem Ctx.setPtr_rep (c : Ctx) (p : Ptr) (v : PtrReg) : (c.setPtr p v).rep = c.rep := rfl
@[simp] theorem Ctx.setPtr_acc (c : Ctx) (p : Ptr) (v : PtrReg) : (c.setPtr p v).acc = c.acc := rfl
@[simp] theorem Ctx.setPtr_load (c : Ctx) (p : Ptr) (v : PtrReg) : (c.setPtr p v).load = c.load := rfl
@[simp] theorem Ctx.setPtr_waited (c : Ctx) (p : Ptr) (v : PtrReg) : (c.setPtr p v).waited = c.waited := rfl
@[simp] theorem Ctx.setPtr_ahead (c : Ctx) (p : Ptr) (v : PtrReg) : (c.setPtr p v).ahead = c.ahead := rfl
@[simp] theorem Ctx.setPtr_stopping (c : Ctx) (p : Ptr) (v : PtrReg) : (c.setPtr p v).stopping = c.stopping := rfl
@[simp] theorem Ctx.setPtr_burn (c : Ctx) (p : Ptr) (v : PtrReg) : (c.setPtr p v).burn = c.burn := rfl
@[simp] theorem Ctx.setPtr_burnAt (c : Ctx) (p : Ptr) (v : PtrReg) : (c.setPtr p v).burnAt = c.burnAt := rfl
@[simp] theorem Ctx.setPtr_task (c : Ctx) (p : Ptr) (v : PtrReg) : (c.setPtr p v).task = c.task := rfl
@[simp] theorem Ctx.setPtr_yld (c : Ctx) (p : Ptr) (v : PtrReg) : (c.setPtr p v).yld = c.yld := rfl
@[simp] theorem Ctx.setPtr_keeps (c : Ctx) (p : Ptr) (v : PtrReg) : (c.setPtr p v).keeps = c.keeps := rfl
@[simp] theorem Ctx.setPtr_slotAt (c : Ctx) (p : Ptr) (v : PtrReg) : (c.setPtr p v).slotAt = c.slotAt := rfl
@[simp] theorem Ctx.setGuard_g (c : Ctx) (x : Slot) (v : GuardSt) : (c.setGuard x v).g = c.g := rfl
@[simp] theorem Ctx.setGuard_full (c : Ctx) (x : Slot) (v : GuardSt) : (c.setGuard x v).full = c.full := rfl
@[simp] theorem Ctx.setGuard_bad (c : Ctx) (x : Slot) (v : GuardSt) : (c.setGuard x v).bad = c.bad := rfl
@[simp] theorem Ctx.setGuard_p (c : Ctx) (x : Slot) (v : GuardSt) : (c.setGuard x v).p = c.p := rfl
@[simp] theorem Ctx.setGuard_m (c : Ctx) (x : Slot) (v : GuardSt) : (c.setGuard x v).m = c.m := rfl
@[simp] theorem Ctx.setGuard_mbad (c : Ctx) (x : Slot) (v : GuardSt) : (c.setGuard x v).mbad = c.mbad := rfl
@[simp] theorem Ctx.setGuard_t (c : Ctx) (x : Slot) (v : GuardSt) : (c.setGuard x v).t = c.t := rfl
@[simp] theorem Ctx.setGuard_pc (c : Ctx) (x : Slot) (v : GuardSt) : (c.setGuard x v).pc = c.pc := rfl
@[simp] theorem Ctx.setGuard_mode (c : Ctx) (x : Slot) (v : GuardSt) : (c.setGuard x v).mode = c.mode := rfl
@[simp] theorem Ctx.setGuard_latch (c : Ctx) (x : Slot) (v : GuardSt) : (c.setGuard x v).latch = c.latch := rfl
@[simp] theorem Ctx.setGuard_qs (c : Ctx) (x : Slot) (v : GuardSt) : (c.setGuard x v).qs = c.qs := rfl
@[simp] theorem Ctx.setGuard_qsBad (c : Ctx) (x : Slot) (v : GuardSt) : (c.setGuard x v).qsBad = c.qsBad := rfl
@[simp] theorem Ctx.setGuard_qw (c : Ctx) (x : Slot) (v : GuardSt) : (c.setGuard x v).qw = c.qw := rfl
@[simp] theorem Ctx.setGuard_spr (c : Ctx) (x : Slot) (v : GuardSt) : (c.setGuard x v).spr = c.spr := rfl
@[simp] theorem Ctx.setGuard_event (c : Ctx) (x : Slot) (v : GuardSt) : (c.setGuard x v).event = c.event := rfl
@[simp] theorem Ctx.setGuard_level (c : Ctx) (x : Slot) (v : GuardSt) : (c.setGuard x v).level = c.level := rfl
@[simp] theorem Ctx.setGuard_run (c : Ctx) (x : Slot) (v : GuardSt) : (c.setGuard x v).run = c.run := rfl
@[simp] theorem Ctx.setGuard_parent (c : Ctx) (x : Slot) (v : GuardSt) : (c.setGuard x v).parent = c.parent := rfl
@[simp] theorem Ctx.setGuard_pkt (c : Ctx) (x : Slot) (v : GuardSt) : (c.setGuard x v).pkt = c.pkt := rfl
@[simp] theorem Ctx.setGuard_rep (c : Ctx) (x : Slot) (v : GuardSt) : (c.setGuard x v).rep = c.rep := rfl
@[simp] theorem Ctx.setGuard_acc (c : Ctx) (x : Slot) (v : GuardSt) : (c.setGuard x v).acc = c.acc := rfl
@[simp] theorem Ctx.setGuard_load (c : Ctx) (x : Slot) (v : GuardSt) : (c.setGuard x v).load = c.load := rfl
@[simp] theorem Ctx.setGuard_waited (c : Ctx) (x : Slot) (v : GuardSt) : (c.setGuard x v).waited = c.waited := rfl
@[simp] theorem Ctx.setGuard_ahead (c : Ctx) (x : Slot) (v : GuardSt) : (c.setGuard x v).ahead = c.ahead := rfl
@[simp] theorem Ctx.setGuard_stopping (c : Ctx) (x : Slot) (v : GuardSt) : (c.setGuard x v).stopping = c.stopping := rfl
@[simp] theorem Ctx.setGuard_burn (c : Ctx) (x : Slot) (v : GuardSt) : (c.setGuard x v).burn = c.burn := rfl
@[simp] theorem Ctx.setGuard_burnAt (c : Ctx) (x : Slot) (v : GuardSt) : (c.setGuard x v).burnAt = c.burnAt := rfl
@[simp] theorem Ctx.setGuard_task (c : Ctx) (x : Slot) (v : GuardSt) : (c.setGuard x v).task = c.task := rfl
@[simp] theorem Ctx.setGuard_yld (c : Ctx) (x : Slot) (v : GuardSt) : (c.setGuard x v).yld = c.yld := rfl
@[simp] theorem Ctx.setGuard_keeps (c : Ctx) (x : Slot) (v : GuardSt) : (c.setGuard x v).keeps = c.keeps := rfl
@[simp] theorem Ctx.setGuard_slotAt (c : Ctx) (x : Slot) (v : GuardSt) : (c.setGuard x v).slotAt = c.slotAt := rfl
@[simp] theorem Ctx.setTok_g (c : Ctx) (x : Slot) (v : Tok) : (c.setTok x v).g = c.g := rfl
@[simp] theorem Ctx.setTok_full (c : Ctx) (x : Slot) (v : Tok) : (c.setTok x v).full = c.full := rfl
@[simp] theorem Ctx.setTok_bad (c : Ctx) (x : Slot) (v : Tok) : (c.setTok x v).bad = c.bad := rfl
@[simp] theorem Ctx.setTok_p (c : Ctx) (x : Slot) (v : Tok) : (c.setTok x v).p = c.p := rfl
@[simp] theorem Ctx.setTok_m (c : Ctx) (x : Slot) (v : Tok) : (c.setTok x v).m = c.m := rfl
@[simp] theorem Ctx.setTok_mbad (c : Ctx) (x : Slot) (v : Tok) : (c.setTok x v).mbad = c.mbad := rfl
@[simp] theorem Ctx.setTok_c (c : Ctx) (x : Slot) (v : Tok) : (c.setTok x v).c = c.c := rfl
@[simp] theorem Ctx.setTok_pc (c : Ctx) (x : Slot) (v : Tok) : (c.setTok x v).pc = c.pc := rfl
@[simp] theorem Ctx.setTok_mode (c : Ctx) (x : Slot) (v : Tok) : (c.setTok x v).mode = c.mode := rfl
@[simp] theorem Ctx.setTok_latch (c : Ctx) (x : Slot) (v : Tok) : (c.setTok x v).latch = c.latch := rfl
@[simp] theorem Ctx.setTok_qs (c : Ctx) (x : Slot) (v : Tok) : (c.setTok x v).qs = c.qs := rfl
@[simp] theorem Ctx.setTok_qsBad (c : Ctx) (x : Slot) (v : Tok) : (c.setTok x v).qsBad = c.qsBad := rfl
@[simp] theorem Ctx.setTok_qw (c : Ctx) (x : Slot) (v : Tok) : (c.setTok x v).qw = c.qw := rfl
@[simp] theorem Ctx.setTok_spr (c : Ctx) (x : Slot) (v : Tok) : (c.setTok x v).spr = c.spr := rfl
@[simp] theorem Ctx.setTok_event (c : Ctx) (x : Slot) (v : Tok) : (c.setTok x v).event = c.event := rfl
@[simp] theorem Ctx.setTok_level (c : Ctx) (x : Slot) (v : Tok) : (c.setTok x v).level = c.level := rfl
@[simp] theorem Ctx.setTok_run (c : Ctx) (x : Slot) (v : Tok) : (c.setTok x v).run = c.run := rfl
@[simp] theorem Ctx.setTok_parent (c : Ctx) (x : Slot) (v : Tok) : (c.setTok x v).parent = c.parent := rfl
@[simp] theorem Ctx.setTok_pkt (c : Ctx) (x : Slot) (v : Tok) : (c.setTok x v).pkt = c.pkt := rfl
@[simp] theorem Ctx.setTok_rep (c : Ctx) (x : Slot) (v : Tok) : (c.setTok x v).rep = c.rep := rfl
@[simp] theorem Ctx.setTok_acc (c : Ctx) (x : Slot) (v : Tok) : (c.setTok x v).acc = c.acc := rfl
@[simp] theorem Ctx.setTok_load (c : Ctx) (x : Slot) (v : Tok) : (c.setTok x v).load = c.load := rfl
@[simp] theorem Ctx.setTok_waited (c : Ctx) (x : Slot) (v : Tok) : (c.setTok x v).waited = c.waited := rfl
@[simp] theorem Ctx.setTok_ahead (c : Ctx) (x : Slot) (v : Tok) : (c.setTok x v).ahead = c.ahead := rfl
@[simp] theorem Ctx.setTok_stopping (c : Ctx) (x : Slot) (v : Tok) : (c.setTok x v).stopping = c.stopping := rfl
@[simp] theorem Ctx.setTok_burn (c : Ctx) (x : Slot) (v : Tok) : (c.setTok x v).burn = c.burn := rfl
@[simp] theorem Ctx.setTok_burnAt (c : Ctx) (x : Slot) (v : Tok) : (c.setTok x v).burnAt = c.burnAt := rfl
@[simp] theorem Ctx.setTok_task (c : Ctx) (x : Slot) (v : Tok) : (c.setTok x v).task = c.task := rfl
@[simp] theorem Ctx.setTok_yld (c : Ctx) (x : Slot) (v : Tok) : (c.setTok x v).yld = c.yld := rfl
@[simp] theorem Ctx.setTok_keeps (c : Ctx) (x : Slot) (v : Tok) : (c.setTok x v).keeps = c.keeps := rfl
@[simp] theorem Ctx.setTok_slotAt (c : Ctx) (x : Slot) (v : Tok) : (c.setTok x v).slotAt = c.slotAt := rfl
@[simp] theorem Ctx.setRun_g (c : Ctx) (n : Nat) (r : RunSt) : (c.setRun n r).g = c.g := rfl
@[simp] theorem Ctx.setRun_full (c : Ctx) (n : Nat) (r : RunSt) : (c.setRun n r).full = c.full := rfl
@[simp] theorem Ctx.setRun_bad (c : Ctx) (n : Nat) (r : RunSt) : (c.setRun n r).bad = c.bad := rfl
@[simp] theorem Ctx.setRun_p (c : Ctx) (n : Nat) (r : RunSt) : (c.setRun n r).p = c.p := rfl
@[simp] theorem Ctx.setRun_m (c : Ctx) (n : Nat) (r : RunSt) : (c.setRun n r).m = c.m := rfl
@[simp] theorem Ctx.setRun_mbad (c : Ctx) (n : Nat) (r : RunSt) : (c.setRun n r).mbad = c.mbad := rfl
@[simp] theorem Ctx.setRun_c (c : Ctx) (n : Nat) (r : RunSt) : (c.setRun n r).c = c.c := rfl
@[simp] theorem Ctx.setRun_t (c : Ctx) (n : Nat) (r : RunSt) : (c.setRun n r).t = c.t := rfl
@[simp] theorem Ctx.setRun_pc (c : Ctx) (n : Nat) (r : RunSt) : (c.setRun n r).pc = c.pc := rfl
@[simp] theorem Ctx.setRun_mode (c : Ctx) (n : Nat) (r : RunSt) : (c.setRun n r).mode = c.mode := rfl
@[simp] theorem Ctx.setRun_latch (c : Ctx) (n : Nat) (r : RunSt) : (c.setRun n r).latch = c.latch := rfl
@[simp] theorem Ctx.setRun_qs (c : Ctx) (n : Nat) (r : RunSt) : (c.setRun n r).qs = c.qs := rfl
@[simp] theorem Ctx.setRun_qsBad (c : Ctx) (n : Nat) (r : RunSt) : (c.setRun n r).qsBad = c.qsBad := rfl
@[simp] theorem Ctx.setRun_qw (c : Ctx) (n : Nat) (r : RunSt) : (c.setRun n r).qw = c.qw := rfl
@[simp] theorem Ctx.setRun_spr (c : Ctx) (n : Nat) (r : RunSt) : (c.setRun n r).spr = c.spr := rfl
@[simp] theorem Ctx.setRun_event (c : Ctx) (n : Nat) (r : RunSt) : (c.setRun n r).event = c.event := rfl
@[simp] theorem Ctx.setRun_level (c : Ctx) (n : Nat) (r : RunSt) : (c.setRun n r).level = c.level := rfl
@[simp] theorem Ctx.setRun_parent (c : Ctx) (n : Nat) (r : RunSt) : (c.setRun n r).parent = c.parent := rfl
@[simp] theorem Ctx.setRun_pkt (c : Ctx) (n : Nat) (r : RunSt) : (c.setRun n r).pkt = c.pkt := rfl
@[simp] theorem Ctx.setRun_rep (c : Ctx) (n : Nat) (r : RunSt) : (c.setRun n r).rep = c.rep := rfl
@[simp] theorem Ctx.setRun_acc (c : Ctx) (n : Nat) (r : RunSt) : (c.setRun n r).acc = c.acc := rfl
@[simp] theorem Ctx.setRun_load (c : Ctx) (n : Nat) (r : RunSt) : (c.setRun n r).load = c.load := rfl
@[simp] theorem Ctx.setRun_waited (c : Ctx) (n : Nat) (r : RunSt) : (c.setRun n r).waited = c.waited := rfl
@[simp] theorem Ctx.setRun_ahead (c : Ctx) (n : Nat) (r : RunSt) : (c.setRun n r).ahead = c.ahead := rfl
@[simp] theorem Ctx.setRun_stopping (c : Ctx) (n : Nat) (r : RunSt) : (c.setRun n r).stopping = c.stopping := rfl
@[simp] theorem Ctx.setRun_task (c : Ctx) (n : Nat) (r : RunSt) : (c.setRun n r).task = c.task := rfl
@[simp] theorem Ctx.setRun_yld (c : Ctx) (n : Nat) (r : RunSt) : (c.setRun n r).yld = c.yld := rfl
@[simp] theorem Ctx.setRun_keeps (c : Ctx) (n : Nat) (r : RunSt) : (c.setRun n r).keeps = c.keeps := rfl
@[simp] theorem Ctx.setRun_slotAt (c : Ctx) (n : Nat) (r : RunSt) : (c.setRun n r).slotAt = c.slotAt := rfl
@[simp] theorem Ctx.reload_g (c : Ctx) (n : Nat) : (c.reload n).g = c.g := rfl
@[simp] theorem Ctx.reload_full (c : Ctx) (n : Nat) : (c.reload n).full = c.full := rfl
@[simp] theorem Ctx.reload_bad (c : Ctx) (n : Nat) : (c.reload n).bad = c.bad := rfl
@[simp] theorem Ctx.reload_p (c : Ctx) (n : Nat) : (c.reload n).p = c.p := rfl
@[simp] theorem Ctx.reload_m (c : Ctx) (n : Nat) : (c.reload n).m = c.m := rfl
@[simp] theorem Ctx.reload_mbad (c : Ctx) (n : Nat) : (c.reload n).mbad = c.mbad := rfl
@[simp] theorem Ctx.reload_c (c : Ctx) (n : Nat) : (c.reload n).c = c.c := rfl
@[simp] theorem Ctx.reload_t (c : Ctx) (n : Nat) : (c.reload n).t = c.t := rfl
@[simp] theorem Ctx.reload_pc (c : Ctx) (n : Nat) : (c.reload n).pc = c.pc := rfl
@[simp] theorem Ctx.reload_mode (c : Ctx) (n : Nat) : (c.reload n).mode = c.mode := rfl
@[simp] theorem Ctx.reload_latch (c : Ctx) (n : Nat) : (c.reload n).latch = c.latch := rfl
@[simp] theorem Ctx.reload_qs (c : Ctx) (n : Nat) : (c.reload n).qs = c.qs := rfl
@[simp] theorem Ctx.reload_qsBad (c : Ctx) (n : Nat) : (c.reload n).qsBad = c.qsBad := rfl
@[simp] theorem Ctx.reload_qw (c : Ctx) (n : Nat) : (c.reload n).qw = c.qw := rfl
@[simp] theorem Ctx.reload_spr (c : Ctx) (n : Nat) : (c.reload n).spr = c.spr := rfl
@[simp] theorem Ctx.reload_event (c : Ctx) (n : Nat) : (c.reload n).event = c.event := rfl
@[simp] theorem Ctx.reload_level (c : Ctx) (n : Nat) : (c.reload n).level = c.level := rfl
@[simp] theorem Ctx.reload_run (c : Ctx) (n : Nat) : (c.reload n).run = c.run := rfl
@[simp] theorem Ctx.reload_parent (c : Ctx) (n : Nat) : (c.reload n).parent = c.parent := rfl
@[simp] theorem Ctx.reload_pkt (c : Ctx) (n : Nat) : (c.reload n).pkt = c.pkt := rfl
@[simp] theorem Ctx.reload_rep (c : Ctx) (n : Nat) : (c.reload n).rep = c.rep := rfl
@[simp] theorem Ctx.reload_acc (c : Ctx) (n : Nat) : (c.reload n).acc = c.acc := rfl
@[simp] theorem Ctx.reload_load (c : Ctx) (n : Nat) : (c.reload n).load = c.load := rfl
@[simp] theorem Ctx.reload_waited (c : Ctx) (n : Nat) : (c.reload n).waited = c.waited := rfl
@[simp] theorem Ctx.reload_ahead (c : Ctx) (n : Nat) : (c.reload n).ahead = c.ahead := rfl
@[simp] theorem Ctx.reload_stopping (c : Ctx) (n : Nat) : (c.reload n).stopping = c.stopping := rfl
@[simp] theorem Ctx.reload_task (c : Ctx) (n : Nat) : (c.reload n).task = c.task := rfl
@[simp] theorem Ctx.reload_yld (c : Ctx) (n : Nat) : (c.reload n).yld = c.yld := rfl
@[simp] theorem Ctx.reload_keeps (c : Ctx) (n : Nat) : (c.reload n).keeps = c.keeps := rfl
@[simp] theorem Ctx.reload_slotAt (c : Ctx) (n : Nat) : (c.reload n).slotAt = c.slotAt := rfl
@[simp] theorem Ctx.complete_g (c : Ctx) (n pc : Nat) : (c.complete n pc).g = c.g := rfl
@[simp] theorem Ctx.complete_full (c : Ctx) (n pc : Nat) : (c.complete n pc).full = c.full := rfl
@[simp] theorem Ctx.complete_bad (c : Ctx) (n pc : Nat) : (c.complete n pc).bad = c.bad := rfl
@[simp] theorem Ctx.complete_p (c : Ctx) (n pc : Nat) : (c.complete n pc).p = c.p := rfl
@[simp] theorem Ctx.complete_m (c : Ctx) (n pc : Nat) : (c.complete n pc).m = c.m := rfl
@[simp] theorem Ctx.complete_mbad (c : Ctx) (n pc : Nat) : (c.complete n pc).mbad = c.mbad := rfl
@[simp] theorem Ctx.complete_c (c : Ctx) (n pc : Nat) : (c.complete n pc).c = c.c := rfl
@[simp] theorem Ctx.complete_t (c : Ctx) (n pc : Nat) : (c.complete n pc).t = c.t := rfl
@[simp] theorem Ctx.complete_mode (c : Ctx) (n pc : Nat) : (c.complete n pc).mode = c.mode := rfl
@[simp] theorem Ctx.complete_qs (c : Ctx) (n pc : Nat) : (c.complete n pc).qs = c.qs := rfl
@[simp] theorem Ctx.complete_qsBad (c : Ctx) (n pc : Nat) : (c.complete n pc).qsBad = c.qsBad := rfl
@[simp] theorem Ctx.complete_qw (c : Ctx) (n pc : Nat) : (c.complete n pc).qw = c.qw := rfl
@[simp] theorem Ctx.complete_spr (c : Ctx) (n pc : Nat) : (c.complete n pc).spr = c.spr := rfl
@[simp] theorem Ctx.complete_event (c : Ctx) (n pc : Nat) : (c.complete n pc).event = c.event := rfl
@[simp] theorem Ctx.complete_level (c : Ctx) (n pc : Nat) : (c.complete n pc).level = c.level := rfl
@[simp] theorem Ctx.complete_parent (c : Ctx) (n pc : Nat) : (c.complete n pc).parent = c.parent := rfl
@[simp] theorem Ctx.complete_pkt (c : Ctx) (n pc : Nat) : (c.complete n pc).pkt = c.pkt := rfl
@[simp] theorem Ctx.complete_rep (c : Ctx) (n pc : Nat) : (c.complete n pc).rep = c.rep := rfl
@[simp] theorem Ctx.complete_load (c : Ctx) (n pc : Nat) : (c.complete n pc).load = c.load := rfl
@[simp] theorem Ctx.complete_stopping (c : Ctx) (n pc : Nat) : (c.complete n pc).stopping = c.stopping := rfl
@[simp] theorem Ctx.complete_keeps (c : Ctx) (n pc : Nat) : (c.complete n pc).keeps = c.keeps := rfl
@[simp] theorem Ctx.complete_slotAt (c : Ctx) (n pc : Nat) : (c.complete n pc).slotAt = c.slotAt := rfl
@[simp] theorem Ctx.complete_task (c : Ctx) (n pc : Nat) : (c.complete n pc).task = c.task := rfl
@[simp] theorem Ctx.setMask_g (c : Ctx) (m : Ptr) (v : BitVec 16) (b : Bool) : (c.setMask m v b).g = c.g := by unfold Ctx.setMask; split <;> rfl
@[simp] theorem Ctx.setMask_full (c : Ctx) (m : Ptr) (v : BitVec 16) (b : Bool) : (c.setMask m v b).full = c.full := by unfold Ctx.setMask; split <;> rfl
@[simp] theorem Ctx.setMask_bad (c : Ctx) (m : Ptr) (v : BitVec 16) (b : Bool) : (c.setMask m v b).bad = c.bad := by unfold Ctx.setMask; split <;> rfl
@[simp] theorem Ctx.setReg_p (c : Ctx) (r : Reg) (v : Word) : (c.setReg r v).p = c.p := by simp only [Ctx.setReg, Ctx.putReg]; split <;> rfl
@[simp] theorem Ctx.setMask_p (c : Ctx) (m : Ptr) (v : BitVec 16) (b : Bool) : (c.setMask m v b).p = c.p := by unfold Ctx.setMask; split <;> rfl
@[simp] theorem Ctx.setReg_m (c : Ctx) (r : Reg) (v : Word) : (c.setReg r v).m = c.m := by simp only [Ctx.setReg, Ctx.putReg]; split <;> rfl
@[simp] theorem Ctx.setReg_mbad (c : Ctx) (r : Reg) (v : Word) : (c.setReg r v).mbad = c.mbad := by simp only [Ctx.setReg, Ctx.putReg]; split <;> rfl
@[simp] theorem Ctx.setReg_c (c : Ctx) (r : Reg) (v : Word) : (c.setReg r v).c = c.c := by simp only [Ctx.setReg, Ctx.putReg]; split <;> rfl
@[simp] theorem Ctx.setMask_c (c : Ctx) (m : Ptr) (v : BitVec 16) (b : Bool) : (c.setMask m v b).c = c.c := by unfold Ctx.setMask; split <;> rfl
@[simp] theorem Ctx.setReg_t (c : Ctx) (r : Reg) (v : Word) : (c.setReg r v).t = c.t := by simp only [Ctx.setReg, Ctx.putReg]; split <;> rfl
@[simp] theorem Ctx.setMask_t (c : Ctx) (m : Ptr) (v : BitVec 16) (b : Bool) : (c.setMask m v b).t = c.t := by unfold Ctx.setMask; split <;> rfl
@[simp] theorem Ctx.setReg_pc (c : Ctx) (r : Reg) (v : Word) : (c.setReg r v).pc = c.pc := by simp only [Ctx.setReg, Ctx.putReg]; split <;> rfl
@[simp] theorem Ctx.setMask_pc (c : Ctx) (m : Ptr) (v : BitVec 16) (b : Bool) : (c.setMask m v b).pc = c.pc := by unfold Ctx.setMask; split <;> rfl
@[simp] theorem Ctx.setReg_mode (c : Ctx) (r : Reg) (v : Word) : (c.setReg r v).mode = c.mode := by simp only [Ctx.setReg, Ctx.putReg]; split <;> rfl
@[simp] theorem Ctx.setMask_mode (c : Ctx) (m : Ptr) (v : BitVec 16) (b : Bool) : (c.setMask m v b).mode = c.mode := by unfold Ctx.setMask; split <;> rfl
@[simp] theorem Ctx.setReg_latch (c : Ctx) (r : Reg) (v : Word) : (c.setReg r v).latch = c.latch := by simp only [Ctx.setReg, Ctx.putReg]; split <;> rfl
@[simp] theorem Ctx.setMask_latch (c : Ctx) (m : Ptr) (v : BitVec 16) (b : Bool) : (c.setMask m v b).latch = c.latch := by unfold Ctx.setMask; split <;> rfl
@[simp] theorem Ctx.setReg_qs (c : Ctx) (r : Reg) (v : Word) : (c.setReg r v).qs = c.qs := by simp only [Ctx.setReg, Ctx.putReg]; split <;> rfl
@[simp] theorem Ctx.setMask_qs (c : Ctx) (m : Ptr) (v : BitVec 16) (b : Bool) : (c.setMask m v b).qs = c.qs := by unfold Ctx.setMask; split <;> rfl
@[simp] theorem Ctx.setReg_qsBad (c : Ctx) (r : Reg) (v : Word) : (c.setReg r v).qsBad = c.qsBad := by simp only [Ctx.setReg, Ctx.putReg]; split <;> rfl
@[simp] theorem Ctx.setMask_qsBad (c : Ctx) (m : Ptr) (v : BitVec 16) (b : Bool) : (c.setMask m v b).qsBad = c.qsBad := by unfold Ctx.setMask; split <;> rfl
@[simp] theorem Ctx.setReg_qw (c : Ctx) (r : Reg) (v : Word) : (c.setReg r v).qw = c.qw := by simp only [Ctx.setReg, Ctx.putReg]; split <;> rfl
@[simp] theorem Ctx.setMask_qw (c : Ctx) (m : Ptr) (v : BitVec 16) (b : Bool) : (c.setMask m v b).qw = c.qw := by unfold Ctx.setMask; split <;> rfl
@[simp] theorem Ctx.setReg_spr (c : Ctx) (r : Reg) (v : Word) : (c.setReg r v).spr = c.spr := by simp only [Ctx.setReg, Ctx.putReg]; split <;> rfl
@[simp] theorem Ctx.setMask_spr (c : Ctx) (m : Ptr) (v : BitVec 16) (b : Bool) : (c.setMask m v b).spr = c.spr := by unfold Ctx.setMask; split <;> rfl
@[simp] theorem Ctx.setReg_event (c : Ctx) (r : Reg) (v : Word) : (c.setReg r v).event = c.event := by simp only [Ctx.setReg, Ctx.putReg]; split <;> rfl
@[simp] theorem Ctx.setMask_event (c : Ctx) (m : Ptr) (v : BitVec 16) (b : Bool) : (c.setMask m v b).event = c.event := by unfold Ctx.setMask; split <;> rfl
@[simp] theorem Ctx.setReg_level (c : Ctx) (r : Reg) (v : Word) : (c.setReg r v).level = c.level := by simp only [Ctx.setReg, Ctx.putReg]; split <;> rfl
@[simp] theorem Ctx.setMask_level (c : Ctx) (m : Ptr) (v : BitVec 16) (b : Bool) : (c.setMask m v b).level = c.level := by unfold Ctx.setMask; split <;> rfl
@[simp] theorem Ctx.setReg_run (c : Ctx) (r : Reg) (v : Word) : (c.setReg r v).run = c.run := by simp only [Ctx.setReg, Ctx.putReg]; split <;> rfl
@[simp] theorem Ctx.setMask_run (c : Ctx) (m : Ptr) (v : BitVec 16) (b : Bool) : (c.setMask m v b).run = c.run := by unfold Ctx.setMask; split <;> rfl
@[simp] theorem Ctx.setReg_parent (c : Ctx) (r : Reg) (v : Word) : (c.setReg r v).parent = c.parent := by simp only [Ctx.setReg, Ctx.putReg]; split <;> rfl
@[simp] theorem Ctx.setMask_parent (c : Ctx) (m : Ptr) (v : BitVec 16) (b : Bool) : (c.setMask m v b).parent = c.parent := by unfold Ctx.setMask; split <;> rfl
@[simp] theorem Ctx.setReg_pkt (c : Ctx) (r : Reg) (v : Word) : (c.setReg r v).pkt = c.pkt := by simp only [Ctx.setReg, Ctx.putReg]; split <;> rfl
@[simp] theorem Ctx.setMask_pkt (c : Ctx) (m : Ptr) (v : BitVec 16) (b : Bool) : (c.setMask m v b).pkt = c.pkt := by unfold Ctx.setMask; split <;> rfl
@[simp] theorem Ctx.setReg_rep (c : Ctx) (r : Reg) (v : Word) : (c.setReg r v).rep = c.rep := by simp only [Ctx.setReg, Ctx.putReg]; split <;> rfl
@[simp] theorem Ctx.setMask_rep (c : Ctx) (m : Ptr) (v : BitVec 16) (b : Bool) : (c.setMask m v b).rep = c.rep := by unfold Ctx.setMask; split <;> rfl
@[simp] theorem Ctx.setReg_acc (c : Ctx) (r : Reg) (v : Word) : (c.setReg r v).acc = c.acc := by simp only [Ctx.setReg, Ctx.putReg]; split <;> rfl
@[simp] theorem Ctx.setMask_acc (c : Ctx) (m : Ptr) (v : BitVec 16) (b : Bool) : (c.setMask m v b).acc = c.acc := by unfold Ctx.setMask; split <;> rfl
@[simp] theorem Ctx.setMask_load (c : Ctx) (m : Ptr) (v : BitVec 16) (b : Bool) : (c.setMask m v b).load = c.load := by unfold Ctx.setMask; split <;> rfl
@[simp] theorem Ctx.setReg_waited (c : Ctx) (r : Reg) (v : Word) : (c.setReg r v).waited = c.waited := by simp only [Ctx.setReg, Ctx.putReg]; split <;> rfl
@[simp] theorem Ctx.setMask_waited (c : Ctx) (m : Ptr) (v : BitVec 16) (b : Bool) : (c.setMask m v b).waited = c.waited := by unfold Ctx.setMask; split <;> rfl
@[simp] theorem Ctx.setReg_ahead (c : Ctx) (r : Reg) (v : Word) : (c.setReg r v).ahead = c.ahead := by simp only [Ctx.setReg, Ctx.putReg]; split <;> rfl
@[simp] theorem Ctx.setMask_ahead (c : Ctx) (m : Ptr) (v : BitVec 16) (b : Bool) : (c.setMask m v b).ahead = c.ahead := by unfold Ctx.setMask; split <;> rfl
@[simp] theorem Ctx.setReg_stopping (c : Ctx) (r : Reg) (v : Word) : (c.setReg r v).stopping = c.stopping := by simp only [Ctx.setReg, Ctx.putReg]; split <;> rfl
@[simp] theorem Ctx.setMask_stopping (c : Ctx) (m : Ptr) (v : BitVec 16) (b : Bool) : (c.setMask m v b).stopping = c.stopping := by unfold Ctx.setMask; split <;> rfl
@[simp] theorem Ctx.setReg_burn (c : Ctx) (r : Reg) (v : Word) : (c.setReg r v).burn = c.burn := by simp only [Ctx.setReg, Ctx.putReg]; split <;> rfl
@[simp] theorem Ctx.setMask_burn (c : Ctx) (m : Ptr) (v : BitVec 16) (b : Bool) : (c.setMask m v b).burn = c.burn := by unfold Ctx.setMask; split <;> rfl
@[simp] theorem Ctx.setReg_burnAt (c : Ctx) (r : Reg) (v : Word) : (c.setReg r v).burnAt = c.burnAt := by simp only [Ctx.setReg, Ctx.putReg]; split <;> rfl
@[simp] theorem Ctx.setMask_burnAt (c : Ctx) (m : Ptr) (v : BitVec 16) (b : Bool) : (c.setMask m v b).burnAt = c.burnAt := by unfold Ctx.setMask; split <;> rfl
@[simp] theorem Ctx.setReg_task (c : Ctx) (r : Reg) (v : Word) : (c.setReg r v).task = c.task := by simp only [Ctx.setReg, Ctx.putReg]; split <;> rfl
@[simp] theorem Ctx.setMask_task (c : Ctx) (m : Ptr) (v : BitVec 16) (b : Bool) : (c.setMask m v b).task = c.task := by unfold Ctx.setMask; split <;> rfl
@[simp] theorem Ctx.setReg_yld (c : Ctx) (r : Reg) (v : Word) : (c.setReg r v).yld = c.yld := by simp only [Ctx.setReg, Ctx.putReg]; split <;> rfl
@[simp] theorem Ctx.setReg_keeps (c : Ctx) (r : Reg) (v : Word) : (c.setReg r v).keeps = c.keeps := by simp only [Ctx.setReg, Ctx.putReg]; split <;> rfl
@[simp] theorem Ctx.setReg_slotAt (c : Ctx) (r : Reg) (v : Word) : (c.setReg r v).slotAt = c.slotAt := by simp only [Ctx.setReg, Ctx.putReg]; split <;> rfl
@[simp] theorem Ctx.setMask_yld (c : Ctx) (m : Ptr) (v : BitVec 16) (b : Bool) : (c.setMask m v b).yld = c.yld := by unfold Ctx.setMask; split <;> rfl
@[simp] theorem Ctx.setMask_keeps (c : Ctx) (m : Ptr) (v : BitVec 16) (b : Bool) : (c.setMask m v b).keeps = c.keeps := by unfold Ctx.setMask; split <;> rfl
@[simp] theorem Ctx.setMask_slotAt (c : Ctx) (m : Ptr) (v : BitVec 16) (b : Bool) : (c.setMask m v b).slotAt = c.slotAt := by unfold Ctx.setMask; split <;> rfl
@[simp] theorem State.send_net (s : State) (m : Msg) : (s.send m).net = s.net ++ [m] := rfl
@[simp] theorem State.bump_uid (s : State) : s.bump.uid = s.uid + 1 := rfl
@[simp] theorem Ctx.setRun_run (c : Ctx) (n : Nat) (r : RunSt) : (c.setRun n r).run = r := rfl
@[simp] theorem Ctx.complete_run (c : Ctx) (n pc : Nat) : (c.complete n pc).run = .running := rfl
@[simp] theorem Ctx.complete_pc (c : Ctx) (n pc : Nat) : (c.complete n pc).pc = pc := rfl
@[simp] theorem Ctx.complete_latch (c : Ctx) (n pc : Nat) : (c.complete n pc).latch = Latch.empty := rfl
@[simp] theorem Ctx.complete_waited (c : Ctx) (n pc : Nat) : (c.complete n pc).waited = false := rfl
@[simp] theorem Ctx.complete_acc (c : Ctx) (n pc : Nat) : (c.complete n pc).acc = none := rfl

end Sys2Proof.Machine
end

