-- ==== Sys2Proof/Laws/Ops.lean ====
section
/-! SUPPORT. What each shared operation can do: the tables and memories, the parts of the state, and the shape of a word's meaning. -/

namespace Sys2Proof.Machine

/-! ### Tables -/

variable {α : Type}

@[simp] theorem kget_kput_self (m : KMap α) (k : Nat) (v : α) : kget (kput m k v) k = some v := by
  induction m with
  | nil => simp [kput, kget]
  | cons e r ih =>
    obtain ⟨j, w⟩ := e
    simp only [kput]
    split
    · simp [kget]
    · split <;> simp_all [kget]

theorem kget_kput_ne (m : KMap α) {j k : Nat} (v : α) (h : j ≠ k) : kget (kput m k v) j = kget m j := by
  induction m with
  | nil => simp [kput, kget, Ne.symm h]
  | cons e r ih =>
    obtain ⟨i, w⟩ := e
    simp only [kput]
    split
    · simp [kget, Ne.symm h]
    · split
      · subst_vars; simp [kget, Ne.symm h]
      · simp [kget, ih]

theorem kget_kput (m : KMap α) (j k : Nat) (v : α) : kget (kput m k v) j = if j = k then some v else kget m j := by
  split
  · subst_vars; simp
  · exact kget_kput_ne m v ‹_›

theorem kget_kdel (m : KMap α) (j k : Nat) : kget (kdel m k) j = if j = k then none else kget m j := by
  induction m with
  | nil => simp [kdel, kget]
  | cons e r ih =>
    obtain ⟨i, w⟩ := e
    by_cases hik : i = k
    · subst hik
      have : kdel ((i, w) :: r) i = kdel r i := by simp [kdel]
      rw [this, ih]; split <;> simp_all [kget, eq_comm]
    · have : kdel ((i, w) :: r) k = (i, w) :: kdel r k := by simp [kdel, hik]
      rw [this, kget]; split
      · subst_vars; simp [hik, kget]
      · rw [ih]; simp_all [kget]

/-- Every entry of a table after a write is the new one or an old one. -/
theorem mem_kput {m : KMap α} {k : Nat} {v : α} {e : Nat × α} (h : e ∈ kput m k v) : e = (k, v) ∨ e ∈ m := by
  induction m with
  | nil => simpa [kput] using h
  | cons f r ih =>
    simp only [kput] at h
    split at h
    · simpa using h
    · split at h
      · simp only [List.mem_cons] at h; obtain h | h := h <;> simp [h]
      · simp only [List.mem_cons] at h
        obtain h | h := h
        · simp [h]
        · obtain h | h := ih h <;> simp [h]

/-! ### Byte memories -/

theorem mget_mput (m : Memory) (a b : Nat) (v : Byte) : mget (mput m a v) b = if b = a then v else mget m b := by
  unfold mput mget
  split
  · rw [kget_kdel]; split <;> simp_all
  · rw [kget_kput]; split <;> simp

/-- Outside the bytes written, a memory reads as before. -/
theorem mget_mwrite_outside (bs : List Byte) (m : Memory) (a b : Nat) (h : b < a ∨ a + bs.length ≤ b) :
    mget (mwrite m a bs) b = mget m b := by
  induction bs generalizing m a with
  | nil => rfl
  | cons x r ih =>
    simp only [List.length_cons] at h
    rw [mwrite, ih _ _ (by omega), mget_mput, if_neg (by omega)]

/-- The bytes written read back. -/
theorem mget_mwrite_inside (bs : List Byte) (m : Memory) (a i : Nat) (h : i < bs.length) :
    mget (mwrite m a bs) (a + i) = bs[i] := by
  induction bs generalizing m a i with
  | nil => simp at h
  | cons x r ih =>
    rw [mwrite]
    cases i with
    | zero => rw [mget_mwrite_outside _ _ _ _ (by omega), mget_mput]; simp
    | succ i =>
      have := ih (mput m a x) (a + 1) i (by simpa using h)
      rw [show a + (i + 1) = a + 1 + i by omega, this]; simp

theorem mread_mwrite_self (bs : List Byte) (m : Memory) (a : Nat) : mread (mwrite m a bs) a bs.length = bs := by
  have key : ∀ (n i : Nat), i + n = bs.length → mread (mwrite m a bs) (a + i) n = bs.drop i := by
    intro n
    induction n with
    | zero => intro i h; simp [mread, List.drop_eq_nil_of_le (show bs.length ≤ i by omega)]
    | succ n ih =>
      intro i h
      have hi : i < bs.length := by omega
      rw [mread, mget_mwrite_inside _ _ _ _ hi, show a + i + 1 = a + (i + 1) by omega, ih (i + 1) (by omega),
        List.drop_eq_getElem_cons hi]
  simpa using key bs.length 0 (by omega)

theorem mread_mwrite_outside (bs : List Byte) (m : Memory) (a b n : Nat) (h : b + n ≤ a ∨ a + bs.length ≤ b) :
    mread (mwrite m a bs) b n = mread m b n := by
  induction n generalizing b with
  | zero => rfl
  | succ n ih => rw [mread, mread, mget_mwrite_outside _ _ _ _ (by omega), ih (b + 1) (by omega)]

/-! ### A descriptor's reserved bits -/

@[simp] theorem tdBytes_length (a : Nat) (bs : List Byte) : (tdBytes a bs).length = bs.length := by
  unfold tdBytes; split <;> simp

/-- What local memory holds of bytes written to it. -/
theorem tdBytes_getElem (a : Nat) (bs : List Byte) (i : Nat) (h : i < (tdBytes a bs).length) :
    (tdBytes a bs)[i] = asHeld (a + i) (bs[i]'(by simpa using h)) := by
  have h' : i < bs.length := by simpa using h
  unfold asHeld
  by_cases c : (a + bs.length ≤ 0x1E000 || 0x1E400 ≤ a) = true
  · simp only [tdBytes, if_pos c]
    simp only [Bool.or_eq_true, decide_eq_true_eq] at c
    rw [if_neg (by omega)]
  · simp only [tdBytes, if_neg c, List.getElem_zipWith, List.getElem_range, Bool.and_eq_true, decide_eq_true_eq, beq_iff_eq, and_assoc]

/-- Bytes written by a core read back as local memory holds them. -/
theorem mget_lwrite_inside (c : Core) (a : Nat) (bs : List Byte) (i : Nat) (h : i < bs.length) :
    mget (c.lwrite a bs).lmem (a + i) = asHeld (a + i) bs[i] := by
  show mget (mwrite c.lmem a (tdBytes a bs)) (a + i) = _
  rw [mget_mwrite_inside _ _ _ _ (by simpa using h), tdBytes_getElem]

/-- Outside them, local memory reads as before. -/
theorem mget_lwrite_outside (c : Core) (a b : Nat) (bs : List Byte) (h : b < a ∨ a + bs.length ≤ b) :
    mget (c.lwrite a bs).lmem b = mget c.lmem b := by
  show mget (mwrite c.lmem a (tdBytes a bs)) b = _
  exact mget_mwrite_outside _ _ _ _ (by simpa using h)

theorem mread_congr {m m' : Memory} {a n : Nat} (h : ∀ b, a ≤ b → b < a + n → mget m b = mget m' b) : mread m a n = mread m' a n := by
  induction n generalizing a with
  | zero => rfl
  | succ n ih =>
    rw [mread, mread, h a (by omega) (by omega), ih fun b _ _ => h b (by omega) (by omega)]

theorem Memory.wfFrom_mono {m : Memory} {lo lo' : Nat} (h : lo' ≤ lo) (w : Memory.wfFrom lo m = true) : Memory.wfFrom lo' m = true := by
  cases m with
  | nil => rfl
  | cons e r => simp only [Memory.wfFrom, Bool.and_eq_true, decide_eq_true_eq] at *; exact ⟨⟨by omega, w.1.2⟩, w.2⟩

theorem wfFrom_kput {m : Memory} {lo a : Nat} {v : Byte} (hv : v ≠ 0) (ha : lo ≤ a) (w : Memory.wfFrom lo m = true) :
    Memory.wfFrom lo (kput m a v) = true := by
  induction m generalizing lo with
  | nil => simpa [kput, Memory.wfFrom, ha] using hv
  | cons e r ih =>
    obtain ⟨j, u⟩ := e
    simp only [Memory.wfFrom, Bool.and_eq_true, decide_eq_true_eq] at w
    simp only [kput]
    split
    · simp only [Memory.wfFrom, Bool.and_eq_true, decide_eq_true_eq]
      exact ⟨⟨ha, by simpa using hv⟩, ⟨by omega, w.1.2⟩, w.2⟩
    · split
      · subst_vars
        simp only [Memory.wfFrom, Bool.and_eq_true, decide_eq_true_eq]
        exact ⟨⟨ha, by simpa using hv⟩, w.2⟩
      · simp only [Memory.wfFrom, Bool.and_eq_true, decide_eq_true_eq]
        exact ⟨w.1, ih (by omega) w.2⟩

theorem wfFrom_filter {m : Memory} {lo : Nat} (p : Host.Cell → Bool) (w : Memory.wfFrom lo m = true) :
    Memory.wfFrom lo (m.filter p) = true := by
  induction m generalizing lo with
  | nil => rfl
  | cons e r ih =>
    obtain ⟨j, u⟩ := e
    simp only [Memory.wfFrom, Bool.and_eq_true, decide_eq_true_eq] at w
    rw [List.filter_cons]
    split
    · simp only [Memory.wfFrom, Bool.and_eq_true, decide_eq_true_eq]; exact ⟨w.1, ih w.2⟩
    · exact Memory.wfFrom_mono (by omega) (ih w.2)

/-- Every write keeps the canonical form. -/
theorem Memory.wf_mput {m : Memory} (a : Nat) (v : Byte) (w : Memory.wf m = true) : Memory.wf (mput m a v) = true := by
  unfold mput
  split
  · exact wfFrom_filter _ w
  · exact wfFrom_kput ‹_› (Nat.zero_le _) w

theorem Memory.wf_mwrite (bs : List Byte) {m : Memory} (a : Nat) (w : Memory.wf m = true) : Memory.wf (mwrite m a bs) = true := by
  induction bs generalizing m a with
  | nil => exact w
  | cons x r ih => exact ih _ (Memory.wf_mput _ _ w)

theorem Memory.wf_mputNat {m : Memory} (a n v : Nat) (w : Memory.wf m = true) : Memory.wf (mputNat m a n v) = true :=
  Memory.wf_mwrite _ _ w

@[simp] theorem leBytes_length (n v : Nat) : (leBytes n v).length = n := by
  induction n generalizing v with
  | zero => rfl
  | succ n ih => simp [leBytes, ih]

theorem leNat_leBytes (n v : Nat) : leNat (leBytes n v) = v % 2 ^ (8 * n) := by
  induction n generalizing v with
  | zero => simp [leBytes, leNat, Nat.mod_one]
  | succ n ih =>
    rw [leBytes, leNat, ih, show 8 * (n + 1) = 8 + 8 * n by omega, Nat.pow_add, Nat.mod_mul]
    simp

/-- A number written reads back, as far as it fits. -/
theorem mnat_mputNat (m : Memory) (a n v : Nat) : mnat (mputNat m a n v) a n = v % 2 ^ (8 * n) := by
  have := mread_mwrite_self (leBytes n v) m a
  rw [leBytes_length] at this
  rw [mnat, mputNat, this, leNat_leBytes]

/-! ### Parts of the state -/

@[simp] theorem State.core_setCore (s : State) (k : Nat) (c : Core) : (s.setCore k c).core k = c := by
  simp [State.core, State.setCore]
theorem State.core_setCore_ne (s : State) {j k : Nat} (c : Core) (h : j ≠ k) : (s.setCore k c).core j = s.core j := by
  simp [State.core, State.setCore, kget_kput_ne _ _ h]
@[simp] theorem State.clus_setClus (s : State) (k : Nat) (c : Cluster) : (s.setClus k c).clus k = c := by
  simp [State.clus, State.setClus]
theorem State.clus_setClus_ne (s : State) {j k : Nat} (c : Cluster) (h : j ≠ k) : (s.setClus k c).clus j = s.clus j := by
  simp [State.clus, State.setClus, kget_kput_ne _ _ h]
@[simp] theorem State.stat_setStat (s : State) (k : Nat) (c : CoreStat) : (s.setStat k c).stat k = c := by
  simp [State.stat, State.setStat]
@[simp] theorem State.slice_setSlice (s : State) (k : Nat) (c : CacheSlice) : (s.setSlice k c).slice k = c := by
  simp [State.slice, State.setSlice]
@[simp] theorem State.terr_setTerr (s : State) (k : Nat) (c : Terr) : (s.setTerr k c).terr k = c := by
  simp [State.terr, State.setTerr]

@[simp] theorem State.core_setStat (s : State) (j k : Nat) (c : CoreStat) : (s.setStat k c).core j = s.core j := rfl
@[simp] theorem State.core_setClus (s : State) (j k : Nat) (c : Cluster) : (s.setClus k c).core j = s.core j := rfl
@[simp] theorem State.core_setSlice (s : State) (j k : Nat) (c : CacheSlice) : (s.setSlice k c).core j = s.core j := rfl
@[simp] theorem State.core_setTerr (s : State) (j k : Nat) (c : Terr) : (s.setTerr k c).core j = s.core j := rfl
@[simp] theorem State.core_send (s : State) (j : Nat) (m : Msg) : (s.send m).core j = s.core j := rfl
@[simp] theorem State.core_bump (s : State) (j : Nat) : s.bump.core j = s.core j := rfl
@[simp] theorem State.clus_setCore (s : State) (j k : Nat) (c : Core) : (s.setCore k c).clus j = s.clus j := rfl
@[simp] theorem State.stat_setCore (s : State) (j k : Nat) (c : Core) : (s.setCore k c).stat j = s.stat j := rfl
@[simp] theorem State.slice_setCore (s : State) (j k : Nat) (c : Core) : (s.setCore k c).slice j = s.slice j := rfl
@[simp] theorem State.terr_setCore (s : State) (j k : Nat) (c : Core) : (s.setCore k c).terr j = s.terr j := rfl

@[simp] theorem Core.ctx_setCtx (c : Core) (x : Nat) (v : Ctx) : (c.setCtx x v).ctx x = v := by
  simp [Core.ctx, Core.setCtx]
theorem Core.ctx_setCtx_ne (c : Core) {x y : Nat} (v : Ctx) (h : y ≠ x) : (c.setCtx x v).ctx y = c.ctx y := by
  simp [Core.ctx, Core.setCtx, kget_kput_ne _ _ h]
@[simp] theorem State.ctx_setCtx (s : State) (k x : Nat) (v : Ctx) : (s.setCtx k x v).ctx k x = v := by
  simp [State.ctx, State.setCtx]
@[simp] theorem State.cx_setCx (s : State) (v : Ctx) : (s.setCx v).cx = v := by
  simp [State.cx, State.setCx, State.ctx, State.setCtx]
@[simp] theorem State.me_setCx (s : State) (v : Ctx) : (s.setCx v).me = s.me.setCtx s.cur.2 v := by
  simp [State.me, State.setCx, State.setCtx]
@[simp] theorem State.me_setMe (s : State) (v : Core) : (s.setMe v).me = v := by
  simp [State.me, State.setMe]
theorem State.cx_eq (s : State) : s.cx = s.me.ctx s.cur.2 := rfl
@[simp] theorem State.cx_setMe (s : State) (v : Core) : (s.setMe v).cx = v.ctx s.cur.2 := by
  rw [State.cx_eq, State.me_setMe]; rfl
@[simp] theorem State.cx_send (s : State) (m : Msg) : (s.send m).cx = s.cx := rfl
@[simp] theorem State.me_send (s : State) (m : Msg) : (s.send m).me = s.me := rfl
@[simp] theorem State.cx_bump (s : State) : s.bump.cx = s.cx := rfl
@[simp] theorem State.me_bump (s : State) : s.bump.me = s.me := rfl

theorem kput_kput (m : KMap α) (k : Nat) (v w : α) : kput (kput m k v) k w = kput m k w := by
  induction m with
  | nil => simp [kput]
  | cons e r ih =>
    obtain ⟨j, u⟩ := e
    by_cases h1 : k < j
    · simp [kput, h1]
    · by_cases h2 : j = k
      · simp [kput, h2]
      · simp [kput, h1, h2, ih]
@[simp] theorem State.setCx_setCx (s : State) (v w : Ctx) : (s.setCx v).setCx w = s.setCx w := by
  simp [State.setCx, State.setCtx, State.setCore, State.core, Core.setCtx, kput_kput]

/-- A change of the executing context alone changes nothing outside it. -/
theorem OnlyCtx.setCx (s : State) (v : Ctx) : OnlyCtx s (s.setCx v) := by
  refine ⟨⟨rfl, fun j h => State.core_setCore_ne _ _ h⟩, by simp [Core.setCtx], fun y h => ?_⟩
  simp [Core.setCtx, kget_kput_ne _ _ h]

/-! ### The shape of a word's meaning -/

/-- The state in which the body runs: the word has met its HWAIT (R47). -/
def State.past (s : State) : State := if s.cx.latch.wait.isSome ∧ s.cx.waited = false then s.setCx { s.cx with waited := true } else s

/-- That state differs from the one before in the mark alone. -/
theorem State.past_cx (s : State) : ∃ w, s.past.cx = { s.cx with waited := w } := by
  unfold State.past; split
  · exact ⟨true, by simp⟩
  · exact ⟨s.cx.waited, rfl⟩
@[simp] theorem State.past_setCx (s : State) (v : Ctx) : s.past.setCx v = s.setCx v := by
  unfold State.past; split <;> simp
@[simp] theorem State.past_now (s : State) : s.past.now = s.now := by unfold State.past; split <;> rfl
@[simp] theorem State.past_cur (s : State) : s.past.cur = s.cur := by unfold State.past; split <;> rfl
@[simp] theorem State.past_reg (s : State) (r : Reg) : s.past.cx.reg r = s.cx.reg r := by
  obtain ⟨w, h⟩ := s.past_cx; rw [h]; rfl
theorem State.readable.past {s : State} {rs : List Reg} (h : s.readable rs) : s.past.readable rs := by
  obtain ⟨w, e⟩ := s.past_cx; unfold State.readable at *; rw [e]; exact h

/-- A complete latched wait lets the word go on. -/
theorem hwait_of_cleared {s : State} {lv : Level} (h : s.cleared lv) (i : Instr) (body : State → State) : s.hwait i body = body s.past := by
  unfold State.hwait State.past
  have h2 := h.2
  cases hw : s.cx.latch.wait with
  | none => simp [hw]
  | some p =>
    rw [hw] at h2
    obtain ⟨h2, h3⟩ := h2
    cases hv : s.cx.waited <;> simp [-BitVec.getLsbD_eq_getElem, h2, h3, hw, hv]

/-- A word that passes its first checks comes to its body. -/
theorem issue_of_canIssue {s : State} {i : Instr} {lv : Level} (h : s.canIssue i lv) (body : State → State) :
    s.issue i lv body = body s.past := by
  obtain ⟨h1, h2, h3⟩ := h
  unfold State.issue State.issueWith
  have a : (!i.wf || (s.cx.latch.imx != 0 && !formI i)) = false := by
    rcases h2 with h2 | h2 <;> simp [h1, h2]
  simp only [a, Bool.false_eq_true, ↓reduceIte, Nat.not_lt.mpr h3.1]
  exact hwait_of_cleared h3 i body

theorem canIssue_of_ready {s : State} {i : Instr} {lv : Level} (h : s.ready lv) (w : i.wf = true) : s.canIssue i lv :=
  ⟨w, .inl h.1, h.2.1⟩

/-- Everything that comes before a word's body: a refusal at decode, a refusal by level, a full queue, a local address of the core image, a
latched wait that parks or faults; or the body, with the wait met. -/
theorem issueWith_cases (s : State) (i : Instr) (lv : Level) (full : State → Bool) (image : State → Option Nat) (body : State → State) :
    s.issueWith i lv full image body = s.trap illegalOp (trapVal i) ∨ s.issueWith i lv full image body = s.trap privilege (trapVal i)
      ∨ (∃ a, image s = some a ∧ s.issueWith i lv full image body = s.trap privilege (word a))
      ∨ (∃ w, s.issueWith i lv full image body = s.park w) ∨ s.issueWith i lv full image body = s.trap asyncFault (wordOf i)
      ∨ s.issueWith i lv full image body = body s ∨ s.issueWith i lv full image body = body (s.setCx { s.cx with waited := true }) := by
  unfold State.issueWith State.hwait
  dsimp only
  split
  · simp
  split
  · simp
  split
  · exact .inr (.inr (.inr (.inl ⟨_, rfl⟩)))
  split
  · exact .inr (.inr (.inl ⟨_, ‹_›, rfl⟩))
  split
  · simp
  split
  · simp
  split
  · exact .inr (.inr (.inr (.inl ⟨_, rfl⟩)))
  split <;> simp

/-- Readable sources let the word go on. -/
theorem withRegs_of_readable {s : State} {rs : List Reg} (h : s.readable rs) (i : Instr) (k : State → State) : s.withRegs i rs k = k s := by
  have a : rs.any s.cx.isBad = false := by
    rw [List.any_eq_false]; intro r hr; simp [(h r hr).2]
  have b : rs.find? (fun r => !s.cx.isFull r || s.cx.loading r) = none := by
    rw [List.find?_eq_none]; intro r hr; simp [(h r hr).1, (h r hr).2.2]
  simp [State.withRegs, a, b]

/-- Completion in order: the context goes on at the next word. -/
theorem finish_of_inOrder {s : State} (h : s.inOrder) : s.finish = s.setCx (s.cx.complete s.now (s.cx.pc + 4)) := by
  simp [State.finish, h.1, Ctx.streamed, h.2]

/-- Writing a register and completing, in order. -/
theorem done_of_inOrder {s : State} (h : s.inOrder) (d : Reg) (v : Word) :
    s.done d v = s.setCx ((s.cx.setReg d v).complete s.now (s.cx.pc + 4)) := by
  unfold State.done
  rw [finish_of_inOrder (by simpa [State.inOrder] using h)]
  simp

/-- Trap entry with a handler enabled (R89). -/
theorem trapped_of_canTrap {s : State} (h : s.canTrap) (cause : BitVec 8) (eval : Word) : Trapped s (s.trap cause eval) cause eval := by
  unfold State.trap
  simp only [h.1, h.2.1, h.2.2, Option.isSome_none, Bool.not_true, Bool.or_self, Bool.false_eq_true, ↓reduceIte]
  refine ⟨OnlyCtx.setCx _ _, ?_⟩
  simp [Ctx.streamed, RegsSame, Ctx.reg, Ctx.isFull, Ctx.isBad]

/-! ### Registers -/

/-- A load under way loses its destination to a later write of it, and is otherwise as before (R139). -/
theorem load_setReg (c : Ctx) (d : Reg) (v : Word) :
    (c.setReg d v).load = c.load ∨ (c.setReg d v).load = c.load.map (fun l => { l with lost := true }) := by
  unfold Ctx.setReg
  cases c.load with
  | none => exact .inl rfl
  | some l => by_cases h : l.rd = d <;> simp [h]

theorem reg_setReg (c : Ctx) (d r : Reg) (v : Word) : (c.setReg d v).reg r = if r = d ∧ r ≠ 0 then v else c.reg r := by
  unfold Ctx.setReg Ctx.putReg Ctx.reg
  by_cases h : d = 0#5
  · subst h; by_cases h2 : r = 0#5 <;> simp [h2]
  · by_cases h2 : r = 0#5
    · simp [h2, Ne.symm h]
    · by_cases h3 : r = d
      · subst h3; simp [h2]
      · have : d.toNat ≠ r.toNat := fun e => h3 (BitVec.eq_of_toNat_eq e.symm)
        simp [h, h2, h3, Vector.getElem_set_ne _ _ this]

theorem bit_or (x : BitVec 32) (d r : Reg) : (x ||| (1#32 <<< d.toNat)).getLsbD r.toNat = (x.getLsbD r.toNat || r == d) := by
  have := d.isLt; have := r.isLt
  rw [BitVec.getLsbD_or, BitVec.getLsbD_shiftLeft, BitVec.getLsbD_one]
  by_cases h : r = d
  · subst h; simp; omega
  · have hn : r.toNat ≠ d.toNat := fun e => h (BitVec.eq_of_toNat_eq e)
    have : (r == d) = false := by simpa using h
    rw [this]; simp; omega

theorem bit_clear (x : BitVec 32) (d r : Reg) : (x &&& ~~~(1#32 <<< d.toNat)).getLsbD r.toNat = (x.getLsbD r.toNat && r != d) := by
  have := d.isLt; have := r.isLt
  rw [BitVec.getLsbD_and, BitVec.getLsbD_not, BitVec.getLsbD_shiftLeft, BitVec.getLsbD_one]
  by_cases h : r = d
  · subst h; simp
  · have hn : r.toNat ≠ d.toNat := fun e => h (BitVec.eq_of_toNat_eq e)
    have : (r != d) = true := by simpa using h
    rw [this]; simp; omega

theorem isFull_setReg (c : Ctx) (d r : Reg) (v : Word) : (c.setReg d v).isFull r = (r == d || c.isFull r) := by
  unfold Ctx.setReg Ctx.putReg Ctx.isFull
  by_cases h : d = 0
  · subst h; by_cases h2 : r = 0#5 <;> simp [h2]
  · simp only [h, ↓reduceIte, bit_or]
    cases r == 0 <;> cases r == d <;> simp

theorem isBad_setReg (c : Ctx) (d r : Reg) (v : Word) : (c.setReg d v).isBad r = (c.isBad r && r != d) := by
  unfold Ctx.setReg Ctx.putReg Ctx.isBad
  by_cases h : d = 0
  · subst h; by_cases h2 : r = 0#5 <;> simp [h2]
  · simp only [h, ↓reduceIte, bit_clear]
    cases r != 0 <;> simp

@[simp] theorem reg_empty (c : Ctx) (e r : Reg) : (c.empty e).reg r = c.reg r := rfl
@[simp] theorem isBad_empty (c : Ctx) (e r : Reg) : (c.empty e).isBad r = c.isBad r := rfl
theorem isFull_empty (c : Ctx) (e r : Reg) : (c.empty e).isFull r = (c.isFull r && !(r == e && r != 0)) := by
  unfold Ctx.empty Ctx.isFull
  simp only [bit_clear]
  by_cases h : r = 0#5
  · simp [h]
  · have : (r == 0#5) = false := by simpa using h
    simp [this, bne]

theorem RegFile.setReg (c : Ctx) (d : Reg) (v : Word) : RegFile c (c.setReg d v) none d v :=
  ⟨fun r => reg_setReg c d r v, fun r => by rw [isFull_setReg]; simp, fun r => isBad_setReg c d r v⟩

theorem RegFile.take (c : Ctx) (e d : Reg) (v : Word) : RegFile c ((c.empty e).setReg d v) (some e) d v :=
  ⟨fun r => by rw [reg_setReg]; rfl, fun r => by
    rw [isFull_setReg, isFull_empty, show (some e == some r) = (r == e) from Bool.beq_comm], fun r => by rw [isBad_setReg]; rfl⟩

end Sys2Proof.Machine
end

