-- ==== Sys2Proof/Laws/Helpers.lean ====
section
/-! SUPPORT. What ending a helper does (R96, R97). -/

namespace Sys2Proof.Machine

theorem kget_map {α : Type} (m : KMap α) (f : α → α) (k : Nat) : kget (m.map (fun e => (e.1, f e.2))) k = (kget m k).map f := by
  induction m with
  | nil => rfl
  | cons e r ih => obtain ⟨j, v⟩ := e; simp only [List.map_cons, kget]; split <;> simp [ih]

theorem State.dropArrivals_frame (s : State) (k : Nat) : ∃ ts, s.dropArrivals k = { s with terrs := ts } := by
  unfold State.dropArrivals
  split
  · exact ⟨s.terrs, rfl⟩
  · dsimp only; split
    · exact ⟨s.terrs, rfl⟩
    · exact ⟨_, rfl⟩

@[simp] theorem State.dropArrivals_core (s : State) (k j : Nat) : (s.dropArrivals k).core j = s.core j := by
  obtain ⟨ts, h⟩ := s.dropArrivals_frame k; rw [h]; rfl
@[simp] theorem State.dropArrivals_gmem (s : State) (k : Nat) : (s.dropArrivals k).gmem = s.gmem := by
  obtain ⟨ts, h⟩ := s.dropArrivals_frame k; rw [h]
@[simp] theorem State.dropArrivals_net (s : State) (k : Nat) : (s.dropArrivals k).net = s.net := by
  obtain ⟨ts, h⟩ := s.dropArrivals_frame k; rw [h]
@[simp] theorem State.dropArrivals_cur (s : State) (k : Nat) : (s.dropArrivals k).cur = s.cur := by
  obtain ⟨ts, h⟩ := s.dropArrivals_frame k; rw [h]

theorem wake_spec (c : Core) (q : Option Nat) :
    let c2 := match q with | some p => if c.live p then c.setCtx p { c.ctx p with event := true } else c | none => c
    (∀ x, c.live x = false → c2.live x = false) ∧ c2.ended = c.ended ∧ c2.lmem = c.lmem := by
  cases q with
  | none => exact ⟨fun _ h => h, rfl, rfl⟩
  | some p =>
    dsimp only
    by_cases hl : c.live p = true
    · simp only [hl, ↓reduceIte]
      refine ⟨fun x hx => ?_, rfl, rfl⟩
      have hne : x ≠ p := by intro e; subst e; rw [hx] at hl; exact absurd hl (by decide)
      simpa only [Core.live, Core.setCtx, kget_kput_ne _ _ hne] using hx
    · simp only [hl, Bool.false_eq_true, ↓reduceIte]
      exact ⟨fun _ h => h, trivial, trivial⟩

/-- A context that has left the core is not live. -/
theorem Core.bury_live (c : Core) (x : Nat) : (c.bury x).live x = false := by
  have h : ∀ f : Ctx → Ctx, kget ((kdel c.ctxs x).map (fun e => (e.1, f e.2))) x = none := by
    intro f; rw [kget_map, kget_kdel]; simp
  simp only [Core.live, Core.bury, h (fun d => { d with parent := if d.parent = some x then some 15 else d.parent }), Option.isSome_none]

/-- An ended helper is not live; its record holds its status, but for an open packet that is aborted. -/
theorem State.endHelper_spec (s : State) (k x kind : Nat) (cause : BitVec 8) (hp : ((s.core k).ctx x).pkt = none) :
    ((s.endHelper k x kind cause).core k).live x = false
      ∧ (∃ e, kget ((s.endHelper k x kind cause).core k).ended x = some e ∧ e.kind = kind ∧ e.cause = cause
          ∧ e.parent = ((s.core k).ctx x).parent ∧ e.wide = (s.core k).ctx x)
      ∧ ((s.endHelper k x kind cause).core k).lmem = (s.core k).lmem ∧ (s.endHelper k x kind cause).gmem = s.gmem
      ∧ (s.endHelper k x kind cause).net = s.net ∧ ∀ j, j ≠ k → (s.endHelper k x kind cause).core j = s.core j := by
  unfold State.endHelper
  simp only [hp, State.dropPkt, Option.isSome_none, Bool.false_eq_true, false_and, ↓reduceIte, State.dropArrivals_core,
    State.dropArrivals_gmem, State.dropArrivals_net, State.core_setCore, State.setCore_gmem, State.setCore_net, true_and]
  obtain ⟨h1, h2, h3⟩ := wake_spec
    { (s.core k).bury x with
      ended := kput ((s.core k).bury x).ended x
        { kind := kind, cause := cause, parent := ((s.core k).ctx x).parent
          drained := !((s.core k).pending x) && ((s.core k).ctx x).parent.isSome, wide := (s.core k).ctx x
          task := ((s.core k).ctx x).task.map (fun u => if u.pair.any (·.2) then { u with rec_ := [] } else u) } }
    ((s.core k).ctx x).parent
  refine ⟨h1 x (Core.bury_live _ x), ?_, h3, fun j hj => State.core_setCore_ne _ _ hj⟩
  exact ⟨_, (congrArg (fun m => kget m x) h2).trans (kget_kput_self _ _ _), rfl, rfl, rfl, rfl⟩

end Sys2Proof.Machine
end

