-- ==== Sys2Proof/Laws/Words.lean ====
section
/-! SUPPORT. How the words that write one register complete. -/

namespace Sys2Proof.Machine

theorem Retired.setCx {s : State} {c : Ctx} {pc : Nat} (hb : c.burnLeft s.now = s.cx.burnLeft s.now) (hy : c.yld = s.cx.yld)
    (hl : c.latch = s.cx.latch) : Retired s (s.setCx (c.complete s.now pc)) pc := by
  refine ⟨by simp, by simp, by simp, by simp, ?_, ?_⟩
  · simp only [Ctx.burnLeft, State.cx_setCx, Ctx.complete, Ctx.setRun, RunSt.ages] at hb ⊢
    simpa using hb
  · simp [Ctx.complete, Ctx.gives, hy, hl]

theorem RegFile.complete {c c' : Ctx} {e : Option Reg} {d : Reg} {v : Word} (h : RegFile c c' e d v) (n pc : Nat) :
    RegFile c (c'.complete n pc) e d v := ⟨h.1, h.2.1, h.2.2⟩

/-- The lemma for a word that ends in `done`, having emptied `e`. -/
theorem Gives.of_done {i : Instr} {s : State} {e : Option Reg} {d : Reg} {v : Word} (ho : s.inOrder)
    (h : exec i s = .next ((match e with | none => s | some a => s.setCx (s.cx.empty a)).done d v)) : Gives i s e d v := by
  cases e with
  | none =>
    dsimp only at h
    rw [done_of_inOrder ho] at h
    refine ⟨_, h, OnlyCtx.setCx _ _, ?_, ?_, ?_⟩
    · unfold RegsOnly; constructor; · simp [Ctx.complete, Ctx.setRun]
      simpa using load_setReg s.cx d v
    · rw [State.cx_setCx]; exact (RegFile.setReg s.cx d v).complete _ _
    · apply Retired.setCx <;> simp [Ctx.burnLeft]
  | some a =>
    dsimp only at h
    rw [done_of_inOrder (by simpa [State.inOrder] using ho)] at h
    simp only [State.setCx_setCx, State.cx_setCx, State.setCx_now, Ctx.empty_pc] at h
    refine ⟨_, h, OnlyCtx.setCx _ _, ?_, ?_, ?_⟩
    · unfold RegsOnly; constructor; · simp [Ctx.complete, Ctx.setRun]
      simpa using load_setReg (s.cx.empty a) d v
    · rw [State.cx_setCx]; exact (RegFile.take s.cx a d v).complete _ _
    · apply Retired.setCx <;> simp [Ctx.burnLeft]

theorem Gives.of_take {i : Instr} {s : State} {w : Bool} {a d : Reg} {v : Word} (ho : s.inOrder)
    (h : exec i s = .next ((s.take w a).done d v)) : Gives i s (if w then some a else none) d v := by
  apply Gives.of_done ho; rw [h]; cases w <;> rfl

theorem complete_unmarked (c : Ctx) (b : Bool) (d : Reg) (v : Word) (n p : Nat) :
    (({ c with waited := b } : Ctx).setReg d v).complete n p = (c.setReg d v).complete n p := by
  by_cases h : d = 0#5 <;> simp [Ctx.setReg, Ctx.putReg, Ctx.complete, Ctx.setRun, Ctx.gives, Ctx.aheadOf, Ctx.burnLeft, h]

/-- The mark of a met wait goes when the word completes (R47). -/
theorem done_past {s : State} (h : s.inOrder) (w : Bool) (a d : Reg) (v : Word) : (s.past.take w a).done d v = (s.take w a).done d v := by
  obtain ⟨b, e⟩ := s.past_cx
  have hp : s.past.inOrder := by simpa [State.inOrder, e] using h
  cases w
  · simp only [State.take, Bool.false_eq_true, ↓reduceIte]
    rw [done_of_inOrder hp, done_of_inOrder h, State.past_setCx, State.past_now, e, complete_unmarked]
  · simp only [State.take, ↓reduceIte, State.past_setCx]
    rw [done_of_inOrder (by simpa [State.inOrder, e] using h), done_of_inOrder (by simpa [State.inOrder] using h)]
    simp only [State.cx_setCx, State.setCx_setCx, State.setCx_now, e]
    exact congrArg s.setCx (complete_unmarked (s.cx.empty a) b d v s.now (s.cx.pc + 4))

theorem aluWord_eq {s : State} {i : Instr} {f : AluFn} {d a b : Reg} {w : Bool} (hr : s.ready .u) (hs : s.readable [a, b])
    (hw : i.wf = true) : aluWord i f d a b w s = (s.take w a).done d (alu f (s.cx.reg a) (s.cx.reg b)) := by
  rw [aluWord, issue_of_canIssue (canIssue_of_ready hr hw), withRegs_of_readable hs.past]; simp [done_past hr.2.2]

theorem aluWord1_eq {s : State} {i : Instr} {f : Word → Word} {d a : Reg} {w : Bool} (hr : s.ready .u) (hs : s.readable [a])
    (hw : i.wf = true) : aluWord1 i f d a w s = (s.take w a).done d (f (s.cx.reg a)) := by
  rw [aluWord1, issue_of_canIssue (canIssue_of_ready hr hw), withRegs_of_readable hs.past]; simp [done_past hr.2.2]

theorem aluWord3_eq {s : State} {i : Instr} {f : Word → Word → Word → Word} {d a b c : Reg} {w : Bool} (hr : s.ready .u)
    (hs : s.readable [a, b, c]) (hw : i.wf = true) :
    aluWord3 i f d a b c w s = (s.take w a).done d (f (s.cx.reg a) (s.cx.reg b) (s.cx.reg c)) := by
  rw [aluWord3, issue_of_canIssue (canIssue_of_ready hr hw), withRegs_of_readable hs.past]; simp [done_past hr.2.2]

end Sys2Proof.Machine
end

