-- ==== Sys2Proof/Tests/Slice0.lean ====
section
/-! SUPPORT. The model's own tests: ill-formed terms, words of the spec's encodings, small steps, and a witness for the hypotheses of every
statement. -/

open Sys2Proof Sys2Proof.Machine

namespace Sys2Proof.Tests

set_option Elab.async false
/-! ### Ill-formed terms: one for each check of `Instr.wf` -/

/-- a consuming read of g0; of a one-source word; of three sources; of a jump; a sign-extended doubleword; a load's order; a store's order; an atomic of a byte; a scope; a fence's scope; a fence of its class; an acquire's scope; a release's scope; REP's index; RPBLD's count; a special register with a row of its own; the same of MTS; an element type; a one-source vector type; a logical type; an integer type; a conversion's target; a floating type; a selection's type; a move's type; a splat's type; a comparison into m0; an unordered comparison of integers; a reduction's kind; a permutation's type; a scatter's type; a mask number; m0 written; a mask read; a mask set; a pointer number; a pointer stepped; a pointer read; a queue's source; guard slot 0; a push's registers; a mailbox word's registers; HSTART's arguments; HSTART without arguments; SSTART's skew; GANG's tag; a Gaussian dimension; GSEND's dimension; TINVB's mode; HCACHE's policy. -/
theorem smoke_wf :
    ([ .add 1 0 2 true,
       .clz 1 0 true,
       .sel 1 0 2 true 3,
       .jr 0 true,
       .ld 1 2 3 true 0 0,
       .ldg 1 2 2 false 2 0,
       .st 1 2 2 1 0,
       .aadd 1 2 3 0 0,
       .aaddg 1 2 3 2 0 5,
       .fence 0 1 5,
       .fence 1 1 0,
       .acquire 1 0,
       .release 1 5,
       .rep 0 1 0 0,
       .rpbld 0,
       .mfs 1 20,
       .mts 1 16,
       .vadd 1 2 3 0 9 false false,
       .vabs 1 2 0 9 false false,
       .vand 1 2 3 0 11 false false,
       .vshl 1 2 3 0 6 false false,
       .vcvt 1 2 5 0 0 false false true false,
       .vrcp 1 2 0 5 false false,
       .vsel 1 2 3 0 11 false,
       .vmov 1 2 0 11 false false,
       .vsplat 1 0 11 false false,
       .vceq 0 2 3 0 0 false false,
       .vcun 1 2 3 0 0 false false,
       .vred 1 0 0 false 6,
       .vperm 1 2 3 0 11 false false,
       .vscat 1 2 3 0 11 false,
       .mand 8 1 2,
       .mnot 0 1,
       .mpop 8,
       .mset 0 1 false,
       .pset 8 1 2 false,
       .pstep 8 1 false,
       .pget 1 8,
       .qpush 0 true,
       .gdclr 0,
       .push 1 false 31 0 0,
       .mbpop 1 31,
       .hstart 1 2 7 1,
       .hstart 1 2 0 1,
       .sstart 1 2 false 0,
       .gang 1 false 255,
       .gacc 1 2 3 16 0 0,
       .gsend 1 8 0 0,
       .tinvb 1 2 3,
       .hcache 0 3 0 ] : List Instr).all (fun i => !i.wf) = true := by decide +kernel

/-- The same words, well formed. -/
theorem smoke_wf_accepts :
    ([ .add 1 2 2 true, .ld 1 2 3 false 1 0, .fence 0 1 4, .rep 1 2 0 0, .rpbld 16, .mfs 1 0, .vadd 1 2 3 0 8 false false, .vceq 1 2 3 0 0 false false,
       .hstart 1 2 6 1, .gacc 1 2 3 15 0 0, .tinvb 1 2 2 ] : List Instr).all Instr.wf = true := by decide +kernel

/-! ### Words of the spec's encodings (R33, R39 to R48, spec/opcode_table.json), bit by bit -/

/-- Words of ALU, branches, jumps and repetition (Tables 6.2, 6.5, 6.6): ADD, SHRI, BNEZ, JMP, CALL, CALLR, REP, RPBGO. -/
theorem test_decode_1 :
    decode 0b000000_11111_00001_11110_10000000000#32 = some (.add 31 1 30 true)
    ∧ decode 0b000001_10010_00001_01010_00000000101#32 = some (.shri 18 1 5)
    ∧ decode 0b000010_00111_00111_11111_11111111011#32 = some (.bnez 7 (-5))
    ∧ decode 0b000011_11111_11111_11111_11111111110#32 = some (.jmp (-2))
    ∧ decode 0b000100_00000_00000_00000_00000000011#32 = some (.call 3)
    ∧ decode 0b000101_00000_01001_00000_10000100000#32 = some (.callr 9 true)
    ∧ decode 0b000110_01010_01011_00001_00010001000#32 = some (.rep 10 11 0b10001 1)
    ∧ decode 0b000111_00000_00100_00001_00001001000#32 = some (.rpbgo 4 1 1) := by decide +kernel

/-- Words of memory, special registers (Tables 7.5 to 7.10, 2.21): LD, ST, LDG, STG, ACAS, AXORG, FENCE, SBIND, MFS, LINK_WRITE. -/
theorem test_decode_2 :
    decode 0b001000_00111_00010_01101_11111110000#32 = some (.ld 7 2 1 true 1 (-16))
    ∧ decode 0b001001_00111_00010_11010_00000000101#32 = some (.st 7 2 3 2 5)
    ∧ decode 0b001010_00111_00010_11001_00000010000#32 = some (.ldg 7 2 3 false 1 16)
    ∧ decode 0b001011_00001_00010_10000_00000000001#32 = some (.stg 1 2 2 0 1)
    ∧ decode 0b001100_00001_00010_00011_00101011000#32 = some (.acas 1 2 3 2 3)
    ∧ decode 0b001101_00001_00010_00011_10011101100#32 = some (.axorg 1 2 3 3 1 4)
    ∧ decode 0b001110_00000_00000_00000_00000010100#32 = some (.fence 0 2 4)
    ∧ decode 0b001110_00100_00101_00110_01010000000#32 = some (.sbind 4 5 6)
    ∧ decode 0b001111_10000_00000_00000_00000000001#32 = some (.mfs 16 1)
    ∧ decode 0b001111_00000_00101_00001_00000011011#32 = some (.linkWrite 5 3) := by decide +kernel

/-- Words of vectors, masks, pointers and queues (Tables 8.4, 8.5): VADD, VCLT, VPERM, MAND, PSTEP, QPOP. -/
theorem test_decode_3 :
    decode 0b010000_00101_00110_10100_00000010000#32 = some (.vadd 1 2 3 2 8 true false)
    ∧ decode 0b010001_00101_00111_00010_10001001000#32 = some (.vclt 1 2 3 4 5 false true)
    ∧ decode 0b010010_11111_01011_00001_10000111000#32 = some (.vperm 7 6 5 4 3 true true)
    ∧ decode 0b010011_00001_00010_00011_00000000000#32 = some (.mand 1 2 3)
    ∧ decode 0b010100_00011_01001_00000_10001100000#32 = some (.pstep 3 9 true)
    ∧ decode 0b010101_00100_00000_00000_00000100000#32 = some (.qpop 4) := by decide +kernel

/-- Words of descriptors, guards, tokens, objects, pushes and packets (chapters 9 and 10): TDSET, GDWAIT, TWAIT, BARWAIT, PUSHG, SNDO, RPOST, MBCNT. -/
theorem test_decode_4 :
    decode 0b010110_00100_00000_00010_00000000000#32 = some (.tdset 4 2)
    ∧ decode 0b010111_00000_00000_00101_00001100010#32 = some (.gdwait 5 3)
    ∧ decode 0b011000_00000_00000_00000_01110000001#32 = some (.twait true true 0x81)
    ∧ decode 0b011001_00100_00001_00000_00001000000#32 = some (.barwait 4 1 false)
    ∧ decode 0b011010_00101_00001_01000_01101000001#32 = some (.pushg 5 true 8 3 2)
    ∧ decode 0b011011_10001_00111_00000_00011000000#32 = some (.sndo 17 7 0 3 false)
    ∧ decode 0b011011_00010_00011_00100_01000000011#32 = some (.rpost 2 3 4 2 0)
    ∧ decode 0b011100_00101_00110_00010_00000000000#32 = some (.mbcnt 5 6) := by decide +kernel

/-- Words of groups, contexts, tasks, streams and engines (chapters 4, 12 to 15, 20): GRPBAR, HSTART, TKEY, SSTART, GANG, MMA, GELIM, GCOPY. -/
theorem test_decode_5 :
    decode 0b011101_10111_10110_00000_00000000000#32 = some (.grpbar 23 22 false)
    ∧ decode 0b011110_00011_00010_00000_11000001000#32 = some (.hstart 3 2 6 1)
    ∧ decode 0b011111_00100_00101_00001_00000000001#32 = some (.tkey 4 5 true)
    ∧ decode 0b100000_00011_00010_00000_00000010010#32 = some (.sstart 3 2 true 2)
    ∧ decode 0b100001_00001_00000_00000_00111111110#32 = some (.gang 1 true 254)
    ∧ decode 0b100010_00010_00001_00101_00100000000#32 = some (.mma 2 false false true 5 1 0)
    ∧ decode 0b100011_00101_00000_11100_10111000010#32 = some (.gelim 1 2 3 4 5 6)
    ∧ decode 0b100011_01110_00000_00011_01000001000#32 = some (.gcopy 3 4 3 2 0) := by decide +kernel

/-- Words of the system words and the hints (chapters 3, 4, 19): PRESS_NB, TRAP, TINVB, HIMM, HWAIT, HCACHE, HSCHED. -/
theorem test_decode_6 :
    decode 0b100100_00100_00101_00100_00000000001#32 = some (.pressNb 4 5)
    ∧ decode 0b100101_00000_00000_00000_11111111111#32 = some (.trap 0x7FF)
    ∧ decode 0b100101_00001_00010_00011_00000000001#32 = some (.tinvb 1 2 1)
    ∧ decode 0b110000_10011_11000_10011_01010111100#32 = some (.himm 0x2789ABC)
    ∧ decode 0b110001_00000_00000_00000_00100001111#32 = some (.hwait false true 0x0F)
    ∧ decode 0b110010_00000_00000_00000_00000111001#32 = some (.hcache 3 2 1)
    ∧ decode 0b110011_00000_00000_00000_00000001101#32 = some (.hsched true 5) := by decide +kernel

/-- The spec's own example words. -/
theorem test_decode_examples :
    decode 0x40A6A010#32 = some (.vadd 1 2 3 2 8 true false) ∧ decode 0x194B0888#32 = some (.rep 10 11 0b10001 1)
    ∧ decode 0x8DC01208#32 = some (.gcopy 3 4 2 2 0) ∧ decode 0x60000381#32 = some (.twait true true 0x81)
    ∧ decode 0x68A14341#32 = some (.pushg 5 true 8 3 2) ∧ decode 0x88412900#32 = some (.mma 2 false false true 5 1 0)
    ∧ decode 0x80620014#32 = some (.sstart 3 2 true 4) ∧ decode 0x7C850801#32 = some (.tkey 4 5 true)
    ∧ decode 0x3E000001#32 = some (.mfs 16 1) ∧ decode 0x38000014#32 = some (.fence 0 2 4) := by decide +kernel

/-- Words that no row takes: an unused opcode, a reserved bit, a function code of another form. -/
theorem test_decode_refuses :
    decode 0x98000000#32 = none ∧ decode 0x00811003#32 = none ∧ decode 0x008113A3#32 = none ∧ decode 0xFFFFFFFF#32 = none := by decide +kernel

/-! ### Checks that stand for premises -/

/-- Every register of the list is full, its parity good, and no load is still to write it. -/
theorem readable_of {s : State} {rs : List Reg} (h : ∀ r ∈ rs, s.cx.isFull r = true ∧ s.cx.isBad r = false ∧ s.cx.loading r = false) :
    s.readable rs := h

theorem inOrder_of {s : State} (h : s.cx.rep = none ∧ s.cx.mode = .loc) : s.inOrder := h

theorem canTrap_of {s : State} (h : s.cx.spr.tvec.getLsbD 0 = true ∧ s.cx.spr.inh = false ∧ s.cx.load = none) : s.canTrap := h

/-- `State.cleared`, computed. -/
def clearedB (s : State) (lv : Level) : Bool :=
  decide (lv.num ≤ s.cx.level.num)
    && (match s.cx.latch.wait with
        | none => true
        | some p => s.cx.tokensDone (p.getLsbD 8) (tokensOf (p.toNat % 256)) && s.cx.faultedTok (tokensOf (p.toNat % 256)) == none)

theorem cleared_of {s : State} {lv : Level} (h : clearedB s lv = true) : s.cleared lv := by
  unfold clearedB at h
  simp only [Bool.and_eq_true, decide_eq_true_eq] at h
  refine ⟨h.1, ?_⟩
  cases hw : s.cx.latch.wait with
  | none => trivial
  | some p => simpa [hw] using h.2

theorem ready_of {s : State} {lv : Level}
    (h : (decide (s.cx.latch.imx = 0) && clearedB s lv && decide (s.cx.rep = none) && decide (s.cx.mode = .loc)) = true) : s.ready lv := by
  simp only [Bool.and_eq_true, decide_eq_true_eq] at h
  exact ⟨h.1.1.1, cleared_of h.1.1.2, h.1.2, h.2⟩

theorem localOk_of {s : State} {a n al : Nat} {w : Bool}
    (h : (a % al = 0 ∧ a + n ≤ s.me.stashBase ∧ (s.cx.level = .u → inImage a n = false) ∧ s.cx.load = none
      ∧ s.me.wideTouches s.cur.2 a n = false) ∧ (if w then s.me.writePoisoned a n else s.me.poisoned a n) = false
      ∧ ∀ w ∈ s.me.weak, 8 * w + 8 ≤ a ∨ a + n ≤ 8 * w) : s.localOk a n al w :=
  ⟨h.1.1, h.1.2.1, h.1.2.2.1, h.1.2.2.2.1, h.1.2.2.2.2, h.2.1, h.2.2⟩

theorem translates_of {s : State} {va : Word} {n acc pa : Nat}
    (h : va.toNat % n = 0 ∧ s.cx.acc = none ∧ s.cx.load = none ∧ s.cx.rep = none ∧ s.me.spr.stashBusy = false ∧ inMap pa = true)
    (g : ((s.clus (clusOf s.cur.1)).lookup (s.trId s.cur.1) va.toNat acc).map (·.result va.toNat) = some (pa, if isReg pa then 2 else 0)) :
    s.translates va n acc pa := by
  obtain ⟨e, he⟩ := Option.map_eq_some_iff.mp g
  exact ⟨h.1, h.2.1, h.2.2.1, h.2.2.2.1, h.2.2.2.2.1, h.2.2.2.2.2, e, he⟩

theorem globalAt_of {s : State} {va : Word} {n acc pa : Nat}
    (h : (va.toNat % n = 0 ∧ s.cx.acc = none ∧ s.cx.load = none ∧ s.cx.rep = none ∧ s.me.spr.stashBusy = false ∧ inMap pa = true)
      ∧ ((s.clus (clusOf s.cur.1)).lookup (s.trId s.cur.1) va.toNat acc).map (·.result va.toNat) = some (pa, if isReg pa then 2 else 0)
      ∧ isReg pa = false ∧ s.noStorage pa = false) : s.globalAt va n acc pa := ⟨translates_of h.1 h.2.1, h.2.2⟩

theorem globalReg_of {s : State} {va : Word} {n acc pa : Nat}
    (h : (va.toNat % n = 0 ∧ s.cx.acc = none ∧ s.cx.load = none ∧ s.cx.rep = none ∧ s.me.spr.stashBusy = false ∧ inMap pa = true)
      ∧ ((s.clus (clusOf s.cur.1)).lookup (s.trId s.cur.1) va.toNat acc).map (·.result va.toNat) = some (pa, if isReg pa then 2 else 0)
      ∧ isReg pa = true ∧ s.paPrivilege s.cur.1 s.cx.level pa (acc ≠ 0) = false) : s.globalReg va n acc pa := ⟨translates_of h.1 h.2.1, h.2.2⟩

theorem wideOk_of {s : State} {i : Instr}
    (h : (∀ r ∈ cmdRegs i, s.cx.isFull r = true ∧ s.cx.isBad r = false ∧ s.cx.loading r = false) ∧ s.cx.acc = none
      ∧ (match s.cmdCheck s.cur.1 s.cx.level ((ptrUses i).map (fun u => (s.cx.ptr u.p).addr.toNat)) ((cmdRegs i).map s.cx.reg) i with
          | .ok => true
          | _ => false) = true
      ∧ s.me.queued (engOf i) s.cur.2 < (engOf i).room
      ∧ ∀ t ∈ tokOf i, (s.cx.tok t).count + s.me.reserved s.cur.2 t < 255) : Obligations.wideOk s i := by
  obtain ⟨h1, h2, h3, h4, h5⟩ := h
  refine ⟨h1, h2, ?_, h4, h5⟩
  split at h3
  · assumption
  · cases h3

theorem issues {s : State} {lv : Level} {rs : List Reg}
    (h : (decide (s.cx.latch.imx = 0) && clearedB s lv && decide (s.cx.rep = none) && decide (s.cx.mode = .loc)) = true
      ∧ ∀ r ∈ rs, s.cx.isFull r = true ∧ s.cx.isBad r = false ∧ s.cx.loading r = false) : s.ready lv ∧ s.readable rs :=
  ⟨ready_of h.1, h.2⟩

theorem targetOk_of {t : Word} (h : t.toNat % 4 = 0 ∧ t.toNat < 0x8000) : Obligations.targetOk t := h

theorem objectOk_of {s : State} {p : Nat}
    (h : (p % 16 = 0 ∧ inImage p 16 = false ∧ p + 16 ≤ s.me.stashBase ∧ s.cx.load = none ∧ s.me.wideTouches s.cur.2 p 16 = false)
      ∧ s.me.poisoned p 16 = false ∧ ∀ w ∈ s.me.weak, 8 * w + 8 ≤ p ∨ p + 16 ≤ 8 * w) : Obligations.objectOk s p :=
  ⟨h.1.1, h.1.2.1, h.1.2.2.1, h.1.2.2.2.1, h.1.2.2.2.2, h.2.1, h.2.2⟩

theorem heads_of {s : State} {k : Nat} {e : Eng} {q : Cmd} {g : GuardSt}
    (h : s.works k = true ∧ ((s.core k).eng e).run = none ∧ engOf q.instr = e ∧ (s.core k).guardFor q = g
      ∧ (if e = .push then (s.core k).nextPush else ((s.core k).eng e).next (s.core k).canStart) = some q) : s.heads k e q g := h

theorem plainStart_of {s : State} {k : Nat} {q : Cmd}
    (h : q.seq = none ∧ (s.core k).live q.ctx = true ∧ (s.ctx k q.ctx).qsBad.toNat % 2 ^ qsTakes q.instr = 0) : s.plainStart k q := h

theorem hasAnswer_of {s : State} {p v : Nat} (h : s.cx.acc.any (fun a => a == ⟨p, a.uid, some ⟨v, false, none⟩⟩) = true) : s.hasAnswer p v := by
  cases ha : s.cx.acc with
  | none => simp [ha] at h
  | some a =>
    rw [ha, Option.any_some] at h
    exact ⟨a.uid, by rw [ha, ← eq_of_beq h]⟩

theorem owes_of {s : State} {sc u : Nat}
    (h : (1 ≤ sc ∧ s.me.owesAcks s.cur.2 u = true) ∨ (sc = 4 ∧ s.me.owesFabric s.cur.2 u = true)) : Obligations.owes s sc u := h

theorem owesNot_of {s : State} {sc u : Nat}
    (h : ¬((1 ≤ sc ∧ s.me.owesAcks s.cur.2 u = true) ∨ (sc = 4 ∧ s.me.owesFabric s.cur.2 u = true))) : ¬Obligations.owes s sc u := h

/-- A check that stands for a premise, over a list of what it is made of. -/
theorem each {α : Type} {l : List α} {P Q : α → Prop} (hb : ∀ a, Q a → P a) (h : ∀ a ∈ l, Q a) : ∀ a ∈ l, P a := fun a m => hb a (h a m)

theorem some_all {α : Type} {o : Option α} {P : α → Prop} [DecidablePred P] (h : (o.all fun a => decide (P a)) = true) : ∀ a, o = some a → P a := by
  intro a ha
  subst ha
  simpa using h

theorem each_some {α β : Type} {l : List α} {f : α → Option β} {P : β → Prop} [DecidablePred P]
    (h : (l.all fun x => (f x).all fun a => decide (P a)) = true) : ∀ x ∈ l, ∀ a, f x = some a → P a := by
  intro x hx
  exact some_all (List.all_eq_true.mp h x hx)

theorem ok_of {α ε : Type} {e : Except ε α} (h : (match e with | .ok _ => true | .error _ => false) = true) : ∃ a, e = .ok a := by
  cases e with
  | ok a => exact ⟨a, rfl⟩
  | error _ => cases h

/-! ### States -/


/-- A context with the given registers written. -/
def put (l : List (Reg × Word)) (c : Ctx) : Ctx := l.foldl (fun c e => c.setReg e.1 e.2) c

/-- A context at level U with a local address, small numbers, an instruction address, and one over each bound in its registers. -/
def h0 : Ctx := put [(1, 0x1000), (2, 5), (3, 0x200), (4, 3), (5, 0x2000), (6, 0x8000), (7, 0xFFFFFFFFFFFFFFFF), (8, 0x60000), (9, 1), (10, 0x1E500), (31, 0x300)]
  (Ctx.start 0x100 .u .running)

/-- Core 1 alone is listed, as changed, and its context `x` is the executing one. -/
def oneOf (c : Core) (x : Nat) : State := { State.reset with cur := (1, x), now := 5000, cores := [(1, c)], uid := 40 }
def coreOf (x : Nat) (h : Ctx) : Core := { Core.reset 1 with ctxs := [(x, h)] }
def on (h : Ctx) : State := oneOf (coreOf 0 h) 0

def s0 : State := on h0
/-- With a trap handler at 0x400. -/
def hT : Ctx := { h0 with spr := { h0.spr with tvec := 0x401 } }
def sT : State := on hT
def atLevel (lv : Level) (s : State) : State := s.setCx { s.cx with level := lv }
def withAcc (p u v : Nat) (s : State) : State := s.setCx { s.cx with acc := some ⟨p, u, some ⟨v, false, none⟩⟩ }
def mapCore (f : Core → Core) (s : State) : State := s.setMe (f s.me)
def mem (a : Nat) (bs : List Byte) (s : State) : State := mapCore (fun c => { c with lmem := mwrite c.lmem a bs }) s
def code (a : Nat) (ws : List Nat) (s : State) : State := mapCore (fun c => { c with istore := mwrite c.istore a (ws.flatMap (leBytes 4)) }) s

/-- One and two immediates latched. -/
def sI1 : State := on { h0 with latch := { Latch.empty with imx := 1, mid := 0x2345678 } }
def sI2 : State := on { hT with latch := { Latch.empty with imx := 2, mid := 0x2345678, hi := 0x1234567 } }
/-- A hint word latched beside a priority with yld. -/
def sW : State := on { hT with latch := { Latch.empty with wait := some 0x0FF, sched := some 0xA } }
/-- The stream's word is at the head of the buffer. -/
def sS : State := mapCore (fun c => { c with stream := { c.stream with buf := [⟨3, 0, false⟩, ⟨4, 0, false⟩], next := 5, got := [4, 3] } })
  (on { hT with mode := .streamed, pc := 3 })
def sS0 : State := mapCore (fun c => { c with stream := { c.stream with buf := [⟨3, 0, false⟩], next := 4, got := [3] } })
  (on { put [(9, 0)] h0 with mode := .streamed, pc := 3 })
/-- Helper 2, a child of context 0, executes. -/
def sH : State :=
  oneOf { Core.reset 1 with ctxs := [(0, h0), (2, { h0 with parent := some 0 })] } 2
/-- The ballonet executes. -/
def sB : State := oneOf (coreOf 11 hT) 11
/-- In a handler: of a trap, and of an upcall at level T. -/
def sIn : State := on { hT with spr := { hT.spr with inh := true, epc := 0x180, hlatch := { Latch.empty with imx := 1 } } }
def sUp : State := on { hT with level := .t, spr := { hT.spr with inh := true, upc := true, upcall := 1, epc := 0x180 } }
/-- Local bytes at the address that g1 holds. -/
def sM : State := mem 0x1000 [0x81, 2, 3, 0x84, 5, 6, 7, 8] sT
/-- Accesses that have been answered. -/
def sA4 : State := withAcc 4 9 0 sM
def sA5 : State := withAcc 5 9 0x80000001 sM
def sA6 : State := withAcc 6 9 0x80000001 sM
/-- The cluster's translation cache maps the pages of g1 and of the first GDDR7 page; with no stash, and with a stash of which one line is held. -/
def tlb (pa : Nat) : TlbEntry := ⟨0, 1, 12, pa / 4096, true, true, 0, false, 0⟩
def sG : State := sM.setClus 0 { Cluster.reset with tlb := [tlb 0x7000] }
def sG1 : State := mapCore (fun c => { c with
  spr := { c.spr with stash := 1 }, lines := [(0, ⟨0x7000 / 64, 0x00FF, 0x0001, none, 3⟩)] }) sG
def sG2 : State := mapCore (fun c => { c with
  spr := { c.spr with stash := 1 }, lines := [(0, ⟨0x7000 / 64, 0x00FF, 0, some 1, 3⟩)], regions := [(1, ⟨0x1000, 64, 0x1000⟩)] }) sG
/-- Levels. -/
def sLT : State := atLevel .t sT
def sLS : State := atLevel .s sT
/-- Pointers, queues, guards and tokens in use. -/
def sQ : State := on { hT with
  p := hT.p.set 1 ⟨0x1000, 0x10⟩, qs := [7, 8], qw := [⟨3, some (9, false)⟩, ⟨4, none⟩], c := (hT.c.set 1 .yes).set 2 .no
  t := ((hT.t.set 1 ⟨.done, 0, none, true⟩).set 2 ⟨.fault, 0, some 3, true⟩).set 3 ⟨.busy, 2, none, false⟩ }
/-- A descriptor of one row of 64 bytes of E4M3 at 0x2000, in memory and loaded as descriptor 2. -/
def desc (st : Nat) (bnd : Bool) : Nat :=
  0x2000 + 1 * 2 ^ 112 + 64 * 2 ^ 176 + 64 * 2 ^ 192 + 5 * 2 ^ 242 + (0x3000 / 16) * 2 ^ 226 + 2 ^ 247 + (if bnd then 2 ^ 253 else 0) + st * 2 ^ 254
def sD (bnd : Bool) : State := mapCore (fun c => c.setTd 2 (BitVec.ofNat 256 (desc 2 false))) (mem 0x1000 (leBytes 32 (desc 0 bnd)) sT)
/-- An object at 0x1000: disarmed, armed with one arrival to go, and overrun. -/
def obj (e r f g : Nat) (s : State) : State := mem 0x1000 (leBytes 4 e ++ leBytes 4 r ++ leBytes 4 f ++ leBytes 4 g) s
def sO0 : State := obj 0 0 0 7 sT
def sO1 : State := obj 9 1 2 7 sT
def sO2 : State := obj 9 1 10 7 sT
def sO3 : State := obj 9 1 14 7 sT
def sO4 : State := obj 5 3 2 7 (sT.setMe ((sT.me.setCtx 2 h0)))
/-- In a repetition. -/
def sR (i : Nat) : State := on { h0 with rep := some { word := 0, smask := 1, step := 2, rd := 2, n := 4, i := i } }
def sRep : State := code 0x104 [0x04000000] (on (put [(2, 1)] h0))
/-- Captured words at the PC; a buffer that the context owns; a run of one of a push and of a hint. -/
def sC : State := code 0x104 [0x68402100, 0x40A6A010] sT
def sP : State := mapCore (fun c => { c with seq := { c.seq with owner := some 0, words := [0x68402100#32], done := 3 } }) sT
def sRun (w : BitVec 32) : State :=
  mapCore (fun c => { c with
      seq := { c.seq with
        owner := some 0, words := [w, w], running := true, count := 3, rep := 1, idx := 1, ptrs := hT.p.toList, base := 20 } })
    (mem 0x1E400 ((leBytes 4 w.toNat) ++ (leBytes 4 w.toNat)) sQ)
/-- An open packet. -/
def sPk : State := on { hT with pkt := some ⟨5, 0x1000, 2, 1, [1, 2], 4990, 0xFC, 30⟩ }
/-- Destination 5 and a packet header, in g1 and g2. -/
def sSn : State := on (put [(1, 5), (2, 0x1000 + 4 * 2 ^ 37), (3, 0x20), (4, 77)] hT)
/-- An edge mailbox of four slots at 0x1000 with a fresh record in slot 1, and one that is empty. -/
def box (fresh : Nat) : Nat := 4 * 2 ^ 208 + 6 * 2 ^ 215 + 4 * 2 ^ 219 + 0x2000 * 2 ^ 236 + 2 ^ 207 + 2 ^ 206 + 0xFFFF * 2 ^ 272 + fresh * 2 ^ 384 + fresh * 2 ^ 448
def sMb (fresh : Nat) : State := mem 0x20D0 (List.replicate 208 0x5A) (mem 0x1000 (leBytes 64 (box fresh)) (on (put [(1, 0x1000), (2, 0x3000)] hT)))
def sSp : State := mapCore (fun c => { c with rx := { c.rx with spill := some (0x1000, List.replicate 208 1) } }) (oneOf (coreOf 11 (put [(1, 0x1000), (2, 0x3000)] hT)) 11)
/-- A message at g1 for the core's own mailbox. -/
def sLb : State := mem 0x4000 (leBytes 16 0x1000) (mem 0x1000 (leBytes 64 (box 0)) (on (put [(1, 0x4000)] hT)))
/-- Territory 0 has group 3 with the core as its member. -/
def grp (ms : List Member) : Group := ⟨ms, 6, [], ms.map (fun m => coreIn 0 m.lx m.ly)⟩
def sGr (ms : List Member) : State := (on (put [(1, 3), (2, 300)] hT)).setTerr 0 { Terr.reset with groups := [(3, grp ms)] }
/-- Children: one that has ended and drained, one that lives. -/
def sCh : State := oneOf { Core.reset 1 with
  ctxs := [(0, put [(1, 3), (2, 2), (3, 4), (4, 11)] hT), (2, { h0 with parent := some 0 })]
  ended := [(3, ⟨1, 7, some 0, true, none, h0⟩), (5, ⟨0, 0, none, true, none, h0⟩)] } 0
/-- The event bit is set. -/
def sE : State := on { hT with event := true }
/-- No helper is free. -/
def sFull : State := oneOf { Core.reset 1 with ctxs := (0, hT) :: (List.range 10).map (fun i => (i + 1, h0)) } 0
/-- A head of cluster 0: g1 names it and index 9; g2 names cluster 0. -/
def sHd (run : Bool) (own : Nat) : State :=
  (on (put [(1, 9), (2, 0), (3, 0x10000)] hT)).setClus 0 { Cluster.reset with owner := some own, head := { Head.reset with running := run } }
/-- The answer of a bridle. -/
def sBr : State := s0.setClus 0 { Cluster.reset with bridles := (Cluster.reset.bridles).set 0 ⟨[], 1, [(1, 0x55)]⟩ }
def sBr1 : State := s0.setClus 0 { Cluster.reset with bridles := (Cluster.reset.bridles).set 0 ⟨[(1, ⟨7, none, 0⟩)], 1, []⟩ }
/-- Views. -/
def sPr : State := (atLevel .s (on (put [(1, 0x0001_0640_320A_0040), (2, 2), (3, 1)] hT))).setClus 0 { Cluster.reset with view := ⟨2, 3, 4, 5, 6⟩, nviews := [(2, ⟨1, 2, 3, 4, 5⟩)] }
/-- Clusters that TFREEZE names: g1 the core's own, g2 another territory's. -/
def sFz (mv : Bool) : State :=
  ((on (put [(1, 0), (2, 1)] hT)).setClus 0 { Cluster.reset with move := if mv then some ⟨.draining, 1, 0, 0, 0, [], [], []⟩ else none }).setClus 1
    { Cluster.reset with owner := some 4 }
/-- The tail ring holds an entry. -/
def sTl : State := mapCore (fun c => { c with tail := ⟨[0x12345], 2⟩ }) sT
/-- The die supervisor at level S, core 2 in g1. -/
def sSup : State := { State.reset with cur := (0, 0), now := 5000, uid := 40, cores := [(0, { Core.reset 0 with ctxs := [(0, { put [(1, 2), (2, 3)] hT with level := .s })] }),
  (2, { Core.reset 2 with lmem := [(5, 5)] }), (3, { Core.reset 3 with ctxs := [(0, h0)] })] }
def sSupA : State := withAcc 11 99 0 sSup
/-- Access phases of words that wait for answers. -/
def sA9 : State := withAcc 9 9 2 sM
def sA10 : State := withAcc 10 3 7 (sGr [⟨0, 0, 1, 0⟩])
def sA0 : State := withAcc 0 9 0 sQ
def sA0F : State := sQ.setCx { sQ.cx with acc := some ⟨0, 9, some ⟨77, false, some 0x0C⟩⟩ }


/-- The ballonet with no handler. -/
def sB0 : State := oneOf (coreOf 11 h0) 11
/-- Link 1 is full. -/
def sK : State := mapCore (fun c => { c with links := c.links.set 1 (some 5) }) sT
/-- Registers 1 and 31 are empty. -/
def sEm : State := s0.setCx ((s0.cx.empty 1).empty 31)
/-- A region's record at 0x1000. -/
def sBd : State := mem 0x1000 (leBytes 8 0x7000 ++ leBytes 8 64 ++ leBytes 8 0x1000) sT
/-- Operands of wide-side words of every engine: g13 a count, g14 and g15 local addresses; descriptor 2 of E4M3 and 3 of F32 ready, the slice's B bound, a microprogram. -/
def sV : State := mapCore (fun c => { (c.setTd 2 (BitVec.ofNat 256 (desc 2 false))).setTd 3
      (BitVec.ofNat 256 (0x2000 + 2 ^ 112 + 32 * 2 ^ 176 + 128 * 2 ^ 192 + 2 ^ 247 + 2 * 2 ^ 254)) with
  slice := { c.slice with bind := some (BitVec.ofNat 256 (desc 2 false)), prog := [1] } })
  (on { put [(13, 1), (14, 7), (15, 0x3000)] hT with p := hT.p.set 1 ⟨0x1000, 0x10⟩, c := (hT.c.set 1 .yes).set 2 .no })
/-- Indices 3 and 4 of the stream have been received, at the addresses g4 and g3. -/
def sJ : State := mapCore (fun c => { c with stream := { c.stream with got := [4, 3] } }) sT


/-- A command of context 0, uid 20, over local pages at 0x1000. -/
def cmd (i : Instr) : Cmd :=
  { uid := 20, ctx := 0, instr := i, prio := 0, cache := 0, ptr := [0x1000, 0x1000, 0x1000], vals := [1, 0x3000], gthr := 0, level := .u, seq := none,
    pos := 0, dests := [5], decided := false }
/-- Guard 1 true, guard 2 false; tokens 1 and 2 each count the command; descriptor 2 is ready. -/
def hE : Ctx := { hT with
  c := (hT.c.set 1 .yes).set 2 .no, t := ((hT.t.set 1 ⟨.busy, 1, none, false⟩).set 2 ⟨.busy, 2, none, false⟩), qs := [1, 2, 3] }
def cE : Core := { (coreOf 0 hE).setTd 2 (BitVec.ofNat 256 (desc 2 false)) with
  outs := [⟨20, 0, some 1, 1, false, false, true, none, some 2, false, false, false⟩] }
/-- A command at the head of its engine, and one that is started. -/
def eQ (i : Instr) : State := oneOf ({ cE with outs := [] }.setEng (engOf i) ⟨[cmd i], none, [], 11⟩) 0
def eRun (i : Instr) (f : Started → Started) : State := oneOf (cE.setEng (engOf i) ⟨[], some (f (cmd i).begin), [], 0⟩) 0
def eOn (f : Core → Core) (s : State) : State := mapCore f s
/-- The same with B bound: 32 rows of 64 columns of E4M3 at 0x4000. -/
def bind32 : BitVec 256 := BitVec.ofNat 256 (0x4000 + 32 * 2 ^ 112 + 64 * 2 ^ 176 + 64 * 2 ^ 192 + 5 * 2 ^ 242 + 2 ^ 247 + 2 * 2 ^ 254)
def bound (s : State) : State := eOn (fun c => { c with slice := { c.slice with bind := some bind32 } }) s
/-- A started MMA over `bind32` at K-step `n`. -/
def mmaRun (n : Nat) (r : Started) : Started :=
  { r with pos := n, mat := some ⟨BitVec.ofNat 256 (desc 2 false), bind32, [], [], [], false, [1], none⟩ }
def eMma (n : Nat) : State := bound (mem 0x4000 (List.replicate 32 0x38) (mem 0x2000 [0x38, 0x40] (eRun (.mma 2 false false false 13 1 0) (mmaRun n))))
/-- Arrivals at the bridle of cluster 1's first row. -/
def br (as : List Arrival) : State :=
  s0.setClus 1 { Cluster.reset with bridles := (Cluster.reset.bridles).set 0 ⟨(List.range 4).zipWith (fun i a => (i, a)) as, 1, []⟩ }
def gArr (t : Nat) : Arrival := ⟨t, none, 0⟩
def mArr (k : Nat) (ok : Bool) : Arrival := ⟨0, some (k, 0, ok, if ok then 0 else 3), 0⟩
/-- The same with a started MMA on core 4 of that row. -/
def br4 (as : List Arrival) : State :=
  let s := br as
  s.setCore 4 { Core.reset 4 with
    ctxs := [(0, { hE with run := .stopped .saved })]
    mat := ⟨[], some { (cmd (.mma 2 false false true 13 1 0)).begin with phase := 3, mat := some ⟨0, 0, [], [], [], false, [], none⟩ }, [], 0⟩ }
/-- One message under way. -/
def msg (src dst : Agent) (vc : Nat) (b : Body) : Msg := { src := src, dst := dst, vc := vc, terr := some 0, fab := none, body := b, sentAt := 100 }
def net (m : Msg) (s : State) : State := { s with net := [m] }
def req (op : SliceOp) (pa : Nat) : Req := ⟨1, 0, 20, 0, 0, pa, op, 0, 0⟩
/-- The core's context waits for operation 20; it holds a line of the first GDDR7 page. -/
def wait6 (s : State) : State := s.setCx { s.cx with acc := some ⟨6, 20, none⟩ }
def out1 (n : Nat) (s : State) : State := mapCore (fun c => { c with outs := [⟨20, 0, some 1, n, false, false, false, none, none, false, false, false⟩] }) s
def sOut (n : Nat) : State := out1 n (oneOf cE 0)
def mailHdr (box slot : Nat) : BitVec 128 := BitVec.ofNat 128 (box + slot * 2 ^ 41 + 6 * 2 ^ 47 + 4 * 2 ^ 51 + 2 ^ 39)


/-- A push of which every byte has been read; an MCHK over an accumulator with a bad row, or over a good one. -/
def sDone : State := mapCore (fun c => { c with outs := [⟨20, 0, some 1, 0, false, false, false, none, some 2, true, false, false⟩] }) (oneOf cE 0)
def sChk (bad : Bool) : State :=
  mapCore (fun c => { c with slice := if bad then { c.slice with a1 := [(0, 5)], tag1 := .f32 } else c.slice }) (eRun (.mchk true 1 0) (fun r => { r with phase := 2 }))
/-- A message from `a` for core 1, under way beside a context that waits for operation 20, which has `n` acknowledgements to come. -/
def inMsg (a : Agent) (vc : Nat) (b : Body) : State := net (msg a (.core 1) vc b) (wait6 (sOut 1))
/-- Sixteen register posts are held behind the full register 1. -/
def posts16 (s : State) : State := mapCore (fun c => { c with rx := { c.rx with posts := List.replicate 16 ⟨0, 1, 5, false⟩ } }) s
def emptied (r : Reg) (s : State) : State := s.setCx (s.cx.empty r)
/-- A message for the mailbox at 0x1000: an edge mailbox with no fresh record, a closed one, a full ring. -/
def mailMsg (slot : Nat) : Msg := msg (.core 2) (.core 1) 2 (.mail 20 4 (mailHdr 0x1000 slot) (List.replicate 44 0) false)
def sMail (v : Nat) : State := net (mailMsg 1) (mem 0x1000 (leBytes 64 v) s0)
def rxOf (f : Rx → Rx) (s : State) : State := mapCore (fun c => { c with rx := f c.rx }) s
/-- A record for queue 0 of territory 0, whose key is `k`. -/
def record (k : Nat) : List Byte := recSeal (leBytes 4 k ++ leBytes 4 0x200 ++ List.replicate 56 0)
/-- A record of key 5 in its queue. -/
def rec5 (i : Nat) : Record := ⟨record 5, 0, none, i⟩
/-- Territory 0 has a queue, mapped in slot 0 with `n` records. -/
def terrQ (n : Nat) (mapped : Bool) (s : State) : State :=
  s.setTerr 0 { Terr.reset with
    win := { Terr.reset.win with tqcb := 1 <<< 40 }
    slots := if mapped then [(0, ⟨true, 0, 0, (List.range n).map rec5, 0⟩)] else [] }
def sRec (n : Nat) (mapped : Bool) (q : Nat) : State :=
  net (msg (.core 1) (.terr 0) 3 (.record 1 0 20 (if q = 0 then record 5 else recSeal (record 5 |>.set 58 9)))) ((terrQ n mapped s0).setCx { s0.cx with acc := some ⟨9, 20, none⟩ })
/-- An arrival of core 1 at group 3, in which a context of it waits. -/
def sArr (wait : Bool) (ms : List Member) : State :=
  let s := sGr ms
  net (msg (.core 1) (.terr 0) 3 (.groupArrive 3 1)) (if wait then s.setCx { s.cx with acc := some ⟨10, 3, none⟩ } else s)
/-- A head that is at work on cluster 0, with the word `w` at its index. -/
def sHead (f : Head → Head) (w : BitVec 32) : State :=
  s0.setClus 0 { Cluster.reset with sstore := [(9, w)], head := f { Head.reset with idx := 9, skew := 1 } }
/-- A word that is due at core 1, whose context 0 runs (`mode`) or waits in JOIN for it. -/
def sDue (f : Ctx → Ctx) (i : Nat) : State :=
  let s := on (f h0)
  mapCore (fun c => { c with stream := { c.stream with next := 3, from_ := 0 } })
    (s.setClus 0 { Cluster.reset with head := { Head.reset with time := 20, skew := 1, flight := [(0, ⟨i, 0, false⟩)] } })
/-- The message is another territory's. -/
def foreign (s : State) : State := { s with net := s.net.map fun m => { m with terr := some 9 } }
/-- An upcall is queued; territory 0 has an entry for its cause, or none. -/
def sUpq (e : Bool) : State :=
  (mapCore (fun c => { c with upq := [(0x20, 7)] }) s0).setTerr 0 { Terr.reset with upcalls := if e then [(0x20, 0x400)] else [] }
/-- A context in a run state, with the word of a WFE at its PC. -/
def runAs (r : RunSt) : State := code 0x100 [0x78A62001] (on { h0 with run := r })
/-- Helper 2 waits for a slot, beside `n` helpers of which the first is parked in HJOIN as `p` says. -/
def sSlot (n : Nat) (p : Bool) : State := code 0x100 [((encode (.hjoin 1 2)).getD 0).toNat]
  (oneOf { Core.reset 1 with
    ctxs := [(0, { h0 with pc := 0x200 }), (2, { h0 with pc := 0x300, run := .stopped .slot })] ++ (List.range n).map (fun i =>
      (i + 3, if p && i == 0 then { h0 with run := .parked (.child 2) } else h0)), slots := 4 } 0)
/-- A request for slice `h`, whose base bank has room when `c` ways are none. -/
def sReq (h c : Nat) (r : Req) : State :=
  { s0 with net := [msg (.core 1) (.slice h) 0 (.req r)], slices := [(h, { CacheSlice.reset with c := c })] }
def sBlk : State :=
  { s0 with slices := [(homeOf 0x7000, { CacheSlice.reset with blocks := [(3, ⟨0x7000 / 128, 0, false, 0, 0, [req (.read 4) 0x7000], []⟩)] })] }
/-- A walk of territory 0 in cluster 0, which core 1's context waits for. -/
def sWalk (va : Nat) : State :=
  (s0.setCx { s0.cx with acc := some ⟨1, 4 * va, none⟩ }).setClus 0 { Cluster.reset with walks := [⟨0, va, 0, 0, [30]⟩] }
/-- A fault message for the supervisor of die 0, whose ring at 0x1000 has one entry and holds `n`. -/
def sFm (en n : Nat) : State :=
  { net (msg (.core 1) (.core 0) 3 (.fault (List.replicate 32 1))) sSup with
    cores := [(0, { Core.reset 0 with ctxs := [(0, { h0 with level := .s })], spr := { (Core.reset 0).spr with fring := word (en + 0x10 * 2 ^ 8 + 1 * 2 ^ 20 + n * 2 ^ 36) } })] }
def sResend : State := net (msg (.core 0) (.core 1) 1 (.fault (List.replicate 32 1))) s0
/-- A control packet for core 1 from its supervisor. -/
def sCtl (dst : Nat) (s : State) : State :=
  { s with net := [{ msg (.core 0) (.core 1) 3 (.packet 20 (word dst) [0] false 0) with terr := none }] }
def sAside : State := mapCore (fun c => { c with aside := [⟨0, some (cmd (.push 2 true 14 1 1)), 0, 0x7000, none⟩] }) (sOut 1)
/-- Territory 0's queue holds one good record, and core 1 of cluster 0 takes tasks. -/
def sDisp : State :=
  let s := terrQ 1 true s0
  s.setStat 1 { s.stat 1 with begun := true }
/-- It is the turn of its chosen record, for core 1. -/
def sCho (tethered : Bool) : State :=
  let s := sDisp.setClus 0 { Cluster.reset with tether := tethered }
  { s.setTerr 0 { s.terr 0 with slots := [(0, ⟨true, 0, 0, [rec5 7], 0⟩)], chosen := [⟨0, some 1, rec5 9, 40, 1⟩] } with turns := [.record 0 0] }
/-- A helper that has ended and not yet drained. -/
def sEnd (p : Option Nat) (k : Option TaskInfo) : State := mapCore (fun c => { c with ended := [(3, ⟨0, 0, p, false, k, h0⟩)] }) s0
/-- Territory 4 is live in cluster 1 at pressure; cluster 0, of territory 0, beside it knows its view, and it is its turn. -/
def sDrift : State :=
  let s := (s0.setTerr 4 { Terr.reset with win := { Terr.reset.win with tcfg := word (1 + 8 * 2 ^ 19 + 2 ^ 28 + 2 ^ 29), tclass := Vector.replicate 8 0 } }).setClus 1
    { Cluster.reset with owner := some 4 }
  { s.setClus 0 { Cluster.reset with nviews := [(1, ⟨4, 100, 100, 1, 4000⟩)] } with now := 64 * 700, pcfg := word (64 * 2 ^ 16 + 2 ^ 48) }
def moving (p : MovePhase) (taker from_ : Nat) (dr yl : List Nat) (s : State) : State :=
  s.setClus 0 { s.clus 0 with move := some ⟨p, taker, from_, s.now, word (50 * 2 ^ 24), dr, yl, []⟩ }
/-- A write of `n` bytes to a register by the die supervisor at level S. -/
def sWr (pa n v : Nat) (s : State) : State :=
  { s with net := [{ msg (.core 0) .io 3 (.regWrite 0 0 20 .s 0 pa n v) with terr := none }] }
/-- Territory 1 names cluster 1 in TINIT, or is live there with one queue at 0x8000, past its own time, or with its queue mapped. -/
def win1 : Window := { Window.reset with tqcb := word ((0x8000 / 64) * 2 ^ 6 + 2 ^ 40), tinit := Window.reset.tinit.set 0 2 }
def sInit : State := { s0.setTerr 1 { Terr.reset with win := win1 } with io := { s0.io with bring := 5, keysLoaded := true } }
/-- Every die's supervisor is up. -/
def diesUp (n : Nat) : State :=
  let s := (List.range 4).foldl (fun s d => s.setCore (supOf d) { s.core (supOf d) with ctxs := [(0, { h0 with level := .s })] }) { sInit with io := { sInit.io with bring := n } }
  { s with slices := (List.range 256).map (fun h => (h, { CacheSlice.reset with lock := true })) }
def sLive (s : State) : State :=
  (s.setTerr 1 { Terr.reset with win := { win1 with tcfg := word (1 + 8 * 2 ^ 19 + 2 ^ 28 + 2 ^ 29) } }).setClus 1 { Cluster.reset with owner := some 1 }
def sLate (s : State) : State :=
  let t := sLive s
  t.setTerr 1 { t.terr 1 with win := { (t.terr 1).win with tlast := 10 ^ 12 } }
def sMapped (n : Nat) : State :=
  let t := sLive s0
  t.setTerr 1 { t.terr 1 with slots := [(0, ⟨true, 0, 0, (List.range n).map rec5, 0⟩)] }
/-- Cluster 1 and its core 4 are tethered. -/
def sTeth : State :=
  let s := (s0.setClus 1 { Cluster.reset with tether := true, owner := some 1 }).setTerr 1 { Terr.reset with win := win1, regions := [(2, ⟨0x8000, 64, 0⟩)] }
  s.setStat 4 { s.stat 4 with tether := true }
/-- A packet over the fabric for core 1, with tag 7; territory 0's TFAB is `w`. One that core 1 has sent, at time `n`. A port in ingress mode, for
a core that does not work. -/
def fabMsg (a b : Agent) : Msg := { msg a b 2 (.packet 20 0x1000 [1] false 0) with terr := none, fab := some ⟨3, 9, 1, 7⟩ }
def sFab (w : Word) : State := { s0 with net := [fabMsg (.port 2) (.port 3)] }.setTerr 0 { Terr.reset with win := { Window.reset with tfab := w } }
def sFout (n : Nat) : State := { s0 with net := [fabMsg (.core 1) (.port 2)], now := n }
def sIng : State := { s0 with io := { s0.io with fpcfg := s0.io.fpcfg.set 3 (word (2 + 2 * 2 ^ 8)) } }.setStat 2 { s0.stat 2 with killed := true }
/-- A port in ingress mode for the ring mailbox of core 1; a frame of two chunks of which the second is to come. -/
def sIngR : State := let s := mem 0x1000 (leBytes 64 (box 0 - 2 ^ 207)) s0
  { s with io := { s.io with fpcfg := s.io.fpcfg.set 3 (word (2 + 2 ^ 8 + 0x1000 * 2 ^ 20)) } }
def frame180 : List Byte := List.replicate 176 1 ++ [2, 3, 4, 5]
def sChunk : State := { sIngR with io := { sIngR.io with inbound := [⟨3, 1, 0x1000, 0, 0, 2, 1, 7, 9, frame180, true, 0, [], 0⟩] }, turns := [.chunk 3] }
def sStep : State := code 0x100 [0x04A0BDEF] s0
/-- Territory 4 has work; its cores' contexts have left. -/
def sPress (s : State) : State := s.setTerr 4 { s.terr 4 with slots := [(0, ⟨true, 0, 0, (List.range 5).map rec5, 0⟩)] }
def sPause (s : State) : State := (coresOf 1).foldl (fun s k => s.setCore k { Core.reset k with ctxs := [] }) s
/-- A write-through of the context is under way; a wide-side operation; a write-back, alone and with a wait begun after it; a wait begun before all. -/
def outOf (wb sending : Bool) (s : State) : State := mapCore (fun c => { c with outs := [⟨30, 0, none, 1, false, wb, sending, none, none, !wb, false, false⟩] }) s
def sWt : State := outOf false false sT
def sWd : State := outOf true true sT
def sOw : State := outOf true false sT
def sT3 : State := withAcc 3 25 0 sT
def sOw3 : State := withAcc 3 40 0 sOw
/-- The held line is bound and dirty; a range in the mapped page that holds a dirty line. -/
def sG3 : State := mapCore (fun c => { c with
  spr := { c.spr with stash := 1 }, lines := [(0, ⟨0x7000 / 64, 0x00FF, 1, some 1, 3⟩)], regions := [(1, ⟨0x1000, 64, 0x1000⟩)] }) sG
def sF : State := sG1.setCx (put [(3, 0x1000), (4, 64)] sG1.cx)
/-- Records at g1 of a good region, with another's number taken, and of a bad one. -/
def sBq : State := mapCore (fun c => { c with regions := [(1, ⟨0x9000, 64, 0⟩)] }) sBd
def sBp : State := mem 0x1000 (leBytes 8 0x7001 ++ leBytes 8 64 ++ leBytes 8 0x1000) sT
/-- At level T: a resize that can run; another under way; a dirty line; a wait begun before and after the write-back. -/
def sRz : State := sLT
def sRzB : State := mapCore (fun c => { c with spr := { c.spr with stashBusy := true } }) sLT
def sRzD : State := atLevel .t sG1
def sRz8 : State := withAcc 8 25 0 sLT
def sRzO : State := atLevel .t (withAcc 8 40 0 sOw)
/-- Descriptor 2 in use by a queued command; a record that fails its check; a poisoned descriptor. -/
def sDb : State := mapCore (fun c => c.setEng .push { c.psh with queue := [cmd (.push 2 true 14 1 1)] }) (sD false)
def sDx : State := mem 0x1000 (leBytes 32 (2 ^ 112 + 64 * 2 ^ 176 + 64 * 2 ^ 192 + 5 * 2 ^ 242 + 0x5FFF0 + 2 ^ 247)) sT
def sDp : State := mapCore (fun c => { c with lbad := [0x1E040 / 8] }) (sD false)
/-- A second command under guard 1, which is true. -/
def sUd : State := mapCore (fun c => c.setEng .mat { c.mat with queue := [cmd (.mzero true 1 2), { cmd (.mzero true 1 1) with uid := 21 }] }) sQ
/-- The sequencer has recorded a failure of its owner's. -/
def sQf : State := mapCore (fun c => { c with seq := { c.seq with owner := some 0, stat := 0x1000 } }) sQ
/-- A wait that has begun on the armed object. -/
def sOw1 : State := sO1.setCx { sO1.cx with acc := some ⟨11, 0x1000, none⟩ }
/-- Channel 3 at level S; an open packet with its place between two others; one with no room left. -/
def sSnS : State := atLevel .s sSn
def opn (u : Nat) : Msg := msg (.core 1) (.core 5) 1 (.opening u)
def sPkN : State := { sPk with net := [opn 29, opn 30, opn 31] }
def sPkF : State := on { hT with pkt := some ⟨5, 0x1000, 2, 1, List.replicate 32 7, 4990, 0xFC, 30⟩ }
/-- The ballonet with nothing in the spill latch. -/
def sSp0 : State := oneOf (coreOf 11 (put [(1, 0x1000), (2, 0x3000)] hT)) 11
/-- A message at 0x4000 of the mailbox's format, for an edge mailbox; for a queue that is full; for one whose posting would be the fifth to be held;
being written, and written. -/
def lbHdr : List Byte := leBytes 16 (0x1000 + 6 * 2 ^ 47 + 4 * 2 ^ 51)
def sLb1 : State := mem 0x4000 lbHdr sLb
def sLbF : State := mem 0x4000 lbHdr (mem 0x1000 (leBytes 64 (box 1 - 2 ^ 207)) sLb)
def sLbW : State :=
  let s := mapCore (fun c => { c with rx := { c.rx with postings := List.replicate 4 (0, record 5) } })
    (mem 0x4000 lbHdr (mem 0x1000 (leBytes 64 (box 0 - 0xFFFF * 2 ^ 272)) sLb))
  let t := terrQ 1024 true s
  t.setTerr 0 { t.terr 0 with templates := [record 5] }
def sLbD : State := sLb.setCx { sLb.cx with acc := some ⟨13, 0, none⟩ }
def sLbL : State := mapCore (fun c => { c with rx := { c.rx with landing := some ⟨Obligations.lbkMsg sLb 0x4000, some 0, 1, [(0x20D0, [1, 2])], 5, 6, false, 0, [], [], false⟩ } }) sLbD
/-- A group of two; a group without the core; a cluster without an owner; a store under way; another context of the core that waits; a context
without the group's slot. -/
def sGr2 : State := sGr [⟨0, 0, 1, 0⟩, ⟨0, 0, 2, 0⟩]
def sGr3 : State := sGr [⟨0, 0, 2, 0⟩]
def sScr : State := (on (put [(1, 3), (2, 300)] hT)).setClus 0 { Cluster.reset with owner := none }
def sGrT : State := outOf false false sGr2
def sGrW : State := sGr2.setMe (sGr2.me.setCtx 2 { h0 with acc := some ⟨10, 3, none⟩ })
def sGrH : State :=
  { sGr2 with cur := (1, 2), cores := [(1, { Core.reset 1 with ctxs := [(0, h0), (2, put [(1, 3), (2, 300)] { h0 with parent := some 0, task := some ⟨true, List.replicate 64 0, some 0, false, none, 0, none⟩ })] })] }
/-- No slot is left, but a helper number. -/
def sNo : State := oneOf { Core.reset 1 with ctxs := (0, hT) :: (List.range 4).map (fun i => (i + 1, h0)), slots := 4 } 0
/-- Cluster 1, which g9 names, is another territory's. -/
def sHdx : State := (on (put [(9, 1)] hT)).setClus 1 { Cluster.reset with owner := some 4 }
/-- No answer of the bridle: with a store under way, and without. -/
def sBr3 : State := s0.setClus 0 Cluster.reset
def sBr2 : State := outOf false false sBr3
/-- The supervisor with a store, a wide-side operation, and an unanswered invalidation under way. -/
def sSupT : State := outOf false false sSup
def sSupW : State := outOf true true sSup
def sSupN : State := sSupT.setCx { sSupT.cx with acc := some ⟨11, 30, none⟩ }
/-- A command that its engine works on beside others (`older`). -/
def eOld (i : Instr) (f : Started → Started) : State := oneOf (cE.setEng (engOf i) ⟨[], none, [f (cmd i).begin], 0⟩) 0
/-- The cluster's translation cache maps the page of descriptor 2's source. -/
def pgS (s : State) : State := s.setClus 0 { Cluster.reset with tlb := [⟨0, 2, 12, 7, true, true, 0, false, 0⟩] }
/-- A drain of the second accumulator's type into descriptor 3 (F32). -/
def eDr : State := mapCore (fun c =>
  c.setTd 3 (BitVec.ofNat 256 (0x2000 + 32 * 2 ^ 112 + 32 * 2 ^ 176 + 128 * 2 ^ 192 + 2 ^ 247 + 2 * 2 ^ 254))) (eQ (.mdrain 3 false 13 1 1))
/-- An MMA that has read all the granules of its first K-step. -/
def eMmaR : State := bound (eRun (.mma 2 false false false 13 1 0)
  (fun r => { mmaRun 0 r with got := List.range 0x200, snap := [(0x2000, 0x38), (0x2001, 0x40), (0x4000, 0x38)] }))
/-- Its context is to stop: while it waits at its bridle, at a boundary with the save area free, and while it is being saved. -/
def stopped (s : State) : State := mapCore (fun c => { c with spr := { c.spr with msave := 0x0010_0001 } }) (s.setCx { s.cx with stopping := true })
def eWt3 : State := stopped (eRun (.mma 2 false false true 13 1 0) (fun r => { mmaRun 0 r with phase := 3 }))
def eWt1 : State := stopped (eMma 0)
def eWt6 : State := stopped (bound (eRun (.mma 2 false false false 13 1 0) (fun r => { mmaRun 0 r with phase := 6, writes := [(0x2F000, [1, 2])] })))
def eWt0 : State := stopped (bound (eRun (.mma 2 false false false 13 1 0) (fun r => { mmaRun 0 r with phase := 6 })))
/-- A load of the context is under way, which has lost its destination or not; what is on its way to the stash. -/
def theLoad (lost : Bool) : Load := ⟨.ldg 5 1 2 true 0 0, 0x7000, 0xF0, false, Latch.empty, 5, 6, 20, none, lost⟩
def loadOf (lost : Bool) (s : State) : State := s.setCx { s.cx with acc := none, load := some (theLoad lost) }
def fillsOf (l : List Fill) (s : State) : State := mapCore (fun c => { c with fills := l }) s
/-- A message that arrives; it is being written: what is left, the stage, the operation. -/
def mailOf : MailMsg := ((mailMsg 1).mail?).getD ⟨0, 0, [], 0, none, 0, 0, false⟩
def landOf (todo : List (Nat × List Byte)) (stage u : Nat) : Landing := ⟨if u = 1 then mailOf else { mailOf with uid := u }, none, 1, todo, 5, 6, false, stage, [], [], false⟩
def landing (todo : List (Nat × List Byte)) (stage u : Nat) (s : State) : State := rxOf (fun r => { r with landing := some (landOf todo stage u) }) s
/-- An atomic of the context is under way: no boundary. -/
def sA0r : State := s0.setCx { s0.cx with acc := some ⟨5, 9, none⟩ }
/-- The word at the PC reads the empty register 1. -/
def wdEmp : BitVec 32 := (encode (.add 3 1 2 false)).getD 0
def sEmp : State := (code 0x100 [wdEmp.toNat] s0).setCx (s0.cx.empty 1)

/-- An empty stash; the same and no stash under the no-allocate hint; the first page's lines with every word of one clean; a register's page at level S;
fills that have come for the first line and for a word that it lacks. -/
def sGe : State := mapCore (fun c => { c with spr := { c.spr with stash := 1 } }) sG
def sGn : State := sGe.setCx { sGe.cx with latch := { Latch.empty with cache := some 1 } }
def sGr0 : State := atLevel .s (sM.setClus 0 { Cluster.reset with tlb := [tlb 0x8004001000] })
def sF2 (v : Nat) (s : State) : State := s.setCx { s.cx with acc := some ⟨2, 39, some ⟨v, false, none⟩⟩ }
/-- Where the word of the load or the store at g1 with offset `f` lies, `n` bytes. -/
def at1 (s : State) (z : BitVec 2) (f : BitVec 11) : Word := BitVec.ofNat 64 (Obligations.eaOf s 1 z f)

/-- The core has taken stream word 7; the context is a task. -/
def sS1 : State := mapCore (fun c => { c with stream := { c.stream with last := some 7 } }) s0
def sTk : State := s0.setCx { s0.cx with task := some ⟨true, record 5, some 0, false, none, 0, none⟩ }
/-- A range of `n` bytes at `a` for SFLUSH; its work goes on at the byte `p`; write-backs of an age are outstanding. -/
def flushOf (a n : Nat) (s : State) : State := s.setCx (put [(3, word a), (4, word n)] s.cx)
def goesOn (u p : Nat) (s : State) : State := s.setCx { s.cx with acc := some ⟨1, u, some ⟨p, false, none⟩⟩ }
def sFu : State := flushOf 0x9000 64 sG1
def sFx : State := flushOf 0x1000 0x1040 sG1
def sFc : State := flushOf 0x1000 64 sG2
def sFr : State := goesOn 25 0x1000 sFx
def sFe : State := goesOn 25 0x1040 sFx
def sFo : State := goesOn 40 0x1040 (outOf true false sFx)
/-- The helper ends with an operation outstanding, beside `n` entries of the tracker; with a packet open; beside a child of its own. -/
def outAt (u x : Nat) : Out := ⟨u, x, none, 1, false, false, false, none, none, true, false, false⟩
def sHp (n : Nat) : State := mapCore (fun c => { c with ended := List.replicate n (3, ⟨0, 0, none, false, none, h0⟩), outs := [outAt 29 2, outAt 30 3] }) sH
def sHk : State := sH.setCx { sH.cx with pkt := some ⟨5, 0x1000, 2, 1, [1, 2], 4990, 0xFC, 30⟩ }
def sHc : State := mapCore (fun c => { c with ctxs := c.ctxs ++ [(3, { h0 with parent := some 2 })] }) sH
/-- A helper with a handler, in local mode. -/
def sHt : State := sH.setCx { sH.cx with spr := { sH.cx.spr with tvec := 0x401 } }
/-- Outside a handler with the mark of an upcall. -/
def sUo : State := sT.setCx { sT.cx with spr := { sT.cx.spr with upc := true } }
/-- A branch of the stream over registers that are empty. -/
def sSe : State := sS.setCx ((sS.cx.empty 2).empty 31)
/-- A cluster that another's move past PROPOSE locks. -/
def sFl : State :=
  let s := sFz true
  (s.setClus 0 { s.clus 0 with move := none, lock := some 1 }).setClus 1 { s.clus 1 with move := (s.clus 0).move }
/-- The supervisor's scrub: a dirty line, acknowledgements to await, and a wait begun before them. -/
def sSupD : State := mapCore (fun c => { c with lines := [(0, ⟨0x7000 / 64, 0x00FF, 1, none, 3⟩)] }) sSup
def sSupO : State := outOf true false sSup
def sSup3 : State := withAcc 3 25 0 sSup
def sSupO3 : State := withAcc 3 40 0 sSupO
/-- Pushes of global memory: the pages of the source and of the destination, `attr` of the latter's; operands; acknowledgements to come; the stash holds
the page's first line. -/
def pgV (attr : Nat) (s : State) : State :=
  s.setClus 0 { Cluster.reset with tlb := [⟨0, 1, 12, 7, true, true, attr, false, 0⟩, ⟨0, 2, 12, 7, true, true, 0, false, 0⟩] }
def valsOf (v : List Word) (r : Started) : Started := { r with cmd := { r.cmd with vals := v } }
def leftOf (n : Nat) (s : State) : State := mapCore (fun c => { c with outs := c.outs.map (fun o => { o with left := n }) }) s
def dirty7 (d : BitVec 16) (s : State) : State :=
  mapCore (fun c => { c with spr := { c.spr with stash := 1 }, lines := [(0, ⟨0x7000 / 64, 0x00FF, d, none, 3⟩)] }) s
/-- A PUSHS to 0x1030: its first piece, one that goes on with what it holds, to an IO page; flushes of PUSHG and PUSHS; a push that narrows. -/
def sPs (attr : Nat) (f : Started → Started) : State :=
  pgV attr (eOld (.pushs 2 true 14 1 1) (fun r => f (valsOf [0x1030, 0x3000] { r with phase := 1 })))
def sPsC : State := sPs 0 (fun r => { r with cmd := { r.cmd with pos := 16 }, writes := [(0, List.replicate 48 9)] })
def sPsI (n : Nat) : State := leftOf n (sPs 2 id)
def sPgF (d : BitVec 16) : State := dirty7 d (pgV 0 (eOld (.pushg 2 true 14 1 1) (fun r => { r with phase := 2 })))
def sPsF (d : BitVec 16) : State := dirty7 d (sPs 0 (fun r => { r with phase := 2 }))
def sPw : State := mapCore (fun c =>
  c.setTd 3 (BitVec.ofNat 256 (0x2000 + 1 * 2 ^ 112 + 32 * 2 ^ 176 + 128 * 2 ^ 192 + 2 ^ 247 + 2 * 2 ^ 254))) (eOld (.push 3 true 14 1 1) (valsOf [1, 0x3000 + 3 * 2 ^ 45]))
/-- A drain or a gather through descriptor 3 with a list over two granules whose entries are all `e`. -/
def listed (e : Byte) (s : State) : State := mapCore (fun c =>
  let c1 := c.setTd 3 (BitVec.ofNat 256 (0x2000 + 32 * 2 ^ 112 + 0x3020 * 2 ^ 128 + 32 * 2 ^ 176 + 128 * 2 ^ 192 + 2 ^ 247 + 2 * 2 ^ 254))
  { c1 with lmem := mwrite c1.lmem 0x3020 ((List.range 32).flatMap (fun _ => [e, 0])) }) s
def eList (e : Byte) (g : List Nat) : State :=
  listed e (eRun (.mdrain 3 false 13 1 1) (fun r =>
    { r with phase := 7, got := g, snap := if g = [] then [] else (List.range 32).map (fun i => (0x3020 + i, if i % 2 = 0 then e else 0)) |>.filter (fun w => w.2 ≠ 0) }))
/-- A prefetch of a line of the page at 0x1000 at its line `pos`, under the cache hint `ch`, whose line the stash holds with the words `v`, or does not; the
last of its lines; a Gaussian write into a poisoned word; a message beside others of its core. -/
def sVp (pos : Nat) (ch : BitVec 6) (ls : List (Nat × Line)) : State :=
  pgV 0 (mapCore (fun c => { c with spr := { c.spr with stash := 1 }, lines := ls })
    (eOld (.vpref 3) (fun r => { r with pos := pos, cmd := { r.cmd with vals := [0x1000], cache := ch } })))
def sGpo : State := mapCore (fun c => { c with lbad := [0x200] }) (eRun (.gacc 1 1 1 6 1 1) (fun r => { r with phase := 1, writes := [(0x1000, [1, 2])] }))
def sGs : State :=
  let s := eRun (.gsend 1 6 1 0) (fun r => { r with phase := 1, cmd := { r.cmd with vals := [5, word (0x4000 + 3 * 2 ^ 51), 9] ++ List.replicate 35 0x3F800000 } })
  { s with net := [opn 19, { opn 30 with vc := 2 }] }
/-- Operations of a yielding context, and of a stopped one that still reads its list. -/
def eWtY : State := let s := eRun (.mma 2 false false true 13 1 0) (fun r => { mmaRun 0 r with phase := 3 })
  mapCore (fun c => { c with spr := { c.spr with msave := 0x0010_0001 } }) (s.setCx { s.cx with stopping := true, acc := some ⟨phYield, 0, none⟩ })
def eWt7 : State := stopped (listed 3 (eRun (.mmag 3 false false false 13 1 0) (fun r => { r with phase := 7, got := [0xC0] })))
/-- A message for a mailbox into which LBK writes; a message being written, that is to post, with a barrier, with its posting's queue of `n` records. -/
def sLk : State := rxOf (fun r => { r with landing := some { landOf [] 0 1 with lbk := some 0 } }) (sMail (box 0))
def sLanding (l : Landing) (n : Nat) (v : Nat) : State := rxOf (fun r => { r with landing := some l }) (mem 0x1000 (leBytes 64 v) (terrQ n true s0))
/-- A message of which `c` bytes have landed and are to be counted; one of the channel behind a post that its core cannot hold; an object at 0x1800. -/
def owing (c : Nat) (s : State) : State := { s with net := s.net.map (fun m => { m with due := some (0x1800, c) }) }
def sStuck : State := { posts16 s0 with net := [{ msg (.core 2) (.core 1) 2 (.post 20 0 1 7 false) with stuck := true }, msg (.core 3) (.core 1) 2 (.push 21 false 0x1000 [1, 2] [] none)] }
def pushBar : State := mem 0x1800 (leBytes 16 0) (inMsg (.core 2) 2 (.push 20 false 0x1100 [1, 2] [] (some 0x1800)))
def packBar (taken : Nat) : State := mem 0x1800 (leBytes 16 0) (inMsg (.core 2) 2 (.packet 20 (0x1100 + 0x180 * 2 ^ 20) [1, 2] false taken))
/-- A fill for the line that a load waits for. -/
def sFl2 : State :=
  let s := fillsOf [⟨20, 0x7000 / 64, 0xFF00, false⟩] (net (msg (.slice 0) (.core 1) 1 (.data (req .fill 0x7000) (List.replicate 64 1) [])) sG1)
  s.setCx { s.cx with load := some { theLoad false with phase := 2, va := 0x1020 } }
/-- An upcall with an entry for a streamed context and for one that waits at JOIN; a territory's saved context 0 and ballonet of core 1, in entry 0. -/
def sUpm (m : Mode) : State := let s := sUpq true
  mapCore (fun c => { c with stream := { c.stream with buf := [⟨3, 0, false⟩], next := 4, got := [3] } }) (s.setCx { s.cx with mode := m, pc := 3 })
def sSav (x : Nat) : State :=
  let s := { State.reset with now := 5000, uid := 40, cores := [(1, { Core.reset 1 with ctxs := [] })], gmem := mwrite [] 0x10000 [if x = 0 then 2 else 3] }
  s.setTerr 0 { Terr.reset with win := { Terr.reset.win with tsave := word (0x10000 + 2 ^ 52) }, paused := true, saved := [(0, ⟨16 + x, none, [], { h0 with run := .stopped .saved }, List.replicate 0x800 0, [], none⟩)] }
/-- The generation's other members: gone, and still to come. -/
def sArrG : State := { sArr true [⟨0, 0, 1, 0⟩, ⟨0, 0, 2, 0⟩] with disabled := [2] }
/-- A line of GDDR7 in its way, with a word that cannot be corrected or without; a slice that gives the territory no way. -/
def sHit (op : SliceOp) (bad : List Nat) : State :=
  { sReq (homeOf 0x7000) 8 (req op 0x7000) with
    slices := [(homeOf 0x7000, { CacheSlice.reset with c := 8, ways := [(16 * setOf 0x7000 + 3, ⟨0x7000 / 128, false, 0, 0, 1, []⟩)] })]
    gmem := mwrite [] 0x7000 [0x81, 2, 3, 0x84, 5], gbad := bad }
def sNoWay : State := sReq (homeOf 0x7000) 8 { req (.read 4) 0x7000 with alloc := 1 }
def sBase (op : SliceOp) (bad : List Nat) : State := { sReq 0 8 (req op 0x4000000000) with gmem := mwrite [] 0x4000000000 [0x81, 2, 3, 0x84, 5], gbad := bad }
/-- A walk that engine accesses share. -/
def sWalk2 (va : Nat) : State :=
  (s0.setCx { s0.cx with acc := some ⟨1, 4 * va, none⟩ }).setClus 0 { Cluster.reset with walks := [⟨0, va, 0, 0, [30, 31]⟩] }
/-- A fence to end, of a core whose context stands stopped. -/
def sUnf : State := sCtl 0xFF018 ((runAs (.stopped .saved)).setStat 1 { s0.stat 1 with fenced := true })
/-- A move that ends, whose save entry, with the header `hd`, its cores wrote. -/
def sTrn (hd : Nat) : State :=
  let s := moving .scrubbing 4 0 [] [] s0
  let s := s.setTerr 0 { s.terr 0 with win := { (s.terr 0).win with tsave := word (0x10000 + 2 ^ 52) } }
  { s.setClus 0 { s.clus 0 with move := (s.clus 0).move.map (fun m => { m with entries := [0] }) } with gmem := mwrite [] 0x10000 (leBytes 8 hd) }
/-- The same frame at stage `g`, with `td` to write. -/
def sChunkAt (g : Nat) (td : List (Nat × List Byte)) : State :=
  { sChunk with io := { sChunk.io with inbound := sChunk.io.inbound.map (fun i => { i with stage := g, todo := td }) } }
/-- The frame when its core works no more; when the data channel to its core waits; when its mailbox names a task of the table, or has a barrier;
when a chunk is to follow. -/
def sChunkOff : State := sChunk.setStat 1 { s0.stat 1 with killed := true }
def sChunkHeld : State := landing [] 0 1 sChunk
def sChunkTask (g : Nat) : State :=
  let s := (sChunkAt g []).setCore 1 ((sChunk.core 1).setMbox 0x1000 (((sChunk.core 1).mbox 0x1000).put 272 16 0))
  s.setTerr 0 { Terr.reset with win := { Terr.reset.win with tqcb := 1 <<< 40 }, templates := [record 5] }
def sChunkBar : State := (sChunkAt 2 []).setCore 1 ((sChunk.core 1).setMbox 0x1000 (((sChunk.core 1).mbox 0x1000).put 256 16 3))
def sChunkMore : State := { sChunk with io := { sChunk.io with inbound := sChunk.io.inbound.map (fun i => { i with next := 0, stage := 2 }) } }
/-- Ports 2 and 3 in fabric mode. -/
def fabOn (s : State) : State := { s with io := { s.io with fpcfg := (s.io.fpcfg.set 2 1).set 3 1 } }

/-! ### Witnesses for the hypotheses of the statements -/

/-- Distinct sources, one consumed; three sources. -/
theorem witness_AluFunctions :
    (State.ready s0 .u ∧ State.readable s0 [1, 2, 4])
    ∧ State.readable s0 [1, 2]
    ∧ (takeOk 1 true = true ∧ s0.cx.reg 2 ≠ 0 ∧ s0.cx.reg 0 = 0) :=
  ⟨issues (by decide +kernel), readable_of (by decide +kernel), by decide +kernel⟩

/-- No, one and two immediate words latched; a shift by 63 and one by 64. -/
theorem witness_AluImmediates :
    (∀ e ∈ ([(s0, .u), (sI1, .u), (sI2, .u), (sT, .u)] : List (State × Level)),
      State.cleared e.1 e.2)
    ∧ (∀ e ∈ ([s0, sI1, sI2, sT] : List (State)),
      State.inOrder e)
    ∧ (∀ e ∈ ([(s0, [1]), (sI1, [1]), (sI2, [1]), (sT, [1])] : List (State × List Reg)),
      State.readable e.1 e.2)
    ∧ State.canTrap sT
    ∧ (sI1.cx.latch.imx = 1 ∧ sI2.cx.latch.imx = 2 ∧ (BitVec.signExtend 64 (63#12)).toNat ≤ 63 ∧ sT.cx.latch.imx = 0 ∧
      63 < (BitVec.signExtend 64 (64#12)).toNat) :=
  ⟨each (fun _ => cleared_of) (by decide +kernel), each (fun _ => inOrder_of) (by decide +kernel), each (fun _ => readable_of) (by decide +kernel),
  canTrap_of (by decide +kernel), by decide +kernel⟩

/-- Both outcomes of every branch, the highest target, a target just outside, and an empty register. -/
theorem witness_Branches :
    (∀ e ∈ ([(s0, .u, [0, 1, 7]), (sT, .u, [0])] : List (State × Level × List Reg)),
      State.ready e.1 e.2.1 ∧ State.readable e.1 e.2.2)
    ∧ State.canTrap sT
    ∧ State.ready sEm .u
    ∧ Obligations.targetOk (Obligations.targetOf s0 (0x1FBF#18).toInt)
    ∧ (s0.cx.reg 0 = 0 ∧ 0 < (s0.cx.reg 1).toInt ∧ (s0.cx.reg 7).toInt < 0 ∧ s0.cx.isFull 1 = true ∧
      (Obligations.targetOf sT (0x1FC0#18).toInt).toNat % 4 = 0 ∧ 0x8000 ≤ (Obligations.targetOf sT (0x1FC0#18).toInt).toNat ∧
      sEm.cx.isFull 1 = false ∧ sEm.cx.isBad 1 = false ∧ sEm.cx.loading 1 = false ∧ sEm.cx.isFull 31 = false ∧ sEm.cx.isBad 31 = false ∧
      sEm.cx.loading 31 = false) :=
  ⟨each (fun _ => issues) (by decide +kernel), canTrap_of (by decide +kernel), ready_of (by decide +kernel), targetOk_of (by decide +kernel),
  by decide +kernel⟩

/-- The highest target, one just outside, register targets that are good, misaligned and outside, and empty registers. -/
theorem witness_Jumps :
    (∀ e ∈ ([(s0, .u, [3, 31]), (sT, .u, [2, 6])] : List (State × Level × List Reg)),
      State.ready e.1 e.2.1 ∧ State.readable e.1 e.2.2)
    ∧ State.canTrap sT
    ∧ State.ready sEm .u
    ∧ Obligations.targetOk (Obligations.targetOf s0 (0x1FBF#26).toInt)
    ∧ Obligations.targetOk (s0.cx.reg 3)
    ∧ Obligations.targetOk (s0.cx.reg 31)
    ∧ (takeOk 3 true = true ∧ (sT.cx.reg 2).toNat % 4 ≠ 0 ∧ (sT.cx.reg 6).toNat % 4 = 0 ∧ 0x8000 ≤ (sT.cx.reg 6).toNat ∧
      (Obligations.targetOf sT (0x1FC0#26).toInt).toNat % 4 = 0 ∧ 0x8000 ≤ (Obligations.targetOf sT (0x1FC0#26).toInt).toNat ∧
      sEm.cx.isFull 1 = false ∧ sEm.cx.isBad 1 = false ∧ sEm.cx.loading 1 = false ∧ sEm.cx.isFull 31 = false ∧ sEm.cx.isBad 31 = false ∧
      sEm.cx.loading 31 = false) :=
  ⟨each (fun _ => issues) (by decide +kernel), canTrap_of (by decide +kernel), ready_of (by decide +kernel), targetOk_of (by decide +kernel),
  targetOk_of (by decide +kernel), targetOk_of (by decide +kernel), by decide +kernel⟩

/-- The ends of the ranges of majors; no handler, in context 0, in the ballonet and in a helper; inside a handler. -/
theorem witness_IllegalWords :
    State.inOrder sT
    ∧ State.canTrap sT
    ∧ State.ready s0 .u
    ∧ (0x26 ≤ (0x98000000#32).toNat / 2 ^ 26 ∧ (0xBFFFFFFF#32).toNat / 2 ^ 26 ≤ 0x2F ∧ 0x34 ≤ (0xD0000000#32).toNat / 2 ^ 26 ∧
      s0.cx.isBad 0 = false ∧ s0.cx.rep = none ∧ s0.cx.load = none ∧ sIn.cx.rep = none ∧ sIn.cx.load = none ∧ sB0.cx.rep = none ∧
      sB0.cx.load = none ∧ sH.cx.rep = none ∧ sH.cx.load = none ∧ s0.cx.spr.tvec.getLsbD 0 = false ∧ sB0.cx.spr.tvec.getLsbD 0 = false ∧
      sH.cx.spr.tvec.getLsbD 0 = false ∧ s0.cur.2 = 0 ∧ sIn.cx.spr.inh = true ∧ sB0.cur.2 = 11 ∧ 1 ≤ sH.cur.2 ∧ sH.cur.2 ≤ 10 ∧
      sH.me.pending sH.cur.2 = false ∧ sH.cx.pkt = none) :=
  ⟨inOrder_of (by decide +kernel), canTrap_of (by decide +kernel), ready_of (by decide +kernel), by decide +kernel⟩

/-- Latches with no, one and two immediate words; a context that can halt; one with a store under way. -/
theorem witness_HintWords :
    (∀ e ∈ ([s0, sI1, sI2, sLS, sWt] : List (State)),
      State.inOrder e)
    ∧ State.canTrap sI2
    ∧ (∀ e ∈ ([(sLS, .s), (sWt, .u)] : List (State × Level)),
      State.cleared e.1 e.2)
    ∧ (s0.cx.latch.imx = 0 ∧ sI1.cx.latch.imx = 1 ∧ 2 ≤ sI2.cx.latch.imx ∧ sLS.cx.latch.imx = 0 ∧ sLS.scalarBusy = false ∧
      sLS.me.pending sLS.cur.2 = false ∧ sWt.cx.latch.imx = 0 ∧ sWt.scalarBusy = true) :=
  ⟨each (fun _ => inOrder_of) (by decide +kernel), canTrap_of (by decide +kernel), each (fun _ => cleared_of) (by decide +kernel), by decide +kernel⟩

/-- A word, the last doubleword below the stash, and the engine state. -/
theorem witness_LocalLoads :
    (∀ e ∈ ([(sM, .u, [1, 8, 10]), (sLT, .u, [10])] : List (State × Level × List Reg)),
      State.ready e.1 e.2.1 ∧ State.readable e.1 e.2.2)
    ∧ (∀ e ∈ ([(sM, 0x1000, 4, 4, false), (sM, 0x5FFF8, 8, 8, false), (sLT, 0x1E500, 8, 8, false)] : List (State × Nat × Nat × Nat × Bool)),
      State.localOk e.1 e.2.1 e.2.2.1 e.2.2.2.1 e.2.2.2.2)
    ∧ (loadOk 2 true 1 = true ∧ Obligations.eaOf sM 1 2 0 = 0x1000 ∧ Obligations.eaOf sM 8 3 (-1) = 0x5FFF8 ∧
      Obligations.eaOf sLT 10 3 0 = 0x1E500 ∧ 0x1E440 ≤ Obligations.eaOf sLT 10 3 0) :=
  ⟨each (fun _ => issues) (by decide +kernel), each (fun _ => localOk_of) (by decide +kernel), by decide +kernel⟩

/-- A plain and a releasing store. -/
theorem witness_LocalStore :
    (State.ready sM .u ∧ State.readable sM [1, 2])
    ∧ State.localOk sM 0x1000 4 4 true
    ∧ (storeOk 2 = true ∧ Obligations.eaOf sM 1 2 0 = 0x1000 ∧ sM.scalarBusy = false ∧ sM.me.wideIdle sM.cur.2 = true) :=
  ⟨issues (by decide +kernel), localOk_of (by decide +kernel), by decide +kernel⟩

/-- A word of local memory. -/
theorem witness_LocalAtomics :
    (State.ready sM .u ∧ State.readable sM [1, 2, 4])
    ∧ State.localOk sM (sM.cx.reg 1).toNat 4 4 false
    ∧ (2 ≤ (2#2).toNat ∧ sM.scalarBusy = false ∧ sM.me.wideIdle sM.cur.2 = true) :=
  ⟨issues (by decide +kernel), localOk_of (by decide +kernel), by decide +kernel⟩

/-- The core image at level U, a misaligned address below it, and the first address of the stash. -/
theorem witness_LocalAccessTraps :
    (State.ready sT .u ∧ State.readable sT [10, 1, 8])
    ∧ State.canTrap sT
    ∧ (sT.cx.level = .u ∧ inImage (Obligations.eaOf sT 10 3 0) 1 = true ∧ inImage (Obligations.eaOf sT 1 1 1) 1 = false ∧
      Obligations.eaOf sT 1 3 1 % 8 = 0 ∧ inImage (Obligations.eaOf sT 2 3 0) 1 = false ∧ Obligations.eaOf sT 2 3 0 % 8 ≠ 0 ∧
      inImage (Obligations.eaOf sT 8 3 0) 1 = false ∧ Obligations.eaOf sT 8 3 0 % 8 = 0 ∧ sT.me.stashBase < Obligations.eaOf sT 8 3 0 + 8) :=
  ⟨issues (by decide +kernel), canTrap_of (by decide +kernel), by decide +kernel⟩

/-- An answered load, a fill that has come; a hit in the stash, a word that its line lacks, a line that it lacks; under no-allocate and with no stash; LDG.acq with its line and without. -/
theorem witness_GlobalLoad :
    (∀ e ∈ ([(sA6, .u, [1]), (sG1, .u, [1]), (sG, .u, [1]), (sGe, .u, [1]), (sGn, .u, [1]), (sF2 9 sG1, .u, [1])] : List (State × Level × List Reg)),
      State.ready e.1 e.2.1 ∧ State.readable e.1 e.2.2)
    ∧ State.hasAnswer sA6 6 0x80000001
    ∧ State.hasAnswer (sF2 9 sG1) 2 9
    ∧ (∀ e ∈ ([(sG1, 0, 0x7000), (sG, 0, 0x7000), (sG1, 8, 0x7020), (sGe, 0, 0x7000), (sGn, 0, 0x7000)] : List (State × BitVec 11 × Nat)),
      State.globalAt e.1 (at1 e.1 2 e.2.1) 4 0 e.2.2)
    ∧ (loadOk 2 false 0 = true ∧ (at1 sA6 2 0).toNat % 4 = 0 ∧ sA6.scalarBusy = false ∧ (at1 (sF2 9 sG1) 2 0).toNat % 4 = 0 ∧
      9 / 2 ^ (512 + (at1 (sF2 9 sG1) 2 0).toNat % 64 / 8) % 2 = 0 ∧
      sG1.me.stashSets ≠ 0 ∧ sG1.me.findLine 0x7000 = some (0, ⟨0x7000 / 64, 0x00FF, 0x0001, none, 3⟩) ∧
      lineMask 0x7000 4 &&& ~~~0x00FF#16 = 0 ∧ sG1.me.poisoned (sG1.me.lineData 0 + 0x7000 % 64) 4 = false ∧
      sG1.me.findLine 0x7020 = some (0, ⟨0x7000 / 64, 0x00FF, 0x0001, none, 3⟩) ∧ lineMask 0x7020 4 &&& ~~~0x00FF#16 ≠ 0 ∧
      sGe.me.stashSets ≠ 0 ∧ sGe.me.findLine 0x7000 = none ∧ sGe.cx.stashHint ≠ 1 ∧ sGn.me.findLine 0x7000 = none ∧ sGn.cx.stashHint = 1 ∧
      sG.me.stashSets = 0 ∧ sG.me.findLine 0x7000 = none) :=
  ⟨each (fun _ => issues) (by decide +kernel), hasAnswer_of (by decide +kernel), hasAnswer_of (by decide +kernel),
  each (fun _ => globalAt_of) (by decide +kernel), by decide +kernel⟩

/-- An answered store; whole words and parts of words into a line that holds, lacks and gets them, and into a line that the stash lacks; under no-allocate and with no stash; STG.rel without and with a line; a register. -/
theorem witness_GlobalStore :
    (∀ e ∈ ([(sA4, .u, [1, 2]), (sG1, .u, [1, 2]), (sG, .u, [1, 2]), (sGe, .u, [1, 2]), (sGn, .u, [1, 2]), (sF2 (0x7000 / 64 * 2 ^ 520) sG1, .u, [1, 2]),
      (sG2, .u, [1, 2]), (sGr0, .u, [1, 2])] : List (State × Level × List Reg)),
      State.ready e.1 e.2.1 ∧ State.readable e.1 e.2.2)
    ∧ State.hasAnswer sA4 4 0
    ∧ State.hasAnswer (sF2 (0x7000 / 64 * 2 ^ 520) sG1) 2 (0x7000 / 64 * 2 ^ 520)
    ∧ (∀ e ∈ ([(sG1, 2, 0, 0x7000), (sG1, 0, 0, 0x7000), (sG1, 0, 32, 0x7020), (sGe, 2, 0, 0x7000), (sGe, 0, 0, 0x7000), (sGn, 2, 0, 0x7000),
      (sG, 2, 0, 0x7000), (sG2, 2, 0, 0x7000), (sG2, 0, 0, 0x7000), (sG2, 0, 32, 0x7020)] : List (State × BitVec 2 × BitVec 11 × Nat)),
      State.globalAt e.1 (at1 e.1 e.2.1 e.2.2.1) (2 ^ e.2.1.toNat) 1 e.2.2.2)
    ∧ State.globalReg sGr0 (at1 sGr0 3 0) 8 1 0x8004001000
    ∧ ((at1 sA4 2 0).toNat % 4 = 0 ∧ sG1.me.stashSets ≠ 0 ∧ sGe.me.stashSets ≠ 0 ∧
      sG1.me.findLine 0x7000 = some (0, ⟨0x7000 / 64, 0x00FF, 0x0001, none, 3⟩) ∧ sG1.me.writePoisoned (sG1.me.lineData 0 + 0x7000 % 64) 4 = false ∧
      lineMask 0x7000 1 &&& 0x00FF#16 ≠ 0 ∧ lineMask 0x7020 1 &&& 0x00FF#16 = 0 ∧
      sG1.me.findLine 0x7020 = some (0, ⟨0x7000 / 64, 0x00FF, 0x0001, none, 3⟩) ∧ sG1.me.writePoisoned (sG1.me.lineData 0 + 0x7000 % 64) 1 = false ∧
      sGe.me.findLine 0x7000 = none ∧ sGe.cx.stashHint ≠ 1 ∧ (∀ i, i < 512 → sGe.me.writePoisoned (sGe.me.lineData i + 0x7000 % 64) 4 = false) ∧
      (at1 (sF2 (0x7000 / 64 * 2 ^ 520) sG1) 0 0).toNat % 1 = 0 ∧
      64 * (0x7000 / 64 * 2 ^ 520 / 2 ^ 520) + (at1 (sF2 (0x7000 / 64 * 2 ^ 520) sG1) 0 0).toNat % 64 = 0x7000 ∧
      (sF2 (0x7000 / 64 * 2 ^ 520) sG1).me.findLine 0x7000 = some (0, ⟨0x7000 / 64, 0x00FF, 0x0001, none, 3⟩) ∧
      sGn.me.findLine 0x7000 = none ∧ sGn.cx.stashHint = 1)
    ∧ (sG.me.stashSets = 0 ∧ sG2.scalarBusy = false ∧ sG2.me.wideIdle sG2.cur.2 = true ∧ (∀ e ∈ sG2.me.lines, e.2.d = 0) ∧
      sG2.me.owesAcks sG2.cur.2 sG2.uid = false ∧ sG2.me.findLine 0x7000 = some (0, ⟨0x7000 / 64, 0x00FF, 0, some 1, 3⟩) ∧
      sG2.me.findLine 0x7020 = some (0, ⟨0x7000 / 64, 0x00FF, 0, some 1, 3⟩) ∧ sG2.me.writePoisoned (sG2.me.lineData 0 + 0x7000 % 64) 4 = false ∧
      sG.me.findLine 0x7000 = none ∧ sG.scalarBusy = false ∧ (∀ e ∈ sG.me.lines, e.2.d = 0) ∧ sG.me.owesAcks sG.cur.2 sG.uid = false) :=
  ⟨each (fun _ => issues) (by decide +kernel), hasAnswer_of (by decide +kernel), hasAnswer_of (by decide +kernel),
  each (fun _ => globalAt_of) (by decide +kernel), globalReg_of (by decide +kernel), by decide +kernel, by decide +kernel⟩

/-- An answered atomic; one that is sent, plain and with both order parts. -/
theorem witness_GlobalAtomics :
    (∀ e ∈ ([(sA5, .u, [1, 2, 4]), (sG, .u, [1, 2, 4])] : List (State × Level × List Reg)),
      State.ready e.1 e.2.1 ∧ State.readable e.1 e.2.2)
    ∧ State.hasAnswer sA5 5 0x80000001
    ∧ State.globalAt sG (sG.cx.reg 1) 4 2 0x7000
    ∧ (amogOk 2 4 = true ∧ (sA5.cx.reg 1).toNat % 4 = 0 ∧ sA5.scalarBusy = false ∧ sG.me.stashSets = 0 ∧ sG.scalarBusy = false ∧
      sG.me.wideIdle sG.cur.2 = true ∧ (∀ e ∈ sG.me.lines, e.2.d = 0) ∧ sG.me.owesAcks sG.cur.2 sG.uid = false ∧
      sG.me.owesFabric sG.cur.2 sG.uid = false) :=
  ⟨each (fun _ => issues) (by decide +kernel), hasAnswer_of (by decide +kernel), globalAt_of (by decide +kernel), by decide +kernel⟩

/-- A context at rest with a clean line and with a dirty one; a store under way; the wide side at work; a write-back under way; waits begun before. -/
theorem witness_Fences :
    (∀ e ∈ ([(sG1, .u), (sG2, .u), (sWt, .u), (sWd, .u), (sOw, .u), (sT3, .u), (sOw3, .u)] : List (State × Level)),
      State.ready e.1 e.2)
    ∧ (∀ e ∈ ([(sG2, 4, sG2.uid), (sT3, 4, 25)] : List (State × Nat × Nat)),
      ¬Obligations.owes e.1 e.2.1 e.2.2)
    ∧ (∀ e ∈ ([(sOw, 1, sOw.uid), (sOw3, 1, 40)] : List (State × Nat × Nat)),
      Obligations.owes e.1 e.2.1 e.2.2)
    ∧ (sWt.cx.acc = none ∧ sWd.cx.acc = none ∧ sG1.cx.acc = none ∧ sG2.cx.acc = none ∧ sOw.cx.acc = none ∧ sWt.scalarBusy = true ∧
      sWd.scalarBusy = false ∧ sG1.scalarBusy = false ∧ sG2.scalarBusy = false ∧ sOw.scalarBusy = false ∧ sWd.me.wideIdle 0 = false ∧
      sG1.me.wideIdle 0 = true ∧ sG2.me.wideIdle 0 = true ∧ sOw.me.wideIdle 0 = true ∧ (∀ e ∈ sG2.me.lines, e.2.d = 0) ∧
      sOw.me.lines = [] ∧ kget sG1.me.lines 0 = some ⟨0x7000 / 64, 0x00FF, 0x0001, none, 3⟩ ∧
      sT3.cx.acc = some ⟨3, 25, some ⟨0, false, none⟩⟩ ∧ sOw3.cx.acc = some ⟨3, 40, some ⟨0, false, none⟩⟩) :=
  ⟨each (fun _ => ready_of) (by decide +kernel), each (fun _ => owesNot_of) (by decide +kernel), each (fun _ => owes_of) (by decide +kernel),
  by decide +kernel⟩

/-- Levels U, with a handler, and T; a value that names a higher level; legal and illegal areas and windows; a supervisor at level S; a hint beside a HIMM in HLATCH; a core that has taken a stream word and one that has not; a task; a streamed context; a vector command at work; a burner that is off. -/
theorem witness_SpecialAccess :
    (∀ e ∈ ([(s0, .u, [1]), (sT, .u, [1, 7]), (sLT, .u, [1, 7]), (sSup, .u, [1]), (sSup, .t, [1]), (sS1, .u, [1]), (sTk, .u, [1]),
      (eQ (.vadd 1 1 1 0 8 true false), .u, [1])] : List (State × Level × List Reg)),
      State.ready e.1 e.2.1 ∧ State.readable e.1 e.2.2)
    ∧ (∀ e ∈ ([sT, sLT] : List State), State.canTrap e)
    ∧ State.cleared sS .u
    ∧ (s0.me.vecBusy s0.cur.2 = false ∧ (eQ (.vadd 1 1 1 0 8 true false)).me.vecBusy 0 = true ∧ sT.cx.level = .u ∧ sLT.cx.level ≠ .u ∧
      sT.cx.spr.hlatch.imx ≤ 2 ∧ isSup sSup.cur.1 = true ∧ sSup.cx.level = .s ∧ sS1.me.stream.last = some 7 ∧ s0.me.stream.last = none ∧
      sTk.cx.task.map (·.rec_) = some (record 5) ∧ s0.cx.task = none ∧ sS.cx.latch.imx = 0 ∧ sS.cx.rep = none ∧ sS.cx.mode = .streamed ∧
      (sT.cx.reg 1).toNat / 2 ^ 6 % 2 ^ 2 = 0 ∧ (sT.cx.reg 7).toNat / 2 ^ 6 % 2 ^ 2 = 3 ∧ sT.cx.level.num < (Level.s).num ∧
      (sLT.cx.reg 1).getLsbD 0 = false ∧ (sLT.cx.reg 7).getLsbD 0 = true ∧ sLT.me.stashBase < 256 * 0xFFF + 16768 ∧
      (sLT.cx.reg 7).getLsbD 32 = true ∧ 19 < (sLT.cx.reg 7).toNat / 2 ^ 20 % 2 ^ 6 ∧ (s0.ctx 1 0).spr.hbtiv = 0) :=
  ⟨each (fun _ => issues) (by decide +kernel), each (fun _ => canTrap_of) (by decide +kernel), cleared_of (by decide +kernel), by decide +kernel⟩

/-- Numbers at the ends of their ranges, at level U on a core that is no supervisor. -/
theorem witness_SpecialTraps :
    State.canTrap sT
    ∧ (sT.cx.latch.imx = 0 ∧ mfsOwn 40 = false ∧ mtsOwn 40 = false ∧ mfsOwn 2047 = false ∧ mtsOwn 2047 = false ∧ mtsOwn 6 = false ∧
      mfsOwn 6 = false ∧ mtsOwn 12 = false ∧ mfsOwn 12 = false ∧ mtsOwn 15 = false ∧ mfsOwn 15 = false ∧ sT.cx.level = .u ∧
      mfsOwn 31 = false ∧ mtsOwn 31 = false ∧ mfsOwn 36 = false ∧ mtsOwn 36 = false ∧ isSup sT.cur.1 = false ∧ mfsOwn 38 = false ∧
      mtsOwn 38 = false ∧ mfsOwn 39 = false ∧ mtsOwn 39 = false ∧ sT.cx.level ≠ .s) :=
  ⟨canTrap_of (by decide +kernel), by decide +kernel⟩

/-- A full link, an empty neighbour's link, the edge of the mesh. -/
theorem witness_Links :
    (State.ready sK .u ∧ State.readable sK [2])
    ∧ State.canTrap sK
    ∧ (∃ q, sK.linkCheck 1 false = .ok q)
    ∧ (∃ q, sK.linkCheck 1 true = .ok q ∧ q ≠ sK.cur.1 ∧ (sK.core q).links[((1#2) + 2).toNat] = none)
    ∧ (sK.me.links[(1#2).toNat] = some 5 ∧ facing sK.cur.1 (0#2).toNat = none) :=
  ⟨issues (by decide +kernel), canTrap_of (by decide +kernel), ⟨2, rfl⟩, ⟨2, rfl, by decide +kernel⟩, by decide +kernel⟩

/-- ACQUIRE and RELEASE: an object that passes, misplaced ones, a line bound to it clean and dirty, waits of each kind. SFLUSH and SINVAL: counts of 0 and more, clean and dirty lines, waits. SBIND: a number too high, one that is bound, a bad range, a good one. SUNBIND: a number without a region and one with. A resize: none, one and another under way, sizes 4 and 5. -/
theorem witness_StashWords :
    (∀ e ∈ ([(sG1, .u, [1, 9]), (sG2, .u, [1, 9]), (sG3, .u, [1, 9]), (sWt, .u, [1, 9]), (sWd, .u, [1, 9]), (sOw, .u, [1, 9]), (sT3, .u, [1, 9]),
      (sOw3, .u, [1, 9]), (sT, .u, [2, 8]), (sF, .u, [3, 4, 0]), (sBd, .u, [1, 8, 9]), (sBq, .u, [1, 8, 9]), (sBp, .u, [1, 8, 9]), (sRz, .t, [4, 2]),
      (sRzB, .t, [4, 2]), (sRzD, .t, [4, 2]), (sRz8, .t, [4, 2]), (sRzO, .t, [4, 2])] : List (State × Level × List Reg)),
      State.ready e.1 e.2.1 ∧ State.readable e.1 e.2.2)
    ∧ (∀ e ∈ ([(sG2, 4, sG2.uid), (sT3, 4, 25)] : List (State × Nat × Nat)),
      ¬Obligations.owes e.1 e.2.1 e.2.2)
    ∧ (∀ e ∈ ([(sOw, 1, sOw.uid), (sOw3, 1, 40)] : List (State × Nat × Nat)),
      Obligations.owes e.1 e.2.1 e.2.2)
    ∧ (∀ e ∈ ([sT, sRz] : List (State)),
      State.canTrap e)
    ∧ (∀ e ∈ ([(sBd, (sBd.cx.reg 1).toNat, 24, 8, false), (sBq, (sBq.cx.reg 1).toNat, 24, 8, false), (sBp, (sBp.cx.reg 1).toNat, 24, 8, false)] : List (State × Nat × Nat × Nat × Bool)),
      State.localOk e.1 e.2.1 e.2.2.1 e.2.2.2.1 e.2.2.2.2)
    ∧ ((sG2.cx.reg 1).toNat % 16 = 0 ∧ sG2.me.localCheck sG2.cx.level (sG2.cx.reg 1).toNat 16 16 = none ∧ sWt.cx.acc = none ∧
      sWd.cx.acc = none ∧ sG1.cx.acc = none ∧ sG2.cx.acc = none ∧ sOw.cx.acc = none ∧ sWt.scalarBusy = true ∧ sWd.scalarBusy = false ∧
      sG1.scalarBusy = false ∧ sG2.scalarBusy = false ∧ sOw.scalarBusy = false ∧ sWd.me.wideIdle 0 = false ∧ sG1.me.wideIdle 0 = true ∧
      sG2.me.wideIdle 0 = true ∧ sOw.me.wideIdle 0 = true ∧ sG3.cx.acc = none ∧ sG3.scalarBusy = false ∧ sG3.me.wideIdle 0 = true ∧
      kget sG3.me.lines 0 = some ⟨0x7000 / 64, 0x00FF, 1, some 1, 3⟩ ∧
      (some 1).any (fun r => (kget sG3.me.regions r).any (fun e => e.obj == (sG3.cx.reg 1).toNat)) = true ∧
      sT3.cx.acc = some ⟨3, 25, some ⟨0, false, none⟩⟩)
    ∧ (sOw3.cx.acc = some ⟨3, 40, some ⟨0, false, none⟩⟩ ∧ (sT.cx.reg 2).toNat % 16 ≠ 0 ∧ (sT.cx.reg 8).toNat % 16 = 0 ∧
      sT.me.localCheck sT.cx.level (sT.cx.reg 8).toNat 16 16 ≠ none ∧ sF.cx.acc = none ∧ sF.scalarBusy = false ∧ (sF.cx.reg 0).toNat = 0 ∧
      (sF.cx.reg 4).toNat ≠ 0 ∧ kget sF.me.lines 0 = some ⟨0x7000 / 64, 0x00FF, 0x0001, none, 3⟩ ∧
      (⟨0x7000 / 64, 0x00FF, 0x0001, none, 3⟩ : Line).within (sF.bump.extents sF.cur.1 sF.uid (sF.cx.reg 3).toNat (sF.cx.reg 4).toNat 0).2.1 = true ∧
      (sF.bump.extents sF.cur.1 sF.uid (sF.cx.reg 3).toNat (sF.cx.reg 4).toNat 0).2.2 = none ∧
      (∀ x ∈ sG2.me.lines, x.2.d = 0) ∧ sG2.me.outs = [] ∧ sOw3.me.outs.any (fun o => o.wback && decide (o.uid < 40)) = true ∧
      sT3.me.outs = [] ∧ 64 ≤ (sBd.cx.reg 8).toNat ∧ kget sBq.me.regions (sBq.cx.reg 9).toNat ≠ none ∧ (sBq.cx.reg 9).toNat < 64 ∧
      kget sBp.me.regions (sBp.cx.reg 9).toNat = none ∧ mnat sBp.me.lmem (sBp.cx.reg 1).toNat 8 % 64 ≠ 0 ∧ sBd.me.regions = [] ∧
      mnat sBd.me.lmem (sBd.cx.reg 1).toNat 8 % 64 = 0 ∧ mnat sBd.me.lmem ((sBd.cx.reg 1).toNat + 8) 8 = 64)
    ∧ (sBd.me.lines = [] ∧ sBd.me.outs = [] ∧ sBd.cx.acc = none ∧ sG2.cx.load = none ∧ 64 ≤ (sG2.cx.reg 1).toNat ∧
      kget sG2.me.regions (sG2.cx.reg 9).toNat = some ⟨0x1000, 64, 0x1000⟩ ∧ (sG2.cx.reg 9).toNat < 64 ∧
      (∀ x ∈ sG2.me.lines, x.2.region = some 1 → x.2.d = 0) ∧ kget sG3.me.regions (sG3.cx.reg 9).toNat = some ⟨0x1000, 64, 0x1000⟩ ∧
      ((sRz.cx.reg 4).toNat % 8 ≤ 4) ∧ ((sRzB.cx.reg 4).toNat % 8 ≤ 4) ∧ ((sRzD.cx.reg 4).toNat % 8 ≤ 4) ∧
      ((sRz8.cx.reg 4).toNat % 8 ≤ 4) ∧ ((sRzO.cx.reg 4).toNat % 8 ≤ 4) ∧ sRz.cx.acc = none ∧ sRz.cx.load = none ∧
      sRz.me.spr.stashBusy = false ∧ sRz.me.outs = [] ∧ (∀ e ∈ sRz.me.lines, e.2.d = 0) ∧ sRzB.cx.acc = none ∧
      sRzB.me.spr.stashBusy = true ∧ sRzD.cx.acc = none)
    ∧ (sRzD.cx.load = none ∧ sRzD.me.spr.stashBusy = false ∧ kget sRzD.me.lines 0 = some ⟨0x7000 / 64, 0x00FF, 0x0001, none, 3⟩ ∧
      sRz8.cx.acc = some ⟨8, 25, some ⟨0, false, none⟩⟩ ∧ sRz8.me.outs = [] ∧ sRzO.cx.acc = some ⟨8, 40, some ⟨0, false, none⟩⟩ ∧
      sRzO.me.outs.any (fun o => o.wback && decide (o.uid < 40)) = true ∧ 4 < (sRz.cx.reg 2).toNat % 8) :=
  ⟨each (fun _ => issues) (by decide +kernel), each (fun _ => owesNot_of) (by decide +kernel), each (fun _ => owes_of) (by decide +kernel),
  each (fun _ => canTrap_of) (by decide +kernel), each (fun _ => localOk_of) (by decide +kernel), by decide +kernel, by decide +kernel,
  by decide +kernel, by decide +kernel⟩

/-- The flush of a range: a page that is not mapped, alone and behind one that holds a dirty line; mapped pages whose lines are clean; the work goes on
behind a page, on one that is not mapped and at the range's end, with no write-back before it and with one. -/
theorem witness_Flushes :
    (∀ e ∈ ([sFu, sFx, sFc, sFr, sFe, sFo] : List State), State.ready e .u ∧ State.readable e [3, 4])
    ∧ (∀ e ∈ ([sFu, sFx, sFc] : List State), e.cx.acc = none ∧ e.scalarBusy = false ∧ (e.cx.reg 4).toNat ≠ 0)
    ∧ ((sFu.bump.extents sFu.cur.1 sFu.uid 0x9000 64 0).2 = ([], some 0) ∧ (sFx.bump.extents sFx.cur.1 sFx.uid 0x1000 0x1040 0).2 = ([(0x7000, 0x7FFF)], some 0x1000) ∧
      (sFc.bump.extents sFc.cur.1 sFc.uid 0x1000 64 0).2 = ([(0x7000, 0x703F)], none) ∧ (∀ x ∈ sFc.me.lines, x.2.d = 0) ∧ sFc.me.outs = [] ∧
      kget sFx.me.lines 0 = some ⟨0x7000 / 64, 0x00FF, 0x0001, none, 3⟩ ∧ (⟨0x7000 / 64, 0x00FF, 0x0001, none, 3⟩ : Line).within [(0x7000, 0x7FFF)] = true)
    ∧ (sFr.cx.acc = some ⟨1, 25, some ⟨0x1000, false, none⟩⟩ ∧ (sFr.extents sFr.cur.1 25 0x1000 0x1040 0x1000).2 = ([], some 0x1000) ∧
      sFe.cx.acc = some ⟨1, 25, some ⟨0x1040, false, none⟩⟩ ∧ (sFe.extents sFe.cur.1 25 0x1000 0x1040 0x1040).2 = ([], none) ∧ sFe.me.outs = [] ∧
      sFo.cx.acc = some ⟨1, 40, some ⟨0x1040, false, none⟩⟩ ∧ (sFo.extents sFo.cur.1 40 0x1000 0x1040 0x1040).2 = ([], none) ∧
      sFo.me.outs.any (fun o => o.wback && decide (o.uid < (sFo.extents sFo.cur.1 40 0x1000 0x1040 0x1040).1.uid)) = true) :=
  ⟨each (fun _ => issues) (by decide +kernel), by decide +kernel, by decide +kernel, by decide +kernel⟩

/-- The last pointer; queues with room, with an entry, and empty with none owed. -/
theorem witness_PointerAndQueueWords :
    (State.ready sQ .u ∧ State.readable sQ [1, 2])
    ∧ State.ready sT .u
    ∧ State.canTrap sT
    ∧ ((7#5).toNat ≤ 7 ∧ takeOk 1 true = true ∧ sQ.cx.qs.length < 8 ∧ sQ.cx.qw = ⟨3, some (9, false)⟩ :: [⟨4, none⟩] ∧ sT.cx.qw = [] ∧
      sT.me.owed sT.cur.2 = 0 ∧ sT.me.seqOwes sT.cur.2 = false) :=
  ⟨issues (by decide +kernel), ready_of (by decide +kernel), canTrap_of (by decide +kernel), by decide +kernel⟩

/-- A record without and with a bound object, and one that fails; a descriptor that is free, in use, and poisoned; an object to bind and none. -/
theorem witness_DescriptorWords :
    (∀ e ∈ ([((sD false), .u, [1, 0]), ((sD true), .u, [1, 0]), (sDb, .u, [1, 0]), (sDx, .u, [1, 0])] : List (State × Level × List Reg)),
      State.ready e.1 e.2.1 ∧ State.readable e.1 e.2.2)
    ∧ (∀ e ∈ ([((sD false), ((sD false).cx.reg 1).toNat, 32, 32, false), ((sD false), ((sD false).cx.reg 1).toNat, 32, 32, true),
      (sDb, (sDb.cx.reg 1).toNat, 32, 32, false), (sDb, (sDb.cx.reg 1).toNat, 32, 32, true), (sDx, (sDx.cx.reg 1).toNat, 32, 32, false)] : List (State × Nat × Nat × Nat × Bool)),
      State.localOk e.1 e.2.1 e.2.2.1 e.2.2.2.1 e.2.2.2.2)
    ∧ (∀ e ∈ ([sDx, sDp] : List (State)),
      State.canTrap e)
    ∧ State.ready sDp .u
    ∧ ((sD false).me.tdBad 2 = false ∧ (sD false).me.tdBusy 2 = false ∧ (sD true).me.tdBad 2 = false ∧ (sD true).me.tdBusy 2 = false ∧
      sDb.me.tdBad 2 = false ∧ sDb.me.tdBusy 2 = true ∧
      TDesc.check (BitVec.ofNat 256 (mnat (sD false).me.lmem ((sD false).cx.reg 1).toNat 32)) = none ∧
      TDesc.check (BitVec.ofNat 256 (mnat (sD true).me.lmem ((sD true).cx.reg 1).toNat 32)) = none ∧
      TDesc.check (BitVec.ofNat 256 (mnat sDb.me.lmem (sDb.cx.reg 1).toNat 32)) = none ∧
      TDesc.check (BitVec.ofNat 256 (mnat sDx.me.lmem (sDx.cx.reg 1).toNat 32)) = some 0x04 ∧ ((sD false).cx.reg 1).toNat ≠ 0 ∧
      (sD false).me.localCheck (sD false).cx.level ((sD false).cx.reg 1).toNat 16 16 = none ∧
      (sD false).me.objectCheck ((sD false).cx.reg 1).toNat = none ∧ ((sD false).cx.reg 0).toNat = 0 ∧ (sDb.cx.reg 1).toNat ≠ 0 ∧
      sDb.me.localCheck sDb.cx.level (sDb.cx.reg 1).toNat 16 16 = none ∧ sDb.me.objectCheck (sDb.cx.reg 1).toNat = none ∧
      (sDb.cx.reg 0).toNat = 0 ∧ sDp.me.tdBad 2 = true) :=
  ⟨each (fun _ => issues) (by decide +kernel), each (fun _ => localOk_of) (by decide +kernel), each (fun _ => canTrap_of) (by decide +kernel),
  ready_of (by decide +kernel), by decide +kernel⟩

/-- Guards in each state, with a command undecided under one; tokens at rest, busy and in fault; a failure that the sequencer has recorded. -/
theorem witness_GuardAndTokenWords :
    (∀ e ∈ ([(sQ, .u, [1]), (sUd, .u, [1])] : List (State × Level × List Reg)),
      State.ready e.1 e.2.1 ∧ State.readable e.1 e.2.2)
    ∧ (∀ e ∈ ([sQ, sQf] : List (State)),
      State.canTrap e)
    ∧ State.ready sQf .u
    ∧ ((1#3) ≠ 0 ∧ sQ.me.undecided sQ.cur.2 1 = false ∧ sQ.cx.c[(1#3).toNat] = .yes ∧ sQ.cx.c[(2#3).toNat] = .no ∧
      sQ.cx.c[(7#3).toNat] = .unresolved ∧ sUd.cx.c[(1#3).toNat] = .yes ∧ sUd.me.undecided sUd.cur.2 1 = true ∧
      (sQ.me.seq.owner = some sQ.cur.2 → sQ.me.seq.stat.getLsbD 12 = false) ∧
      (∀ k < 8, (0xF3#8).getLsbD k = true → (sQ.cx.tok (BitVec.ofNat 3 k)).st ≠ .busy ∧ (sQ.cx.tok (BitVec.ofNat 3 k)).st ≠ .fault) ∧
      (∀ k < 8, (0x04#8).getLsbD k = true → (sQ.cx.tok (BitVec.ofNat 3 k)).st ≠ .busy) ∧
      ((0x04#8).getLsbD 2 = true ∧ (sQ.cx.tok 2).st = .fault ∧ ∀ j < 2, (0x04#8).getLsbD j = true → (sQ.cx.tok (BitVec.ofNat 3 j)).st ≠ .fault) ∧
      (0x08#8).getLsbD 3 = true ∧ (sQ.cx.tok 3).st = .busy ∧ sQf.me.seq.owner = some sQf.cur.2 ∧ sQf.me.seq.stat.getLsbD 12 = true) :=
  ⟨each (fun _ => issues) (by decide +kernel), each (fun _ => canTrap_of) (by decide +kernel), ready_of (by decide +kernel), by decide +kernel⟩

/-- A disarmed object; an armed one that a count and an expectation reach and do not reach, with a wait begun; an overrun one; addresses that are misaligned, in the core image and in the stash. -/
theorem witness_BarrierWords :
    (∀ e ∈ ([(sO0, .u, [1, 2, 9, 0]), (sO1, .u, [1, 2, 9, 0]), (sOw1, .u, [1, 2, 9, 0]), (sO4, .u, [1, 2, 9, 0]), (sO3, .u, [1, 2, 9, 0]),
      (sT, .u, [2, 10, 8])] : List (State × Level × List Reg)),
      State.ready e.1 e.2.1 ∧ State.readable e.1 e.2.2)
    ∧ (∀ e ∈ ([(sO0, (sO0.cx.reg 1).toNat), (sO1, (sO1.cx.reg 1).toNat), (sOw1, (sOw1.cx.reg 1).toNat), (sO4, (sO4.cx.reg 1).toNat),
      (sO3, (sO3.cx.reg 1).toNat)] : List (State × Nat)),
      Obligations.objectOk e.1 e.2)
    ∧ (∀ e ∈ ([sO3, sT] : List (State)),
      State.canTrap e)
    ∧ (mnat sO0.me.lmem (0x1000 + 8) 4 % 16 / 2 % 2 = 0 ∧ mnat sO0.me.lmem (0x1000 + 8) 4 % 16 / 4 ≠ 3 ∧
      mnat sO0.me.lmem (0x1000 + 4) 4 < (sO0.cx.reg 2).toNat % 2 ^ 32 ∧ mnat sO1.me.lmem (0x1000 + 8) 4 % 16 / 2 % 2 = 1 ∧
      mnat sO1.me.lmem (0x1000 + 4) 4 + (sO1.cx.reg 2).toNat % 2 ^ 32 < mnat sO1.me.lmem (0x1000 + 0) 4 ∧
      (sO1.cx.reg 9).toNat % 2 ^ 32 ≤ mnat sO1.me.lmem (0x1000 + 4) 4 ∧ mnat sO1.me.lmem (0x1000 + 8) 4 % 16 / 4 ≠ 3 ∧ sO1.cx.acc = none ∧
      sOw1.cx.acc = some ⟨11, (sOw1.cx.reg 1).toNat, none⟩ ∧ mnat sOw1.me.lmem (0x1000 + 8) 4 % 16 / 2 % 2 = 1 ∧
      mnat sO4.me.lmem (0x1000 + 0) 4 ≤ min (mnat sO4.me.lmem (0x1000 + 4) 4 + (sO4.cx.reg 2).toNat % 2 ^ 32) 0xFFFFFFFF ∧
      mnat sO4.me.lmem (0x1000 + 8) 4 % 16 / 2 % 2 = 1 ∧ mnat sO3.me.lmem (0x1000 + 8) 4 % 16 / 4 = 3 ∧
      sO3.cx.acc ≠ some ⟨11, (sO3.cx.reg 1).toNat, none⟩ ∧ (sT.cx.reg 2).toNat % 16 ≠ 0 ∧ (sT.cx.reg 10).toNat % 16 = 0 ∧
      inImage (sT.cx.reg 10).toNat 16 = true ∧ (sT.cx.reg 8).toNat % 16 = 0 ∧ sT.me.stashBase < (sT.cx.reg 8).toNat + 16) :=
  ⟨each (fun _ => issues) (by decide +kernel), each (fun _ => objectOk_of) (by decide +kernel), each (fun _ => canTrap_of) (by decide +kernel),
  by decide +kernel⟩

/-- A count above and at the index; a repetition in the middle and at its end. -/
theorem witness_RepWords :
    State.inOrder sRep
    ∧ (∀ e ∈ ([(sRep, [4, 2, 0]), ((sR 2), [1]), ((sR 3), [1])] : List (State × List Reg)),
      State.readable e.1 e.2)
    ∧ (∀ e ∈ ([((sR 3), .u), ((sR 2), .u)] : List (State × Level)),
      State.cleared e.1 e.2)
    ∧ ((Instr.rep 2 4 1 1).wf = true ∧ (Instr.rep 2 0 1 1).wf = true ∧ sRep.cx.pc + 4 < 0x8000 ∧ (sRep.wordAt (sRep.cx.pc + 4)).2 = false ∧
      (sRep.cx.reg 2).toNat < (sRep.cx.reg 4).toNat ∧ (sRep.cx.reg 0).toNat ≤ (sRep.cx.reg 2).toNat ∧
      decode (sRep.wordAt (sRep.cx.pc + 4)).1 = some (.addi 0 0 0) ∧
      repRefuses ((sRep.wordAt (sRep.cx.pc + 4)).1.toNat / 67108864) = false ∧ (1#5) &&& ~~~(repSlots (.addi 0 0 0)) = 0 ∧
      (sR 2).cx.rep = some ⟨0, 1, 2, 2, 4, 2⟩ ∧ (sR 3).cx.rep = some ⟨0, 1, 2, 2, 4, 3⟩ ∧ (sR 2).cx.mode = .loc ∧ (sR 2).cx.latch.imx = 0 ∧
      (sR 3).cx.mode = .loc ∧ (sR 3).cx.latch.imx = 0 ∧ (3#5) ≠ 2 ∧ (2#5) ≠ 0) :=
  ⟨inOrder_of (by decide +kernel), each (fun _ => readable_of) (by decide +kernel), each (fun _ => cleared_of) (by decide +kernel), by decide +kernel⟩

/-- Words to capture; a buffer to run; a hint, a command and a command that traps to place. -/
theorem witness_SequencerSteps :
    State.ready sC .u
    ∧ (State.ready sP .u ∧ State.readable sP [4])
    ∧ (sC.me.seq.running = false ∧ (sC.me.seq.owner = some sC.cur.2 → sC.me.seq.stat.getLsbD 12 = false) ∧ 1 ≤ (2#5).toNat ∧
      (2#5).toNat ≤ 16 ∧ sC.cx.pc + 4 * (2#5).toNat + 4 ≤ 0x8000 ∧
      (∀ j < 2, (sC.wordAt (sC.cx.pc + 4 + 4 * j)).2 = false ∧ capturable (sC.wordAt (sC.cx.pc + 4 + 4 * j)).1 = true) ∧
      sP.me.seq.owner = some sP.cur.2 ∧ sP.me.seq.stat.getLsbD 12 = false ∧ sP.me.seq.running = false ∧
      (sRun 0xC4000000#32).works 1 = true ∧ ((sRun 0xC4000000#32).core 1).seq.owner = some 0 ∧
      ((sRun 0xC4000000#32).core 1).seq.running = true ∧ (((sRun 0xC4000000#32).core 1).wctx 0).run ≠ .stopped .saved ∧
      (((sRun 0xC4000000#32).core 1).wctx 0).run ≠ .stopped .killed ∧
      touchesBad ((sRun 0xC4000000#32).core 1).lbad (0x1E400 + 4 * ((sRun 0xC4000000#32).core 1).seq.idx) 4 = false ∧
      (((sRun 0xC4000000#32).core 1).seqCmd ((sRun 0xC4000000#32).core 1).seq 0).instr = (Instr.hwait false false 0) ∧
      Instr.wf (Instr.hwait false false 0) = true ∧ (((sRun 0xC4000000#32).core 1).wctx 0).halting = false ∧
      (sRun 0x88020302#32).works 1 = true ∧ ((sRun 0x88020302#32).core 1).seq.owner = some 0 ∧
      ((sRun 0x88020302#32).core 1).seq.running = true)
    ∧ ((((sRun 0x88020302#32).core 1).wctx 0).run ≠ .stopped .saved ∧ (((sRun 0x88020302#32).core 1).wctx 0).run ≠ .stopped .killed ∧
      touchesBad ((sRun 0x88020302#32).core 1).lbad (0x1E400 + 4 * ((sRun 0x88020302#32).core 1).seq.idx) 4 = false ∧
      (((sRun 0x88020302#32).core 1).seqCmd ((sRun 0x88020302#32).core 1).seq 0).instr = (Instr.mzero true 3 0) ∧
      Instr.wf (Instr.mzero true 3 0) = true ∧ (((sRun 0x88020302#32).core 1).wctx 0).halting = false ∧
      (sRun 0x88020302#32).me.seq.latch.wait = none ∧
      (match (sRun 0x88020302#32).cmdCheck 1 .u [] [] (Instr.mzero true 3 0) with | .ok => true | _ => false) = true ∧
      (((sRun 0x88020302#32).core 1).mat.queue.filter (fun p => p.ctx == 0 && p.uid < 24)).length < Eng.mat.room ∧
      ((sRun 0x88020302#32).cx.tok 3).count + (sRun 0x88020302#32).me.reserved 0 3 < 255 ∧ (sRun 0x88600104#32).works 1 = true ∧
      ((sRun 0x88600104#32).core 1).seq.owner = some 0 ∧ ((sRun 0x88600104#32).core 1).seq.running = true ∧
      (((sRun 0x88600104#32).core 1).wctx 0).run ≠ .stopped .saved ∧ (((sRun 0x88600104#32).core 1).wctx 0).run ≠ .stopped .killed ∧
      touchesBad ((sRun 0x88600104#32).core 1).lbad (0x1E400 + 4 * ((sRun 0x88600104#32).core 1).seq.idx) 4 = false ∧
      (((sRun 0x88600104#32).core 1).seqCmd ((sRun 0x88600104#32).core 1).seq 0).instr = (Instr.mldb 3 1 0) ∧
      Instr.wf (Instr.mldb 3 1 0) = true ∧ (((sRun 0x88600104#32).core 1).wctx 0).halting = false ∧
      (sRun 0x88600104#32).me.seq.latch.wait = none ∧
      (match (sRun 0x88600104#32).cmdCheck 1 .u [] [] (Instr.mldb 3 1 0) with | .trap c _ => c | _ => 0) = 0x02 ∧
      (sRun 0x88600104#32).me.seq.idx < 16) :=
  ⟨ready_of (by decide +kernel), issues (by decide +kernel), by decide +kernel, by decide +kernel⟩

/-- Captured hints of each kind, the last word and one before it. -/
theorem witness_CapturedHints :
    (∀ e ∈ ([(0xC4000000#32, .hwait false false 0), (0xC8000000#32, .hcache 0 0 0), (0xCC000000#32, .hsched false 0), (0x88020302#32, .mzero true 3 0),
      (0x88600104#32, .mldb 3 1 0)] : List (BitVec 32 × Instr)), ∀ j ∈ [0, 1],
      let s := mapCore (fun c => { c with seq := { c.seq with idx := j } }) (sRun e.1)
      s.works 1 = true ∧ (s.core 1).seq.owner = some 0 ∧ (s.core 1).seq.running = true ∧ ((s.core 1).wctx 0).run ≠ .stopped .saved ∧
      ((s.core 1).wctx 0).run ≠ .stopped .killed ∧ touchesBad (s.core 1).lbad (0x1E400 + 4 * (s.core 1).seq.idx) 4 = false ∧
      ((s.core 1).seqCmd (s.core 1).seq 0).instr = e.2 ∧ e.2.wf = true ∧ ((s.core 1).wctx 0).halting = false ∧ ((s.core 1).wctx 0).yielding = false ∧
      (s.core 1).seq.idx = j ∧ (s.core 1).seq.words.length = 2) := by decide +kernel

/-- A word of each engine, and MSET with its source consumed. -/
theorem witness_WideIssue :
    State.ready sV .u
    ∧ (∀ e ∈ ([(sV, (Instr.vadd 1 1 1 0 8 true false)), (sV, (Instr.mset 1 9 true)), (sV, (Instr.push 2 true 14 1 0)),
      (sV, (Instr.mma 2 false false false 13 1 0)), (sV, (Instr.mdrain 3 false 13 2 3)), (sV, (Instr.gcopy 1 1 3 1 0))] : List (State × Instr)),
      Obligations.wideOk e.1 e.2)
    ∧ (Obligations.wideWord (Instr.vadd 1 1 1 0 8 true false) = true ∧ Instr.wf (Instr.vadd 1 1 1 0 8 true false) = true ∧
      (verdictKind (Instr.vadd 1 1 1 0 8 true false) && guardOf (Instr.vadd 1 1 1 0 8 true false) == 0) = false ∧
      Obligations.wideWord (Instr.mset 1 9 true) = true ∧ Instr.wf (Instr.mset 1 9 true) = true ∧
      (verdictKind (Instr.mset 1 9 true) && guardOf (Instr.mset 1 9 true) == 0) = false ∧
      Obligations.wideWord (Instr.push 2 true 14 1 0) = true ∧ Instr.wf (Instr.push 2 true 14 1 0) = true ∧
      (verdictKind (Instr.push 2 true 14 1 0) && guardOf (Instr.push 2 true 14 1 0) == 0) = false ∧
      Obligations.wideWord (Instr.mma 2 false false false 13 1 0) = true ∧ Instr.wf (Instr.mma 2 false false false 13 1 0) = true ∧
      (verdictKind (Instr.mma 2 false false false 13 1 0) && guardOf (Instr.mma 2 false false false 13 1 0) == 0) = false ∧
      Obligations.wideWord (Instr.mdrain 3 false 13 2 3) = true ∧ Instr.wf (Instr.mdrain 3 false 13 2 3) = true ∧
      (verdictKind (Instr.mdrain 3 false 13 2 3) && guardOf (Instr.mdrain 3 false 13 2 3) == 0) = false ∧
      Obligations.wideWord (Instr.gcopy 1 1 3 1 0) = true ∧ Instr.wf (Instr.gcopy 1 1 3 1 0) = true ∧
      (verdictKind (Instr.gcopy 1 1 3 1 0) && guardOf (Instr.gcopy 1 1 3 1 0) == 0) = false) :=
  ⟨ready_of (by decide +kernel), each (fun _ => wideOk_of) (by decide +kernel), by decide +kernel⟩

/-- A check to issue, and its verdicts. -/
theorem witness_VerdictWords :
    State.ready sV .u
    ∧ Obligations.wideOk sV (Instr.mchk true 2 0)
    ∧ (∀ e ∈ ([(sA0, .u, []), (sA0F, .u, [])] : List (State × Level × List Reg)),
      State.ready e.1 e.2.1 ∧ State.readable e.1 e.2.2)
    ∧ State.canTrap sA0F
    ∧ (Obligations.wideWord (Instr.mchk true 2 0) = true ∧ Instr.wf (Instr.mchk true 2 0) = true ∧
      verdictKind (Instr.mchk true 2 0) = true ∧ guardOf (Instr.mchk true 2 0) = 0 ∧ sA0.cx.acc = some ⟨0, 9, some ⟨0, false, none⟩⟩ ∧
      sA0F.cx.acc = some ⟨0, 9, some ⟨77, false, some 0x0C⟩⟩) :=
  ⟨ready_of (by decide +kernel), wideOk_of (by decide +kernel), each (fun _ => issues) (by decide +kernel), canTrap_of (by decide +kernel),
  by decide +kernel⟩

/-- A packet to open on channels 1 and 3; an open one with its place on the channel, without it, and with no room left; a context without one; a post. -/
theorem witness_PacketAndPostWords :
    (∀ e ∈ ([(sSn, .u, [1, 2, 3, 4]), (sSnS, .s, [1, 2, 3, 4]), (sPkN, .u, [1]), (sPk, .u, [1]), (sPkF, .u, [1]), (sT, .u, [1])] : List (State × Level × List Reg)),
      State.ready e.1 e.2.1 ∧ State.readable e.1 e.2.2)
    ∧ (∀ e ∈ ([sPkF, sT] : List (State)),
      State.canTrap e)
    ∧ ((1#2) ≠ 3 ∧ sSn.cx.pkt = none ∧ sSn.tokFull 2 = false ∧
      sndoCheck (.sndo 1 2 2 1 false) (1#2).toNat false (sSn.cx.reg 1) (sSn.cx.reg 2) = none ∧ destOf (sSn.cx.reg 1) = some ⟨5, none⟩ ∧
      (∀ o ∈ sSn.net, o.body ≠ .opening sSn.uid) ∧ sSnS.cx.pkt = none ∧ sSnS.tokFull 2 = false ∧
      sndoCheck (.sndo 1 2 2 3 true) (3#2).toNat false (sSnS.cx.reg 1) (sSnS.cx.reg 2) = none ∧ destOf (sSnS.cx.reg 1) = some ⟨5, none⟩ ∧
      sPkN.cx.pkt = some ⟨5, 0x1000, 2, 1, [1, 2], 4990, 0xFC, 30⟩ ∧ sPkN.net = [opn 29] ++ [opn 30] ++ [opn 31] ∧
      (∀ q ∈ [opn 29] ++ [opn 31], q.body ≠ .opening 30) ∧ sPk.cx.pkt = some ⟨5, 0x1000, 2, 1, [1, 2], 4990, 0xFC, 30⟩ ∧
      (∀ q ∈ sPk.net, q.body ≠ .opening 30) ∧ destOf 5 = some ⟨5, none⟩ ∧ ([1, 2] : List Word).length < 32 ∧
      sPkF.cx.pkt = some ⟨5, 0x1000, 2, 1, List.replicate 32 7, 4990, 0xFC, 30⟩ ∧ sT.cx.pkt = none ∧ (sSn.cx.reg 3).toNat < 512 ∧
      (sSn.cx.reg 3).toNat % 16 ≤ 11 ∧ 16 ≤ (sSn.cx.reg 3).toNat) :=
  ⟨each (fun _ => issues) (by decide +kernel), each (fun _ => canTrap_of) (by decide +kernel), by decide +kernel⟩

/-- Below level S; a post on channel 3 at level S. -/
theorem witness_PacketAndPostWords_2 :
    State.canTrap sT ∧ (sT.cx.latch.imx = 0 ∧ sT.cx.level ≠ .s) ∧ (State.ready sSnS .s ∧ State.readable sSnS [1, 3, 4])
    ∧ (destOf (sSnS.cx.reg 1) = some ⟨5, none⟩ ∧ sSnS.tokFull 2 = false ∧ (sSnS.cx.reg 3).toNat < 512 ∧ (sSnS.cx.reg 3).toNat % 16 ≤ 11 ∧
      16 ≤ (sSnS.cx.reg 3).toNat) :=
  ⟨canTrap_of (by decide +kernel), by decide +kernel, issues (by decide +kernel), by decide +kernel⟩

/-- A mailbox without and with a fresh record; extents that break a rule; a spill, and none, in the ballonet and elsewhere; a record for the core itself that is refused, finds its mailbox full, must wait, and lands; one that is being written, and one that has been. -/
theorem witness_MailboxWords :
    (∀ e ∈ ([((sMb 0), .u, [1, 2]), ((sMb 2), .u, [1, 2]), (sT, .u, [1, 2]), (sSp, .u, [1, 2]), (sSp0, .u, [1, 2]), (sLb, .u, [1]), (sLbF, .u, [1]),
      (sLbW, .u, [1]), (sLb1, .u, [1]), (sLbD, .u, [1]), (sLbL, .u, [1])] : List (State × Level × List Reg)),
      State.ready e.1 e.2.1 ∧ State.readable e.1 e.2.2)
    ∧ (∀ e ∈ ([sT, (sMb 0)] : List (State)),
      State.canTrap e)
    ∧ (∀ e ∈ ([(sLb, 0x4000, 208, 16, false), (sLbF, 0x4000, 208, 16, false), (sLbW, 0x4000, 208, 16, false), (sLb1, 0x4000, 208, 16, false)] : List (State × Nat × Nat × Nat × Bool)),
      State.localOk e.1 e.2.1 e.2.2.1 e.2.2.2.1 e.2.2.2.2)
    ∧ ((sMb 0).cx.load = none ∧ (sMb 0).me.weak = [] ∧
      (sMb 0).me.extentChecks (sMb 0).cx.level [(0x1000, 64, 64), (0x3000, 208, 16)] = none ∧
      (sMb 0).me.wideTouches (sMb 0).cur.2 0x1000 64 = false ∧ (sMb 0).me.wideTouches (sMb 0).cur.2 0x3000 208 = false ∧
      (sMb 0).me.lands 0x1000 = false ∧ (sMb 0).me.poisoned 0x1000 64 = false ∧ (sMb 0).me.mboxMalformed ((sMb 0).me.mbox 0x1000) = false ∧
      ((sMb 0).me.mbox 0x1000).next = none ∧ (sMb 2).cx.load = none ∧ (sMb 2).me.weak = [] ∧
      (sMb 2).me.extentChecks (sMb 2).cx.level [(0x1000, 64, 64), (0x3000, 208, 16)] = none ∧
      (sMb 2).me.wideTouches (sMb 2).cur.2 0x1000 64 = false ∧ (sMb 2).me.wideTouches (sMb 2).cur.2 0x3000 208 = false ∧
      (sMb 2).me.lands 0x1000 = false ∧ (sMb 2).me.poisoned 0x1000 64 = false ∧ (sMb 2).me.mboxMalformed ((sMb 2).me.mbox 0x1000) = false ∧
      ((sMb 2).me.mbox 0x1000).next = some 1 ∧ (sMb 2).me.wideTouches 0 (((sMb 2).me.mbox 0x1000).slotAt 1) 208 = false ∧
      (sMb 2).me.poisoned (((sMb 2).me.mbox 0x1000).slotAt 1) 208 = false ∧ (sMb 2).me.writePoisoned 0x3000 208 = false ∧
      sT.me.extentChecks sT.cx.level [((sT.cx.reg 1).toNat, 64, 64), ((sT.cx.reg 2).toNat, 208, 16)] = some (0x03, 5))
    ∧ (sSp.cx.load = none ∧ sSp.me.weak = [] ∧ sSp.me.extentChecks sSp.cx.level [(0x3000, 208, 16)] = none ∧
      sSp.me.wideTouches sSp.cur.2 0x3000 208 = false ∧ sSp.me.writePoisoned 0x3000 208 = false ∧ sSp0.cx.load = none ∧ sSp0.me.weak = [] ∧
      sSp0.me.extentChecks sSp0.cx.level [(0x3000, 208, 16)] = none ∧ sSp0.me.wideTouches sSp0.cur.2 0x3000 208 = false ∧
      sSp0.me.writePoisoned 0x3000 208 = false ∧ (sMb 0).me.extentChecks (sMb 0).cx.level [(0x3000, 208, 16)] = none ∧
      (sMb 0).me.writePoisoned 0x3000 208 = false ∧ sSp.cur.2 = 11 ∧ sSp0.cur.2 = 11 ∧ (sMb 0).cur.2 ≠ 11 ∧
      sSp.me.rx.spill = some (0x1000, List.replicate 208 1) ∧ sSp.me.lands 0x1000 = false ∧ sSp0.me.rx.spill = none ∧
      sLb.me.rx.landing = none ∧ sLb.cx.acc = none ∧ sLb.me.cmdsOf 0 = [] ∧ sLb.me.seq.running = false)
    ∧ ((match sLb.arrive 1 (Obligations.lbkMsg sLb 0x4000) (some 0) with | .refused c => c == 0x02 | _ => false) = true ∧
      sLbF.me.rx.landing = none ∧ sLbF.cx.acc = none ∧ sLbF.me.cmdsOf 0 = [] ∧ sLbF.me.seq.running = false ∧
      (match sLbF.arrive 1 (Obligations.lbkMsg sLbF 0x4000) (some 0) with | .full => true | _ => false) = true ∧
      sLbW.me.rx.landing = none ∧ sLbW.cx.acc = none ∧ sLbW.me.cmdsOf 0 = [] ∧ sLbW.me.seq.running = false ∧
      (match sLbW.arrive 1 (Obligations.lbkMsg sLbW 0x4000) (some 0) with | .waits => true | _ => false) = true ∧
      sLb1.me.rx.landing = none ∧ sLb1.cx.acc = none ∧ sLb1.me.cmdsOf 0 = [] ∧ sLb1.me.seq.running = false ∧
      (match sLb1.arrive 1 (Obligations.lbkMsg sLb1 0x4000) (some 0) with | .lands _ => true | _ => false) = true ∧
      ((sLbD.cx.level = .u → inImage 0x4000 208 = false) ∧ sLbD.cx.acc = some ⟨13, 0, none⟩ ∧ sLbD.me.rx.landing = none) ∧
      ((sLbL.cx.level = .u → inImage 0x4000 208 = false) ∧ sLbL.cx.acc = some ⟨13, 0, none⟩ ∧ sLbL.me.rx.landing.map (·.lbk) = some (some 0))) :=
  ⟨each (fun _ => issues) (by decide +kernel), each (fun _ => canTrap_of) (by decide +kernel), each (fun _ => localOk_of) (by decide +kernel),
  by decide +kernel, by decide +kernel, by decide +kernel⟩

/-- A group of two in territory 0: before the arrival, with a store under way, with another context waiting, after the firing; a context that does not hold the slot; a group that the core is no member of; no group; a cluster that is being scrubbed. -/
theorem witness_GroupWords :
    (∀ e ∈ ([(sGr2, .u, [1, 2]), (sA10, .u, [1, 2]), (sGr3, .u, [1, 2]), (sScr, .u, [1, 2]), (sGrT, .u, [1, 2]), (sGrW, .u, [1, 2]), (sGrH, .u, [1, 2])] : List (State × Level × List Reg)),
      State.ready e.1 e.2.1 ∧ State.readable e.1 e.2.2)
    ∧ (sGr2.tagOf 1 = some 0 ∧ sA10.tagOf 1 = some 0 ∧ sGr3.tagOf 1 = some 0 ∧ sGrT.tagOf 1 = some 0 ∧ sGrW.tagOf 1 = some 0 ∧
      sGrH.tagOf 1 = some 0 ∧ sScr.tagOf sScr.cur.1 = none ∧ 256 ≤ (sGr2.cx.reg 2).toNat ∧ (sGr2.cx.reg 1).toNat = 3 ∧
      kget (sGr2.terr 0).groups 3 = some (grp [⟨0, 0, 1, 0⟩, ⟨0, 0, 2, 0⟩]) ∧
      (sGr2.present 0 (grp [⟨0, 0, 1, 0⟩, ⟨0, 0, 2, 0⟩])).contains 1 = true ∧ (sGrT.cx.reg 1).toNat = 3 ∧
      kget (sGrT.terr 0).groups 3 = some (grp [⟨0, 0, 1, 0⟩, ⟨0, 0, 2, 0⟩]) ∧
      (sGrT.present 0 (grp [⟨0, 0, 1, 0⟩, ⟨0, 0, 2, 0⟩])).contains 1 = true ∧ (sGrW.cx.reg 1).toNat = 3 ∧
      kget (sGrW.terr 0).groups 3 = some (grp [⟨0, 0, 1, 0⟩, ⟨0, 0, 2, 0⟩]) ∧
      (sGrW.present 0 (grp [⟨0, 0, 1, 0⟩, ⟨0, 0, 2, 0⟩])).contains 1 = true ∧ (sGrH.cx.reg 1).toNat = 3 ∧
      kget (sGrH.terr 0).groups 3 = some (grp [⟨0, 0, 1, 0⟩, ⟨0, 0, 2, 0⟩]) ∧
      (sGrH.present 0 (grp [⟨0, 0, 1, 0⟩, ⟨0, 0, 2, 0⟩])).contains 1 = true ∧ sGr2.cx.holdsSlot sGr2.cur.2 (sGr2.slotIn 0 1 3) = true ∧
      sGrT.cx.holdsSlot sGrT.cur.2 (sGrT.slotIn 0 1 3) = true)
    ∧ (sGrW.cx.holdsSlot sGrW.cur.2 (sGrW.slotIn 0 1 3) = true ∧ sA10.cx.holdsSlot sA10.cur.2 (sA10.slotIn 0 1 3) = true ∧
      sGrH.cx.holdsSlot sGrH.cur.2 (sGrH.slotIn 0 1 3) = false ∧ sGr2.cx.acc = none ∧ sGr2.scalarBusy = false ∧
      (∀ e ∈ sGr2.me.ctxs, e.2.inGroup 3 = false) ∧ sGrT.cx.acc = none ∧ sGrT.scalarBusy = true ∧ sGrW.cx.acc = none ∧
      sGrW.scalarBusy = false ∧ (∃ e ∈ sGrW.me.ctxs, e.2.acc = some ⟨10, 3, none⟩) ∧ sA10.cx.acc = some ⟨10, 3, some ⟨7, false, none⟩⟩ ∧
      kget (sA10.terr 0).groups 3 = some (grp [⟨0, 0, 1, 0⟩]) ∧ (sA10.present 0 (grp [⟨0, 0, 1, 0⟩])).contains 1 = true ∧
      kget (sGr3.terr 0).groups 3 = some (grp [⟨0, 0, 2, 0⟩]) ∧ (sGr3.present 0 (grp [⟨0, 0, 2, 0⟩])).contains 1 = false) :=
  ⟨each (fun _ => issues) (by decide +kernel), by decide +kernel, by decide +kernel⟩

/-- A free helper with a slot and without, and none. -/
theorem witness_HelperStart :
    (∀ e ∈ ([(sT, .u, [3, 4, 5]), (sNo, .u, [3, 4, 5]), (sFull, .u, [3, 4, 5])] : List (State × Level × List Reg)),
      State.ready e.1 e.2.1 ∧ State.readable e.1 e.2.2)
    ∧ Obligations.targetOk (sT.cx.reg 3)
    ∧ Obligations.targetOk (sNo.cx.reg 3)
    ∧ Obligations.targetOk (sFull.cx.reg 3)
    ∧ ((Instr.hstart 3 3 2 4).wf = true ∧ sT.me.freeHelper ≠ 0 ∧ sT.me.freeHelper ≠ sT.cur.2 ∧
      sT.me.slotsUsed + sT.reservedOn sT.cur.1 + sT.me.slotWaiters.length < sT.me.slots ∧ sNo.me.freeHelper ≠ 0 ∧ sNo.me.freeHelper ≠ sNo.cur.2 ∧
      sNo.me.slots ≤ sNo.me.slotsUsed + sNo.reservedOn sNo.cur.1 + sNo.me.slotWaiters.length ∧ sFull.me.freeHelper = 0) :=
  ⟨each (fun _ => issues) (by decide +kernel), targetOk_of (by decide +kernel), targetOk_of (by decide +kernel), targetOk_of (by decide +kernel),
  by decide +kernel⟩

/-- Children that ended, that live, and numbers that are none; contexts that end. -/
theorem witness_HelperEnds :
    (∀ e ∈ ([(sCh, .u, [1, 2, 3, 4, 0]), (sH, .u, [1]), (sB, .u, [1])] : List (State × Level × List Reg)),
      State.ready e.1 e.2.1 ∧ State.readable e.1 e.2.2)
    ∧ State.canTrap sCh
    ∧ ((sCh.cx.reg 0).toNat = 0 ∧ 10 < (sCh.cx.reg 4).toNat ∧ (sCh.cx.reg 1).toNat = 3 ∧ sCh.me.live 3 = false ∧
      kget sCh.me.ended 3 = some ⟨1, 7, some 0, true, none, h0⟩ ∧ (sCh.cx.reg 3).toNat = 4 ∧ kget sCh.me.ended 4 = none ∧
      sCh.me.live 4 = false ∧ (sCh.cx.reg 2).toNat = 2 ∧ sCh.me.live 2 = true ∧ (sCh.me.ctx 2).parent = some sCh.cur.2 ∧
      sCh.me.live sCh.cur.2 = true ∧ (sCh.me.ctx 2).committed = false ∧ (sCh.me.ctx 2).load = none ∧ (sCh.me.ctx 2).pkt = none ∧
      (sCh.me.ctx 2).task = none ∧ sCh.me.cmdsOf 2 = [] ∧ sCh.me.pending 2 = false ∧ sCh.me.outs = [] ∧ sCh.me.aside = [] ∧ 1 ≤ sH.cur.2 ∧
      sH.cur.2 ≤ 10)
    ∧ (sH.cx.load = none ∧ sH.me.pending sH.cur.2 = false ∧ sH.cx.pkt = none ∧ sB.cur.2 = 11 ∧ sB.cx.load = none ∧ sCh.cur.2 = 0) :=
  ⟨each (fun _ => issues) (by decide +kernel), canTrap_of (by decide +kernel), by decide +kernel, by decide +kernel⟩

/-- A helper that ends with an operation outstanding, with room in the tracker and without; with a packet open; as a parent. -/
theorem witness_HelperEnds_2 :
    (∀ e ∈ ([sHp 15, sHp 16, sHk, sHc] : List State), State.ready e .u ∧ State.readable e [1])
    ∧ (∀ e ∈ ([sHp 15, sHp 16, sHk, sHc] : List State), 1 ≤ e.cur.2 ∧ e.cur.2 ≤ 10)
    ∧ ((sHp 15).me.pending 2 = true ∧ (sHp 15).me.retiring < 16 ∧ (sHp 16).me.pending 2 = true ∧ 16 ≤ (sHp 16).me.retiring ∧ sHk.me.pending 2 = false ∧
      sHk.cx.pkt.isSome = true ∧ sHc.me.pending 2 = false ∧ (kget sHc.me.ctxs 3).map (·.parent) = some (some 2) ∧ sHc.cx.parent = some 0) :=
  ⟨each (fun _ => issues) (by decide +kernel), by decide +kernel, by decide +kernel⟩

/-- The event bit clear and set. -/
theorem witness_SchedulingWords :
    (∀ e ∈ ([(sT, .u, [0, 4]), (sE, .u, [4])] : List (State × Level × List Reg)),
      State.ready e.1 e.2.1 ∧ State.readable e.1 e.2.2)
    ∧ (sT.cx.event = false ∧ sT.cx.run = .running ∧ sE.cx.event = true) :=
  ⟨each (fun _ => issues) (by decide +kernel), by decide +kernel⟩

/-- A record to post, an answer to it, and a record to key. -/
theorem witness_TaskWords :
    (∀ e ∈ ([(sA9, .u, [1]), (sM, .u, [1, 5])] : List (State × Level × List Reg)),
      State.ready e.1 e.2.1 ∧ State.readable e.1 e.2.2)
    ∧ (∀ e ∈ ([(sM, (sM.cx.reg 1).toNat, 64, 64, false), (sM, (sM.cx.reg 5).toNat, 64, 64, false)] : List (State × Nat × Nat × Nat × Bool)),
      State.localOk e.1 e.2.1 e.2.2.1 e.2.2.2.1 e.2.2.2.2)
    ∧ (sA9.cx.acc = some ⟨9, 9, some ⟨2, false, none⟩⟩ ∧ sM.cx.acc = none ∧ sM.me.wideIdle 0 = true ∧ sM.scalarBusy = false ∧
      sM.me.owesAcks 0 sM.uid = false ∧ (∀ e ∈ sM.me.lines, e.2.d = 0)) :=
  ⟨each (fun _ => issues) (by decide +kernel), each (fun _ => localOk_of) (by decide +kernel), by decide +kernel⟩

/-- Words of the stream; heads that stand, run, and are another territory's; a streamed context; indices received, to come and too high; a firing's answer, an arrival, and a store under way. -/
theorem witness_StreamWords :
    (∀ e ∈ ([(sS, .u), (sJ, .u)] : List (State × Level)),
      State.cleared e.1 e.2)
    ∧ (∀ e ∈ ([sS, sJ] : List (State)),
      State.canTrap e)
    ∧ (∀ e ∈ ([(sS, [2, 31]), (sS, [2, 3, 0]), (sJ, [0, 3, 4, 5, 8])] : List (State × List Reg)),
      State.readable e.1 e.2)
    ∧ (∀ e ∈ ([((sHd false 0), .u, [1, 2, 3]), ((sHd true 0), .u, [1, 2, 3]), ((sHd false 4), .u, [1, 2, 3]), (sHdx, .u, [9])] : List (State × Level × List Reg)),
      State.ready e.1 e.2.1 ∧ State.readable e.1 e.2.2)
    ∧ (∀ e ∈ ([(sBr, .u), (sBr1, .u), (sBr2, .u), (sBr3, .u)] : List (State × Level)),
      State.ready e.1 e.2)
    ∧ Obligations.targetOk (sS.cx.reg 3)
    ∧ (sS.cx.latch.imx = 0 ∧ sS.cx.rep = none ∧ sS.cx.mode = .streamed ∧ takeOk 2 true = true ∧ (2#5) ≠ 0 ∧
      (BitVec.ofInt 64 (sS.cx.pc + (16380#26).toInt)).toNat ≤ 16383 ∧ (BitVec.ofInt 64 (sS.cx.pc + (16380#18).toInt)).toNat ≤ 16383 ∧
      (sHd false 0).cur.2 = 0 ∧ (sHd true 0).cur.2 = 0 ∧ (sHd false 4).cur.2 = 0 ∧ (1#4) ≠ 0 ∧ ((sHd false 0).cx.reg 1).toNat < 2 ^ 24 ∧
      ((sHd false 0).cx.reg 1).toNat / 2 ^ 14 % 4 = 0 ∧ (sHd false 0).inTerr 1 0 = true ∧ ((sHd false 0).clus 0).head.running = false ∧
      (sHd true 0).inTerr 1 0 = true ∧ ((sHd true 0).clus 0).head.running = true ∧ ((sHd true 0).cx.reg 2).toNat < 256 ∧
      (sHd false 4).inTerr 1 1 = false ∧ (sHd false 4).cx.reg 3 = 1 * 2 ^ 16 ∧ sHdx.cur.2 = 0 ∧ sHdx.inTerr 1 1 = false)
    ∧ ((sHdx.cx.reg 9).toNat = 1 ∧ sS.cur.2 = 0 ∧ sS.cx.reg 2 ≠ 0 ∧ sS.cx.reg 0 = 0 ∧ sJ.cur.2 = 0 ∧ sJ.cx.latch.imx = 0 ∧
      sJ.cx.rep = none ∧ sJ.cx.mode = .loc ∧ sJ.me.stream.got.contains (sJ.cx.reg 5).toNat = false ∧ (sJ.cx.reg 5).toNat ≤ 16383 ∧
      sJ.me.stream.got.contains (sJ.cx.reg 4).toNat = true ∧ (sJ.cx.reg 4).toNat ≤ 16383 ∧ 16383 < (sJ.cx.reg 8).toNat ∧ sBr.cur.2 = 0 ∧
      isSup sBr.cur.1 = false ∧ sBr1.cur.2 = 0 ∧ isSup sBr1.cur.1 = false ∧ sBr2.cur.2 = 0 ∧ isSup sBr2.cur.1 = false ∧ sBr3.cur.2 = 0 ∧
      isSup sBr3.cur.1 = false ∧ (5#8) ≠ 255)
    ∧ (kget (sBr.bridle (clusOf 1) (rowOf 1)).results (lxOf 1) = some 0x55 ∧
      kget (sBr1.bridle (clusOf 1) (rowOf 1)).results (lxOf 1) = none ∧ kget (sBr2.bridle (clusOf 1) (rowOf 1)).results (lxOf 1) = none ∧
      kget (sBr3.bridle (clusOf 1) (rowOf 1)).results (lxOf 1) = none ∧ sBr1.arrived 1 = true ∧ sBr2.arrived 1 = false ∧
      sBr2.scalarBusy = true ∧ sBr3.arrived 1 = false ∧ sBr3.scalarBusy = false) :=
  ⟨each (fun _ => cleared_of) (by decide +kernel), each (fun _ => canTrap_of) (by decide +kernel), each (fun _ => readable_of) (by decide +kernel),
  each (fun _ => issues) (by decide +kernel), each (fun _ => ready_of) (by decide +kernel), targetOk_of (by decide +kernel), by decide +kernel,
  by decide +kernel, by decide +kernel⟩

/-- The words of a helper; a streamed branch over an empty register. -/
theorem witness_StreamWords_2 :
    (State.ready sHt .u ∧ State.readable sHt [3, 1]) ∧ State.canTrap sHt ∧ State.cleared sSe .u ∧ State.canTrap sSe
    ∧ (sHt.cur.2 ≠ 0 ∧ (1#4) ≠ 0 ∧ (sHt.cx.reg 1).toNat ≤ 16383 ∧ sSe.cx.latch.imx = 0 ∧ sSe.cx.rep = none ∧ sSe.cx.mode = .streamed ∧
      takeOk 2 true = true ∧ sSe.cx.isFull 2 = false ∧ sSe.cx.isBad 2 = false ∧ sSe.cx.isFull 31 = false ∧ sSe.cx.isBad 31 = false) :=
  ⟨issues (by decide +kernel), canTrap_of (by decide +kernel), cleared_of (by decide +kernel), canTrap_of (by decide +kernel), by decide +kernel⟩

/-- A map to store, views held and missing, a value for PCFG; clusters at rest, in a move, and another territory's. -/
theorem witness_TerritoryWords :
    (∀ e ∈ ([(sM, .u, [1]), (sPr, .u, [1, 2, 3, 0]), ((atLevel .t (sFz false)), .t, [1, 2]), ((atLevel .t (sFz true)), .t, [1, 2]), ((atLevel .t sFl), .t, [1])] : List (State × Level × List Reg)),
      State.ready e.1 e.2.1 ∧ State.readable e.1 e.2.2)
    ∧ State.localOk sM (sM.cx.reg 1).toNat 32 32 true
    ∧ ((sPr.cx.reg 0).toNat < 4 ∧ clusNext (clusOf 1) (sPr.cx.reg 0).toNat = none ∧ (sPr.cx.reg 2).toNat < 4 ∧
      clusNext (clusOf 1) (sPr.cx.reg 2).toNat = some 16 ∧ kget (sPr.clus (clusOf 1)).nviews (sPr.cx.reg 2).toNat = some ⟨1, 2, 3, 4, 5⟩ ∧
      sPr.cx.level = .s ∧ (sPr.cx.reg 1).toNat < 2 ^ 49 ∧ (sPr.cx.reg 1).toNat % 2 ^ 16 ≠ 0 ∧ (sPr.cx.reg 1).toNat / 2 ^ 16 % 2 ^ 8 ≠ 0 ∧
      (sPr.cx.reg 1).toNat / 2 ^ 24 % 2 ^ 12 ≠ 0 ∧ ((atLevel .t (sFz false)).cx.reg 1).toNat = 0 ∧
      ((atLevel .t (sFz false)).cx.reg 2).toNat = 1 ∧ (atLevel .t (sFz false)).inTerr 1 0 = true ∧
      (atLevel .t (sFz false)).lockedPast 0 = false ∧ (atLevel .t (sFz false)).inTerr 1 1 = false ∧
      ((atLevel .t (sFz true)).cx.reg 1).toNat = 0 ∧ (atLevel .t (sFz true)).inTerr 1 0 = true ∧
      (atLevel .t (sFz true)).lockedPast 0 = true ∧
      ((atLevel .t sFl).cx.reg 1).toNat = 0 ∧ (atLevel .t sFl).inTerr 1 0 = true ∧ (atLevel .t sFl).lockedPast 0 = true) :=
  ⟨each (fun _ => issues) (by decide +kernel), localOk_of (by decide +kernel), by decide +kernel⟩

/-- Outside a handler, in one, and in an upcall handler that can yield. -/
theorem witness_TrapsAndReturns :
    (∀ e ∈ ([sT, sLT] : List (State)),
      State.canTrap e)
    ∧ (∀ e ∈ ([(sT, .u), (sIn, .u)] : List (State × Level)),
      State.cleared e.1 e.2)
    ∧ (∀ e ∈ ([(sUp, .t), (sLT, .t)] : List (State × Level)),
      State.ready e.1 e.2)
    ∧ Obligations.targetOk sIn.cx.spr.epc
    ∧ Obligations.targetOk sUp.cx.spr.epc
    ∧ (sT.cx.latch.imx = 0 ∧ sT.cx.rep = none ∧ sT.cx.spr.upc = false ∧ sT.cx.spr.str = false ∧ sIn.cx.latch.imx = 0 ∧ sIn.cx.rep = none ∧
      sIn.cx.load = none ∧ sIn.cx.spr.upc = false ∧ sIn.cx.spr.str = false ∧ sIn.cx.spr.inh = true ∧ sUp.cx.spr.inh = true ∧
      sUp.cx.spr.upc = true ∧ sUp.cx.spr.str = false ∧ sUp.cx.load = none ∧ sUp.cx.spr.upcall = 1 ∧ sUp.cur.2 = 0 ∧
      sUp.stopReady sUp.cur.1 0 = true ∧ sUp.cx.pkt = none) :=
  ⟨each (fun _ => canTrap_of) (by decide +kernel), each (fun _ => cleared_of) (by decide +kernel), each (fun _ => ready_of) (by decide +kernel),
  targetOk_of (by decide +kernel), targetOk_of (by decide +kernel), by decide +kernel⟩

/-- ERET with the mark of an upcall, outside its handler and in it. -/
theorem witness_TrapsAndReturns_2 :
    State.cleared sUo .u ∧ State.cleared sUp .u ∧ State.canTrap sUo
    ∧ (sUo.cx.latch.imx = 0 ∧ sUo.cx.spr.upc = true ∧ sUp.cx.latch.imx = 0 ∧ sUp.cx.spr.upc = true ∧ sUp.cx.spr.inh = true ∧ sUp.cx.load = none ∧
      sUp.cur.2 = 0) :=
  ⟨cleared_of (by decide +kernel), cleared_of (by decide +kernel), canTrap_of (by decide +kernel), by decide +kernel⟩

/-- An empty and a full tail ring; a stopped core and a running one; a store and a wide-side command under way; an invalidation to send, one that is answered and one that is not. -/
theorem witness_SupervisorWords :
    (∀ e ∈ ([(sT, .u, [1]), (sTl, .u, [1]), (sSup, .s, [1, 2]), (sSupT, .s, [1, 2]), (sSupW, .s, [1, 2]), (sSupA, .s, [1, 2]), (sSupN, .s, [1, 2])] : List (State × Level × List Reg)),
      State.ready e.1 e.2.1 ∧ State.readable e.1 e.2.2)
    ∧ (∀ e ∈ ([(sT, (sT.cx.reg 1).toNat, 16, 16, true), (sTl, (sTl.cx.reg 1).toNat, 16, 16, true)] : List (State × Nat × Nat × Nat × Bool)),
      State.localOk e.1 e.2.1 e.2.2.1 e.2.2.2.1 e.2.2.2.2)
    ∧ (sT.me.tail.entries = [] ∧ sTl.me.tail.entries = 0x12345 :: [] ∧ (sSup.cx.reg 1).toNat = 2 ∧ (2 : Nat) < 4096 ∧
      (2 : Nat) ≠ sSup.cur.1 ∧ dieOf 2 = dieOf sSup.cur.1 ∧ sSup.disabled.contains 2 = false ∧ sSup.unstopped 2 = false ∧
      sSup.unstopped 3 = true ∧ (sSup.cx.reg 2).toNat = 3 ∧ sSup.disabled.contains 3 = false ∧ sSup.cx.acc = none ∧
      sSup.scalarBusy = false ∧ sSup.me.wideIdle sSup.cur.2 = true ∧ sSup.me.owesAcks sSup.cur.2 sSup.uid = false ∧
      (∀ e ∈ sSup.me.lines, e.2.d = 0) ∧ sSupT.cx.acc = none ∧ sSupT.scalarBusy = true ∧ sSupW.cx.acc = none ∧ sSupW.scalarBusy = false ∧
      sSupW.me.wideIdle 0 = false ∧ (sSupA.cx.reg 1).toNat < 256)
    ∧ ((1#2) ≠ 3 ∧ sSupA.cx.acc = some ⟨11, 99, some ⟨0, false, none⟩⟩ ∧ sSupA.me.out 99 = none ∧ sSupN.cx.acc = some ⟨11, 30, none⟩ ∧
      sSupN.me.out 30 ≠ none) :=
  ⟨each (fun _ => issues) (by decide +kernel), each (fun _ => localOk_of) (by decide +kernel), by decide +kernel, by decide +kernel⟩

/-- The release of TINVB: a dirty line, acknowledgements to come, waits begun before and after them. -/
theorem witness_SupervisorWords_2 :
    (∀ e ∈ ([sSupD, sSupO, sSup3, sSupO3] : List State), State.ready e .s ∧ State.readable e [1, 2])
    ∧ (¬Obligations.owes sSup 3 sSup.uid ∧ ¬Obligations.owes sSup3 3 25 ∧ Obligations.owes sSupO 3 sSupO.uid ∧ Obligations.owes sSupO3 3 40)
    ∧ (sSupD.cx.acc = none ∧ sSupD.scalarBusy = false ∧ sSupD.me.wideIdle 0 = true ∧ kget sSupD.me.lines 0 = some ⟨0x7000 / 64, 0x00FF, 1, none, 3⟩ ∧
      sSupO.cx.acc = none ∧ sSupO.scalarBusy = false ∧ sSupO.me.wideIdle 0 = true ∧ sSupO.me.lines = [] ∧
      sSup3.cx.acc = some ⟨3, 25, some ⟨0, false, none⟩⟩ ∧ sSupO3.cx.acc = some ⟨3, 40, some ⟨0, false, none⟩⟩) :=
  ⟨each (fun _ => issues) (by decide +kernel),
    ⟨owesNot_of (by decide +kernel), owesNot_of (by decide +kernel), owes_of (by decide +kernel), owes_of (by decide +kernel)⟩, by decide +kernel⟩

/-- A command under a false guard and one under a true guard at the head of each engine; started ones that read their first granule and their last. -/
theorem witness_EngineStarts :
    (∀ e ∈ ([((eQ (Instr.gacc 1 1 1 6 1 2)), .gau, (cmd (Instr.gacc 1 1 1 6 1 2)), .no),
      ((eQ (Instr.mzero true 1 2)), .mat, (cmd (Instr.mzero true 1 2)), .no),
      ((eQ (Instr.push 2 true 14 1 2)), .push, (cmd (Instr.push 2 true 14 1 2)), .no),
      ((eQ (Instr.vadd 1 1 1 0 8 true false)), .vec, (cmd (Instr.vadd 1 1 1 0 8 true false)), .yes),
      ((eQ (Instr.vpref 3)), .vec, (cmd (Instr.vpref 3)), .yes), ((eQ (Instr.gacc 1 1 1 6 1 1)), .gau, (cmd (Instr.gacc 1 1 1 6 1 1)), .yes)] : List (State × Eng × Cmd × GuardSt)),
      State.heads e.1 1 e.2.1 e.2.2.1 e.2.2.2)
    ∧ (∀ e ∈ ([((eQ (Instr.vadd 1 1 1 0 8 true false)), (cmd (Instr.vadd 1 1 1 0 8 true false))), ((eQ (Instr.vpref 3)), (cmd (Instr.vpref 3))),
      ((eQ (Instr.gacc 1 1 1 6 1 1)), (cmd (Instr.gacc 1 1 1 6 1 1)))] : List (State × Cmd)),
      State.plainStart e.1 1 e.2)
    ∧ (∀ n, (cmd (Instr.vadd 1 1 1 0 8 true false)).instr ≠ .vpref n)
    ∧ (((eQ (Instr.push 2 true 14 1 2)).core 1).released .push 0 = none ∧
      (eRun (Instr.vadd 1 1 1 0 8 true false) (fun r => { r with phase := 0 })).works 1 = true ∧
      (eRun (Instr.gacc 1 1 1 6 1 1) (fun r => { r with phase := 0 })).works 1 = true ∧
      (∃ r ∈ ((eRun (Instr.vadd 1 1 1 0 8 true false) (fun r => { r with phase := 0 })).core 1).vec.run, (((eRun (Instr.vadd 1 1 1 0 8 true false) (fun r => { r with phase := 0 })).core 1).vecNeeds r).find? (fun g => !r.got.contains g) = some 0x40) ∧
      (∃ r ∈ ((eRun (Instr.gacc 1 1 1 6 1 1) (fun r => { r with phase := 0 })).core 1).gau.run, r.phase = 0 ∧ (gauNeeds r.cmd).find? (fun g => !r.got.contains g) = some 0x40)) :=
  ⟨each (fun _ => heads_of) (by decide +kernel), each (fun _ => plainStart_of) (by decide +kernel), (fun n h => by cases h), by decide +kernel⟩

/-- A push to start; one at its first piece; one whose source has been sent; a PUSHG that asks, and one with its answer. -/
theorem witness_PushSteps :
    State.heads (eQ (Instr.push 2 true 14 1 1)) 1 .push (cmd (Instr.push 2 true 14 1 1)) .yes
    ∧ State.plainStart (eQ (Instr.push 2 true 14 1 1)) 1 (cmd (Instr.push 2 true 14 1 1))
    ∧ Core.sound ((eOld (Instr.push 2 true 14 1 1) (id)).core 1) ((((eOld (Instr.push 2 true 14 1 1) (id)).core 1).td 2).at 0) 64
    ∧ (((eQ (Instr.push 2 true 14 1 1)).core 1).released .push 0 = none ∧ (pushParts (cmd (Instr.push 2 true 14 1 1)).instr).isSome = true ∧
      ((eQ (Instr.push 2 true 14 1 1)).core 1).out (cmd (Instr.push 2 true 14 1 1)).uid = none ∧
      (eOld (Instr.push 2 true 14 1 1) (id)).works 1 = true ∧
      (∃ r ∈ ((eOld (Instr.push 2 true 14 1 1) (id)).core 1).psh.olderOf 0, pushParts r.cmd.instr = some (0, 2, true) ∧ r.cmd.pos = 0 ∧ r.cmd.uid = 20 ∧ r.cmd.dests ≠ [] ∧ (r.cmd.vals.getD 1 0).getLsbD 50 = false ∧ bits (r.cmd.vals.getD 1 0) 45 5 = 0 ∧ r.carried = []) ∧
      ((eOld (Instr.push 2 true 14 1 1) (id)).core 1).out 20 = some ⟨20, 0, some 1, 1, false, false, true, none, some 2, false, false, false⟩ ∧
      (((eOld (Instr.push 2 true 14 1 1) (id)).core 1).td 2).rows * (((eOld (Instr.push 2 true 14 1 1) (id)).core 1).td 2).rowBytes = 64 ∧
      ((eOld (Instr.push 2 true 14 1 1) (id)).core 1).poisoned ((((eOld (Instr.push 2 true 14 1 1) (id)).core 1).td 2).at 0) 64 = false ∧
      (eOld (Instr.push 2 true 14 1 1) (fun r => { r with pos := 64, cmd := { r.cmd with pos := 64 } })).works 1 = true ∧
      (∃ r ∈ ((eOld (Instr.push 2 true 14 1 1) (fun r => { r with pos := 64, cmd := { r.cmd with pos := 64 } })).core 1).psh.olderOf 0, pushParts r.cmd.instr = some (0, 2, true) ∧ r.cmd.pos = 64 ∧ r.cmd.uid = 20 ∧ r.cmd.dests ≠ [] ∧ (r.cmd.vals.getD 1 0).getLsbD 50 = false ∧ bits (r.cmd.vals.getD 1 0) 45 5 = 0 ∧ r.carried = []))
    ∧ (((eOld (Instr.push 2 true 14 1 1) (fun r => { r with pos := 64, cmd := { r.cmd with pos := 64 } })).core 1).out 20 = some ⟨20, 0, some 1, 1, false, false, true, none, some 2, false, false, false⟩ ∧
      (((eOld (Instr.push 2 true 14 1 1) (fun r => { r with pos := 64, cmd := { r.cmd with pos := 64 } })).core 1).td 2).rows * (((eOld (Instr.push 2 true 14 1 1) (fun r => { r with pos := 64, cmd := { r.cmd with pos := 64 } })).core 1).td 2).rowBytes = 64 ∧
      (pgS ((eOld (Instr.pushg 2 true 14 1 1) (fun r => { r with phase := 1 })))).works 1 = true ∧
      (∃ r ∈ ((pgS ((eOld (Instr.pushg 2 true 14 1 1) (fun r => { r with phase := 1 })))).core 1).psh.olderOf 0, pushParts r.cmd.instr = some (1, 2, true) ∧ r.cmd.pos = 0 ∧ r.cmd.uid = 20 ∧ r.cmd.dests ≠ [] ∧ (r.cmd.vals.getD 1 0).getLsbD 50 = false ∧ bits (r.cmd.vals.getD 1 0) 45 5 = 0 ∧ r.carried = [] ∧ r.phase = 1) ∧
      ((pgS ((eOld (Instr.pushg 2 true 14 1 1) (fun r => { r with phase := 1 })))).core 1).out 20 = some ⟨20, 0, some 1, 1, false, false, true, none, some 2, false, false, false⟩ ∧
      (((pgS ((eOld (Instr.pushg 2 true 14 1 1) (fun r => { r with phase := 1 })))).core 1).td 2).rows * (((pgS ((eOld (Instr.pushg 2 true 14 1 1) (fun r => { r with phase := 1 })))).core 1).td 2).rowBytes = 64 ∧
      (∃ e ∈ ((pgS ((eOld (Instr.pushg 2 true 14 1 1) (fun r => { r with phase := 1 })))).clus (clusOf 1)).lookup ((pgS ((eOld (Instr.pushg 2 true 14 1 1) (fun r => { r with phase := 1 })))).trId 1) (((((pgS ((eOld (Instr.pushg 2 true 14 1 1) (fun r => { r with phase := 1 })))).core 1).td 2).at 0) % 2 ^ 64) 0, e.result (((((pgS ((eOld (Instr.pushg 2 true 14 1 1) (fun r => { r with phase := 1 })))).core 1).td 2).at 0) % 2 ^ 64) = (0x7000, 0) ∧ isReg 0x7000 = false ∧ (pgS ((eOld (Instr.pushg 2 true 14 1 1) (fun r => { r with phase := 1 })))).noStorage 0x7000 = false) ∧
      (eOld (Instr.pushg 2 true 14 1 1) (fun r => { r with phase := 5, snap := [(3, 7)] })).works 1 = true)
    ∧ ((∃ r ∈ ((eOld (Instr.pushg 2 true 14 1 1) (fun r => { r with phase := 5, snap := [(3, 7)] })).core 1).psh.olderOf 0, pushParts r.cmd.instr = some (1, 2, true) ∧ r.cmd.pos = 0 ∧ r.cmd.uid = 20 ∧ r.cmd.dests ≠ [] ∧ (r.cmd.vals.getD 1 0).getLsbD 50 = false ∧ bits (r.cmd.vals.getD 1 0) 45 5 = 0 ∧ r.carried = [] ∧ r.phase = 5 ∧ r.fault = none ∧ r.snapBad = []) ∧
      ((eOld (Instr.pushg 2 true 14 1 1) (fun r => { r with phase := 5, snap := [(3, 7)] })).core 1).out 20 = some ⟨20, 0, some 1, 1, false, false, true, none, some 2, false, false, false⟩ ∧
      (((eOld (Instr.pushg 2 true 14 1 1) (fun r => { r with phase := 5, snap := [(3, 7)] })).core 1).td 2).rows * (((eOld (Instr.pushg 2 true 14 1 1) (fun r => { r with phase := 5, snap := [(3, 7)] })).core 1).td 2).rowBytes = 64) :=
  ⟨heads_of (by decide +kernel), plainStart_of (by decide +kernel), (fun w h => by cases h), by decide +kernel, by decide +kernel, by decide +kernel⟩

/-- PUSHS: a first piece, the rest of one, an IO page with acknowledgements to come and none; the flushes, over a dirty line and a clean one; a push
that narrows its words. -/
theorem witness_PushSteps_2 :
    (∀ s ∈ ([sPs 0 id, sPsC, sPsI 0, sPsI 1, sPgF 1, sPgF 0, sPsF 1, sPsF 0, sPw] : List State),
      (s.core 1).pushStalled = false ∧ s.works 1 = true ∧ ((s.core 1).out 20).isSome = true ∧
      ((s.core 1).psh.olderOf 0).any (fun r => r.cmd.uid == 20 && (pushParts r.cmd.instr).isSome) = true)
    ∧ (∀ e ∈ ([(sPs 0 id, 0x7030, 0), (sPsI 0, 0x7030, 2), (sPsI 1, 0x7030, 2)] : List (State × Nat × Nat)),
      ((e.1.clus 0).lookup (e.1.trId 1) 0x1030 1).map (·.result 0x1030) = some e.2 ∧ (e.1.clus 0).walkFails = [] ∧
      ((e.1.core 1).psh.olderOf 0).any (fun r => r.phase == 1 && r.carried.isEmpty && r.cmd.pos == 0 && (r.cmd.vals.headD 0).toNat == 0x1030) = true ∧
      ((e.1.core 1).td 2).at 0 = 0x2000 ∧ (e.1.core 1).poisoned 0x2000 64 = false ∧ (e.1.core 1).weak = [])
    ∧ (inMap 0x7030 = true ∧ isReg 0x7030 = false ∧ (sPs 0 id).noStorage 0x7030 = false ∧ ((sPsI 0).core 1).out 20 = some ⟨20, 0, some 1, 0, false, false, true, none, some 2, false, false, false⟩ ∧
      ((sPsC.clus 0).lookup (sPsC.trId 1) 0x1040 1).map (·.result 0x1040) = some (0x7040, 0) ∧ (sPsC.clus 0).walkFails = [] ∧
      ((sPsC.core 1).psh.olderOf 0).any (fun r => r.phase == 1 && r.carried.length == 48 && r.cmd.pos == 16) = true)
    ∧ ((∀ s ∈ ([sPgF 1, sPgF 0] : List State), (s.extents 1 20 0x2000 64 0).2 = ([(0x7000, 0x703F)], none) ∧
        ((s.core 1).psh.olderOf 0).any (fun r => r.phase == 2 && r.pos == 0) = true) ∧
      (∀ s ∈ ([sPsF 1, sPsF 0] : List State), (s.extents 1 20 0x1030 64 0).2 = ([(0x7030, 0x706F)], none) ∧
        ((s.core 1).psh.olderOf 0).any (fun r => r.phase == 2 && r.pos == 0) = true) ∧
      (⟨0x7000 / 64, 0x00FF, 1, none, 3⟩ : Line).within [(0x7030, 0x706F)] = true ∧ ((sPw.core 1).td 3).fmt = 0 ∧
      ((sPw.core 1).psh.olderOf 0).any (fun r => r.phase == 1 && bits (r.cmd.vals.getD 1 0) 45 5 == 3) = true) :=
  ⟨by decide +kernel, by decide +kernel, by decide +kernel, by decide +kernel⟩

/-- Every start, an MMA with B bound and without, a drain that passes its checks. -/
theorem witness_MatrixStarts :
    (∀ e ∈ ([((eQ (Instr.mzero true 1 1)), .mat, (cmd (Instr.mzero true 1 1)), .yes), ((eQ (Instr.mldb 2 1 1)), .mat, (cmd (Instr.mldb 2 1 1)), .yes),
      ((eQ (Instr.mprog true 13 1 1)), .mat, (cmd (Instr.mprog true 13 1 1)), .yes),
      ((eQ (Instr.mchk true 1 1)), .mat, (cmd (Instr.mchk true 1 1)), .yes),
      ((eQ (Instr.mma 2 false false false 13 1 1)), .mat, (cmd (Instr.mma 2 false false false 13 1 1)), .yes),
      ((bound (eQ (Instr.mma 2 false false false 13 1 1))), .mat, (cmd (Instr.mma 2 false false false 13 1 1)), .yes),
      (eDr, .mat, (cmd (Instr.mdrain 3 false 13 1 1)), .yes)] : List (State × Eng × Cmd × GuardSt)),
      State.heads e.1 1 e.2.1 e.2.2.1 e.2.2.2)
    ∧ (∀ e ∈ ([((eQ (Instr.mzero true 1 1)), (cmd (Instr.mzero true 1 1))), ((eQ (Instr.mldb 2 1 1)), (cmd (Instr.mldb 2 1 1))),
      ((eQ (Instr.mprog true 13 1 1)), (cmd (Instr.mprog true 13 1 1))), ((eQ (Instr.mchk true 1 1)), (cmd (Instr.mchk true 1 1))),
      ((eQ (Instr.mma 2 false false false 13 1 1)), (cmd (Instr.mma 2 false false false 13 1 1))),
      ((bound (eQ (Instr.mma 2 false false false 13 1 1))), (cmd (Instr.mma 2 false false false 13 1 1))), (eDr, (cmd (Instr.mdrain 3 false 13 1 1)))] : List (State × Cmd)),
      State.plainStart e.1 1 e.2)
    ∧ (∃ rows, (eDr.core 1).drainStart ((eDr.core 1).seen (cmd (Instr.mdrain 3 false 13 1 1)).begin) (3#5).toNat false = .ok rows)
    ∧ ((cmd (Instr.mma 2 false false false 13 1 1)).pos = 0 ∧ ((eQ (Instr.mma 2 false false false 13 1 1)).core 1).slice.bind = none ∧
      ((bound (eQ (Instr.mma 2 false false false 13 1 1))).core 1).slice.bind = some bind32 ∧ TDesc.rows bind32 = 32 ∧
      TDesc.cols bind32 = (((bound (eQ (Instr.mma 2 false false false 13 1 1))).core 1).td 2).cols ∧
      (((bound (eQ (Instr.mma 2 false false false 13 1 1))).core 1).td 2).fmt ≠ 17 ∧ TDesc.fmt bind32 ≠ 17 ∧
      ((bound (eQ (Instr.mma 2 false false false 13 1 1))).core 1).slice.tag false = .none) :=
  ⟨each (fun _ => heads_of) (by decide +kernel), each (fun _ => plainStart_of) (by decide +kernel), ok_of (by decide +kernel), by decide +kernel⟩

/-- A drain and a gather with a list, at their start, and the drain at its list's last granule, with rows that are there and that are not. -/
theorem witness_MatrixStarts_2 :
    (∀ e ∈ ([(listed 3 (eQ (Instr.mdrain 3 false 13 1 1)), cmd (Instr.mdrain 3 false 13 1 1)), (listed 3 (eQ (Instr.mmag 3 false false false 13 1 1)), cmd (Instr.mmag 3 false false false 13 1 1))] : List (State × Cmd)),
      State.heads e.1 1 .mat e.2 .yes)
    ∧ (∀ e ∈ ([(listed 3 (eQ (Instr.mdrain 3 false 13 1 1)), cmd (Instr.mdrain 3 false 13 1 1)), (listed 3 (eQ (Instr.mmag 3 false false false 13 1 1)), cmd (Instr.mmag 3 false false false 13 1 1))] : List (State × Cmd)),
      State.plainStart e.1 1 e.2)
    ∧ (∀ e ∈ ([(eList 3 [0xC0], 0xC1), (eList 40 [0xC0], 0xC1), (eList 3 [], 0xC0)] : List (State × Nat)),
      e.1.works 1 = true ∧ ((e.1.core 1).mat.run).any (fun r => r.phase == 7 && r.cmd.pos == 0 && r.mat.isNone
        && ((e.1.core 1).startReads r).find? (fun g => !r.got.contains g) == some e.2) = true)
    ∧ ((((listed 3 (eQ (Instr.mdrain 3 false 13 1 1))).core 1).startReads (cmd (Instr.mdrain 3 false 13 1 1)).begin) = [0xC0, 0xC1] ∧
      (((listed 3 (eQ (Instr.mmag 3 false false false 13 1 1))).core 1).startReads (cmd (Instr.mmag 3 false false false 13 1 1)).begin) = [0xC0, 0xC1] ∧
      (∀ e ∈ ([(3, true), (40, false)] : List (Byte × Bool)), ∃ r ∈ ((eList e.1 [0xC0]).core 1).mat.run,
        (match ((eList e.1 [0xC0]).core 1).drainStart (((eList e.1 [0xC0]).core 1).seen (((eList e.1 [0xC0]).core 1).readGranule r 0xC1)) 3 false with
          | .ok rows => e.2 && rows.length == 32
          | .error c => !e.2 && c == 0x04) = true)) :=
  ⟨each (fun _ => heads_of) (by decide +kernel), each (fun _ => plainStart_of) (by decide +kernel), by decide +kernel, by decide +kernel⟩

/-- Commands of each kind that write a granule, that write their last, that complete and that fault; verdicts, good and bad; a push whose bytes are all read. -/
theorem witness_EngineCompletions :
    (∀ a n w u, (cmd (Instr.gacc 1 1 1 6 1 1)).instr ≠ .gsend a n w u)
    ∧ ((∃ r ∈ ((eOld (Instr.vadd 1 1 1 0 8 true false) (fun r => { r with mask := some (2, 0xFF, false), qw := some (7, false) })).core 1).vec.olderOf 0, r.mask = some (2, 0xFF, false) ∧ r.qw = some (7, false) ∧ r.writes = []) ∧
      (∃ r ∈ ((eOld (Instr.vadd 1 1 1 0 8 true false) (fun r => { r with writes := [(0x1000, [1, 2]), (0x1010, [3]), (0x1040, [4])] })).core 1).vec.olderOf 0, (Obligations.granted [] r.writes).2 ≠ []) ∧
      ((eOld (Instr.vadd 1 1 1 0 8 true false) (id)).core 1).live 0 = true ∧
      (∃ r ∈ ((eRun (Instr.gacc 1 1 1 6 1 1) (fun r => { r with phase := 1, fault := some 0x0C })).core 1).gau.run, engOf r.cmd.instr = .gau ∧ r.phase = 1 ∧ r.fault = some 0x0C) ∧
      (∃ r ∈ ((eRun (Instr.gacc 1 1 1 6 1 1) (fun r => { r with phase := 1 })).core 1).gau.run, engOf r.cmd.instr = .gau ∧ r.phase = 1 ∧ r.fault = none ∧ r.writes = []) ∧
      (∃ r ∈ ((eRun (Instr.gacc 1 1 1 6 1 1) (fun r => { r with phase := 1, writes := [(0x1000, [1, 2]), (0x1010, [3]), (0x1040, [4])] })).core 1).gau.run, engOf r.cmd.instr = .gau ∧ r.phase = 1 ∧ r.fault = none ∧ (Obligations.granted [] r.writes).2 ≠ []) ∧
      (∃ r ∈ ((eRun (Instr.gsend 1 6 1 0) (fun r => { r with phase := 1, cmd := { r.cmd with vals := [5, 0, 0] } })).core 1).gau.run, engOf r.cmd.instr = .gau ∧ r.phase = 1 ∧ r.fault = none ∧ r.cmd.instr = .gsend 1 6 1 0 ∧ destOf (r.cmd.vals.headD 0) = some ⟨5, none⟩) ∧
      (eRun (Instr.gsend 1 6 1 0) (id)).works 1 = true)
    ∧ ((∃ o ∈ (sDone.core 1).out 20, o.td ≠ none ∧ o.sending = false ∧ (o.dlv = true → o.left = 0)) ∧
      (∃ r ∈ ((eRun (Instr.gmean 1 1 6 1 0) (fun r => { r with phase := 2 })).core 1).gau.run, engOf r.cmd.instr = .gau ∧ r.phase = 2 ∧ r.verdict = none) ∧
      (∃ r ∈ ((eRun (Instr.gmean 1 1 6 1 0) (fun r => { r with phase := 2, verdict := some (0x0C, 3) })).core 1).gau.run, engOf r.cmd.instr = .gau ∧ r.phase = 2 ∧ r.verdict = some (0x0C, 3)) ∧
      (∃ r ∈ ((sChk true).core 1).mat.run, r.phase = 2 ∧ r.cmd.instr = .mchk true 1 0) ∧
      (∃ r ∈ ((sChk false).core 1).mat.run, r.phase = 2 ∧ r.cmd.instr = .mchk true 1 0) ∧ ((sChk true).core 1).slice.badRows true ≠ 0 ∧
      ((sChk false).core 1).slice.badRows true = 0) :=
  ⟨(fun a n w u h => by cases h), by decide +kernel, by decide +kernel⟩

/-- A prefetch that finds its line whole and in part, that allocates, that does not, and its last line; a write that fails; a message. -/
theorem witness_EngineCompletions_2 :
    (∀ e ∈ ([(0, sVp 0 0 [(0, ⟨0x7000 / 64, 0xFFFF, 0, none, 3⟩)]), (0, sVp 0 0 [(0, ⟨0x7000 / 64, 0x00FF, 0, none, 3⟩)]), (0, sVp 0 0 []), (0, sVp 0 1 []),
        (7, sVp 7 0 [])] : List (Nat × State)),
      ((e.2.core 1).vec.olderOf 0).any (fun r => r.cmd.instr == .vpref 3 && r.pos == e.1) = true ∧ (e.2.core 1).spr.stashBusy = false ∧ (e.2.core 1).stashSets ≠ 0 ∧
      ((e.2.clus 0).lookup (e.2.trId 1) ((0x1000 / 64 + e.1) * 64) 0).map (·.result ((0x1000 / 64 + e.1) * 64)) = some (0x7000 + 64 * e.1, 0) ∧ (e.2.clus 0).walkFails = [] ∧
      inMap (0x7000 + 64 * e.1) = true ∧ isReg (0x7000 + 64 * e.1) = false ∧ e.2.noStorage (0x7000 + 64 * e.1) = false)
    ∧ ((((sVp 0 0 [(0, ⟨0x7000 / 64, 0xFFFF, 0, none, 3⟩)]).core 1).findLine 0x7000).isSome = true ∧ ((sVp 0 0 []).core 1).findLine 0x7000 = none)
    ∧ ((∃ r ∈ (sGpo.core 1).gau.run, engOf r.cmd.instr = .gau ∧ r.phase = 1 ∧ r.fault = none ∧ (sGpo.core 1).grantFails r (r.nextGranule none) = true) ∧
      (∃ r ∈ ((eRun (Instr.gacc 1 1 1 6 1 1) (fun r => { r with phase := 1, writes := [(0x1000, [1, 2]), (0x1010, [3]), (0x1040, [4])] })).core 1).gau.run,
        ((eRun (Instr.gacc 1 1 1 6 1 1) id).core 1).grantFails r (r.nextGranule none) = false) ∧
      (∃ r ∈ (sGs.core 1).gau.run, engOf r.cmd.instr = .gau ∧ r.phase = 1 ∧ r.fault = none ∧ r.cmd.instr = .gsend 1 6 1 0 ∧ (6#6).toNat < 8 ∧
        destOf (r.cmd.vals.headD 0) = some ⟨5, none⟩) ∧ sGs.works 1 = true ∧ sGs.net = [opn 19] ++ [{ opn 30 with vc := 2 }]) := by decide +kernel

/-- Each operation running; an MMA before its first K-step with granules to read, with all of them read, and after its last. -/
theorem witness_MatrixCompletions :
    ((∃ r ∈ ((eRun (Instr.mzero true 1 0) (id)).core 1).mat.run, r.phase = 1 ∧ r.mat = none ∧ r.cmd.instr = .mzero true 1 0) ∧
      (∃ r ∈ ((eRun (Instr.mldb 2 1 0) (id)).core 1).mat.run, r.phase = 1 ∧ r.mat = none ∧ r.cmd.instr = .mldb 2 1 0) ∧
      (∃ r ∈ ((eRun (Instr.mprog true 13 1 0) (id)).core 1).mat.run, r.phase = 1 ∧ r.mat = none ∧ r.cmd.instr = .mprog true 13 1 0) ∧
      (∃ r ∈ ((eRun (Instr.mdrain 3 false 13 1 0) (fun r => { r with writes := [(0x3000, [1, 2])] })).core 1).mat.run, r.phase = 1 ∧ r.mat = none ∧ r.cmd.instr = .mdrain 3 false 13 1 0 ∧ r.writes = (0x3000, [1, 2]) :: []) ∧
      (∃ r ∈ ((eRun (Instr.mdrain 3 false 13 1 0) (id)).core 1).mat.run, r.phase = 1 ∧ r.mat = none ∧ r.cmd.instr = .mdrain 3 false 13 1 0 ∧ r.writes = []) ∧
      ((eRun (Instr.mdrain 3 false 13 1 0) (id)).core 1).writePoisoned 0x3000 2 = false ∧ (eMma 0).stopping 1 0 = false ∧
      (eMma 2).stopping 1 0 = false ∧ eMmaR.stopping 1 0 = false)
    ∧ ((∃ r ∈ ((eMma 2).core 1).mat.run, r.phase = 1 ∧ r.cmd.instr = .mma 2 false false false 13 1 0 ∧ r.pos = 2 ∧ bits (r.cmd.vals.headD 0) 0 6 ≤ 32 ∧ r.mat = some ⟨BitVec.ofNat 256 (desc 2 false), bind32, [], [], [], false, [1], none⟩) ∧
      TDesc.cols (BitVec.ofNat 256 (desc 2 false)) = 64 ∧
      (∃ r ∈ ((eMma 0).core 1).mat.run, r.phase = 1 ∧ r.cmd.instr = .mma 2 false false false 13 1 0 ∧ r.pos = 0 ∧ bits (r.cmd.vals.headD 0) 0 6 ≤ 32 ∧ r.mat = some ⟨BitVec.ofNat 256 (desc 2 false), bind32, [], [], [], false, [1], none⟩ ∧ ((MatRun.needs (⟨BitVec.ofNat 256 (desc 2 false), bind32, [], [], [], false, [1], none⟩ : MatRun) r.cmd r.pos).find? (fun e => !r.got.contains e)).isSome = true) ∧
      (∃ r ∈ (eMmaR.core 1).mat.run, r.phase = 1 ∧ r.cmd.instr = .mma 2 false false false 13 1 0 ∧ r.pos = 0 ∧ bits (r.cmd.vals.headD 0) 0 6 ≤ 32 ∧ r.mat = some ⟨BitVec.ofNat 256 (desc 2 false), bind32, [], [], [], false, [1], none⟩ ∧ (MatRun.needs (⟨BitVec.ofNat 256 (desc 2 false), bind32, [], [], [], false, [1], none⟩ : MatRun) r.cmd r.pos).find? (fun e => !r.got.contains e) = none ∧ r.snapBad = []) ∧
      (eMmaR.core 1).slice.latchBad = false ∧ (fmtScale (TDesc.fmt (BitVec.ofNat 256 (desc 2 false)))).2.1 = 0 ∧
      (fmtScale (TDesc.fmt bind32)).2.1 = 0) :=
  ⟨by decide +kernel, by decide +kernel⟩

/-- A row of GANG arrivals whose tags differ, of matrix arrivals that agree, that differ, and of both kinds; an operation of a stopped context that waits at its bridle, at a boundary, and while it is being saved. -/
theorem witness_BridleSteps :
    (∀ x ∈ (br [gArr 1, gArr 1, gArr 2, gArr 1]).counted 1 0, ∀ a, kget ((br [gArr 1, gArr 1, gArr 2, gArr 1]).bridle 1 0).arrivals x = some a → a.mat = none)
    ∧ (∀ x ∈ (br [mArr 2 true, mArr 2 true, mArr 2 true, mArr 2 true]).counted 1 0, ∃ tg e, kget ((br [mArr 2 true, mArr 2 true, mArr 2 true, mArr 2 true]).bridle 1 0).arrivals x = some ⟨tg, some (2, 0, true, e), 0⟩)
    ∧ (∀ x ∈ (br [mArr 2 true, mArr 3 true, mArr 2 true, mArr 2 true]).counted 1 0, ∀ a, kget ((br [mArr 2 true, mArr 3 true, mArr 2 true, mArr 2 true]).bridle 1 0).arrivals x = some a → a.mat ≠ none)
    ∧ ((br [gArr 1, gArr 1, gArr 2, gArr 1]).counted 1 0 = [0, 1, 2, 3] ∧
      (br [mArr 2 true, mArr 2 true, mArr 2 true, mArr 2 true]).counted 1 0 = [0, 1, 2, 3] ∧
      (br [mArr 2 true, mArr 3 true, mArr 2 true, mArr 2 true]).counted 1 0 = [0, 1, 2, 3] ∧
      (br [mArr 2 true, gArr 1, mArr 2 true, mArr 2 true]).counted 1 0 = [0, 1, 2, 3] ∧
      (∀ x ∈ (br [gArr 1, gArr 1, gArr 2, gArr 1]).counted 1 0, kget ((br [gArr 1, gArr 1, gArr 2, gArr 1]).bridle 1 0).arrivals x ≠ none) ∧
      (∀ x ∈ (br [mArr 2 true, mArr 2 true, mArr 2 true, mArr 2 true]).counted 1 0, kget ((br [mArr 2 true, mArr 2 true, mArr 2 true, mArr 2 true]).bridle 1 0).arrivals x ≠ none) ∧
      (∀ x ∈ (br [mArr 2 true, mArr 3 true, mArr 2 true, mArr 2 true]).counted 1 0, kget ((br [mArr 2 true, mArr 3 true, mArr 2 true, mArr 2 true]).bridle 1 0).arrivals x ≠ none) ∧
      (∀ x ∈ (br [mArr 2 true, gArr 1, mArr 2 true, mArr 2 true]).counted 1 0, kget ((br [mArr 2 true, gArr 1, mArr 2 true, mArr 2 true]).bridle 1 0).arrivals x ≠ none) ∧
      (kget ((br [mArr 2 true, mArr 3 true, mArr 2 true, mArr 2 true]).bridle 1 0).arrivals 0).bind (fun a => a.mat.map (·.1)) ≠ (kget ((br [mArr 2 true, mArr 3 true, mArr 2 true, mArr 2 true]).bridle 1 0).arrivals 1).bind (fun a => a.mat.map (·.1)) ∧
      (kget ((br [mArr 2 true, gArr 1, mArr 2 true, mArr 2 true]).bridle 1 0).arrivals 1).map (·.mat) = some none ∧
      (1 : Nat) ∈ (br [mArr 2 true, gArr 1, mArr 2 true, mArr 2 true]).counted 1 0 ∧ eWt3.stopping 1 0 = true ∧ eWt3.killedOf 1 0 = false ∧
      eWt1.stopping 1 0 = true ∧ eWt1.killedOf 1 0 = false ∧ eWt6.stopping 1 0 = true ∧ eWt6.killedOf 1 0 = false ∧
      (∃ r ∈ (eWt3.core 1).mat.run, r.phase = 3 ∧ r.mat.bind (·.held) = none ∧ r.cmd.pos = 0))
    ∧ ((∃ r ∈ (eWt1.core 1).mat.run, r.phase = 1 ∧ r.mat = some ⟨BitVec.ofNat 256 (desc 2 false), bind32, [], [], [], false, [1], none⟩ ∧ matParts r.cmd.instr = some (2, false, false, false) ∧ r.pos < (TDesc.cols (⟨BitVec.ofNat 256 (desc 2 false), bind32, [], [], [], false, [1], none⟩ : MatRun).a + 31) / 32 ∧ r.got = []) ∧
      (eWt1.core 1).canSave = true ∧ (∃ r ∈ (eWt6.core 1).mat.run, r.phase = 6 ∧ r.writes = [(0x2F000, [1, 2])]) ∧
      (∃ r ∈ (eWt0.core 1).mat.run, r.phase = 6 ∧ r.writes = [])) :=
  ⟨each_some (by decide +kernel),
  by
      rw [show (br [mArr 2 true, mArr 2 true, mArr 2 true, mArr 2 true]).counted 1 0 = [0, 1, 2, 3] from by decide +kernel]
      simp only [List.mem_cons, List.not_mem_nil, or_false]
      rintro x (rfl | rfl | rfl | rfl) <;> exact ⟨0, 0, by decide +kernel⟩,
  each_some (by decide +kernel), by decide +kernel, by decide +kernel⟩

/-- The operation of a yielding context that waits at its bridle, and one that still reads its list. -/
theorem witness_BridleSteps_2 :
    eWtY.stopping 1 0 = true ∧ eWtY.killedOf 1 0 = false ∧ eWt7.stopping 1 0 = true ∧ eWt7.killedOf 1 0 = false
    ∧ (∃ r ∈ (eWtY.core 1).mat.run, r.phase = 3 ∧ (matParts r.cmd.instr).isSome = true ∧ r.mat.bind (·.held) = none ∧ r.cmd.pos = 0)
    ∧ (∃ r ∈ (eWt7.core 1).mat.run, r.phase = 7 ∧ (matParts r.cmd.instr).isSome = true ∧ r.mat.bind (·.held) = none ∧ r.cmd.pos = 0) := by decide +kernel

/-- Every kind of message at a core: answers, for an access, for a load that goes on and one that has lost its destination, for a fill; pushes, packets and posts; taken, refused, held and left. -/
theorem witness_CoreArrivals :
    (((inMsg (.slice 0) 1 (.data (req (.read 4) 0x7000) [1, 2, 3, 4] [])).arriving 0).isSome = true ∧
      ((loadOf false (inMsg (.slice 0) 1 (.data (req (.read 4) 0x7000) [1, 2, 3, 4] []))).arriving 0).isSome = true ∧
      ((loadOf true (inMsg (.slice 0) 1 (.data (req (.read 4) 0x7000) [1, 2, 3, 4] []))).arriving 0).isSome = true ∧
      ((fillsOf [] (net (msg (.slice 0) (.core 1) 1 (.data (req .fill 0x7000) (List.replicate 64 1) [])) sG1)).arriving 0).isSome = true ∧
      ((fillsOf [⟨20, 0x7000 / 64, 0xFF00, false⟩] (net (msg (.slice 0) (.core 1) 1 (.data (req .fill 0x7000) (List.replicate 64 1) [])) sG1)).arriving 0).isSome = true ∧
      ((inMsg (.slice 0) 1 (.ack 1 20)).arriving 0).isSome = true ∧ ((inMsg (.core 2) 1 (.ack 1 20)).arriving 0).isSome = true ∧
      ((inMsg (.port 2) 1 (.ack 1 20)).arriving 0).isSome = true ∧ ((inMsg (.slice 0) 1 (.nak 1 20 0x06)).arriving 0).isSome = true ∧
      ((inMsg (.core 2) 2 (.push 20 true 0x100 [1, 2] [] none)).arriving 0).isSome = true ∧
      ((inMsg (.core 2) 2 (.push 20 false 0x1000 [1, 2] [] none)).arriving 0).isSome = true ∧
      ((inMsg (.core 2) 2 (.push 20 false 0x5FFFF [1, 2] [] none)).arriving 0).isSome = true ∧
      ((foreign (inMsg (.core 2) 2 (.push 20 false 0x1000 [1, 2] [] none))).arriving 0).isSome = true ∧
      ((inMsg (.core 2) 2 (.packet 20 0x1000 [1, 2] false 0)).arriving 0).isSome = true ∧
      ((inMsg (.core 2) 2 (.packet 20 0x5FFF8 [1, 2] false 1)).arriving 0).isSome = true ∧
      ((inMsg (.core 2) 2 (.packet 20 (0x1030 + 2 ^ 36) [1, 2, 3] false 0)).arriving 0).isSome = true ∧
      ((foreign (inMsg (.core 2) 2 (.packet 20 0x1000 [1, 2] false 0))).arriving 0).isSome = true ∧
      ((inMsg (.core 2) 2 (.post 20 3 1 7 false)).arriving 0).isSome = true ∧
      ((emptied 1 (inMsg (.core 2) 2 (.post 20 0 1 7 false))).arriving 0).isSome = true ∧
      ((inMsg (.core 2) 2 (.post 20 0 1 7 false)).arriving 0).isSome = true ∧
      ((posts16 (inMsg (.core 2) 2 (.post 20 0 1 7 false))).arriving 0).isSome = true ∧
      ((inMsg (.slice 0) 1 (.data (req (.read 4) 0x7000) [1, 2, 3, 4] [])).core 1).live 0 = true)
    ∧ (((inMsg (.slice 0) 1 (.data (req (.read 4) 0x7000) [1, 2, 3, 4] [])).ctx 1 0).acc = some ⟨6, 20, none⟩ ∧
      ((inMsg (.slice 0) 1 (.data (req (.read 4) 0x7000) [1, 2, 3, 4] [])).ctx 1 0).load = none ∧
      ((inMsg (.slice 0) 1 (.ack 1 20)).core 1).live 0 = true ∧ ((inMsg (.slice 0) 1 (.ack 1 20)).ctx 1 0).acc = some ⟨6, 20, none⟩ ∧
      ((inMsg (.slice 0) 1 (.ack 1 20)).ctx 1 0).load = none ∧ (req (.read 4) 0x7000).op ≠ .fill ∧
      ((loadOf false (inMsg (.slice 0) 1 (.data (req (.read 4) 0x7000) [1, 2, 3, 4] []))).core 1).live 0 = true ∧
      ((loadOf false (inMsg (.slice 0) 1 (.data (req (.read 4) 0x7000) [1, 2, 3, 4] []))).ctx 1 0).load = some (theLoad false) ∧
      (theLoad false).uid = 20 ∧ (theLoad false).ans = none ∧ (theLoad false).failure ⟨leNat [1, 2, 3, 4], false, none⟩ = none ∧
      ((loadOf true (inMsg (.slice 0) 1 (.data (req (.read 4) 0x7000) [1, 2, 3, 4] []))).core 1).live 0 = true ∧
      ((loadOf true (inMsg (.slice 0) 1 (.data (req (.read 4) 0x7000) [1, 2, 3, 4] []))).ctx 1 0).load = some (theLoad true) ∧
      (theLoad true).uid = 20 ∧ (theLoad true).ans = none ∧ (theLoad true).failure ⟨leNat [1, 2, 3, 4], false, none⟩ = none ∧
      ((fillsOf [] (net (msg (.slice 0) (.core 1) 1 (.data (req .fill 0x7000) (List.replicate 64 1) [])) sG1)).core 1).fills.find? (fun f => f.uid == 20) = none ∧
      ((fillsOf [⟨20, 0x7000 / 64, 0xFF00, false⟩] (net (msg (.slice 0) (.core 1) 1 (.data (req .fill 0x7000) (List.replicate 64 1) [])) sG1)).core 1).fills.find? (fun f => f.uid == 20) = some ⟨20, 0x7000 / 64, 0xFF00, false⟩ ∧
      (sG1.core 1).findLine 0x7000 = some (0, ⟨0x7000 / 64, 0x00FF, 0x0001, none, 3⟩) ∧
      ((inMsg (.slice 0) 1 (.ack 1 20)).core 1).out 20 = some ⟨20, 0, some 1, 1, false, false, false, none, none, false, false, false⟩ ∧
      ((sOut 2).core 1).out 20 = some ⟨20, 0, some 1, 2, false, false, false, none, none, false, false, false⟩ ∧
      (inMsg (.core 2) 2 (.push 20 true 0x100 [1, 2] [] none)).blocked ((inMsg (.core 2) 2 (.push 20 true 0x100 [1, 2] [] none)).net.headD (mailMsg 0)) 1 = false)
    ∧ ((inMsg (.core 2) 2 (.push 20 true 0x100 [1, 2] [] none)).refusal ((inMsg (.core 2) 2 (.push 20 true 0x100 [1, 2] [] none)).net.headD (mailMsg 0)) 1 = none ∧
      (inMsg (.core 2) 2 (.push 20 false 0x1000 [1, 2] [] none)).blocked ((inMsg (.core 2) 2 (.push 20 false 0x1000 [1, 2] [] none)).net.headD (mailMsg 0)) 1 = false ∧
      (inMsg (.core 2) 2 (.push 20 false 0x1000 [1, 2] [] none)).refusal ((inMsg (.core 2) 2 (.push 20 false 0x1000 [1, 2] [] none)).net.headD (mailMsg 0)) 1 = none ∧
      (inMsg (.core 2) 2 (.push 20 false 0x5FFFF [1, 2] [] none)).blocked ((inMsg (.core 2) 2 (.push 20 false 0x5FFFF [1, 2] [] none)).net.headD (mailMsg 0)) 1 = false ∧
      (inMsg (.core 2) 2 (.push 20 false 0x5FFFF [1, 2] [] none)).refusal ((inMsg (.core 2) 2 (.push 20 false 0x5FFFF [1, 2] [] none)).net.headD (mailMsg 0)) 1 = none ∧
      (inMsg (.core 2) 2 (.packet 20 0x1000 [1, 2] false 0)).blocked ((inMsg (.core 2) 2 (.packet 20 0x1000 [1, 2] false 0)).net.headD (mailMsg 0)) 1 = false ∧
      (inMsg (.core 2) 2 (.packet 20 0x1000 [1, 2] false 0)).refusal ((inMsg (.core 2) 2 (.packet 20 0x1000 [1, 2] false 0)).net.headD (mailMsg 0)) 1 = none ∧
      (inMsg (.core 2) 2 (.packet 20 0x5FFF8 [1, 2] false 1)).blocked ((inMsg (.core 2) 2 (.packet 20 0x5FFF8 [1, 2] false 1)).net.headD (mailMsg 0)) 1 = false ∧
      (inMsg (.core 2) 2 (.packet 20 0x5FFF8 [1, 2] false 1)).refusal ((inMsg (.core 2) 2 (.packet 20 0x5FFF8 [1, 2] false 1)).net.headD (mailMsg 0)) 1 = none ∧
      (inMsg (.core 2) 2 (.packet 20 (0x1030 + 2 ^ 36) [1, 2, 3] false 0)).blocked ((inMsg (.core 2) 2 (.packet 20 (0x1030 + 2 ^ 36) [1, 2, 3] false 0)).net.headD (mailMsg 0)) 1 = false ∧
      (inMsg (.core 2) 2 (.packet 20 (0x1030 + 2 ^ 36) [1, 2, 3] false 0)).refusal ((inMsg (.core 2) 2 (.packet 20 (0x1030 + 2 ^ 36) [1, 2, 3] false 0)).net.headD (mailMsg 0)) 1 = none ∧
      (inMsg (.core 2) 2 (.post 20 3 1 7 false)).blocked ((inMsg (.core 2) 2 (.post 20 3 1 7 false)).net.headD (mailMsg 0)) 1 = false ∧
      (inMsg (.core 2) 2 (.post 20 3 1 7 false)).refusal ((inMsg (.core 2) 2 (.post 20 3 1 7 false)).net.headD (mailMsg 0)) 1 = none ∧
      (emptied 1 (inMsg (.core 2) 2 (.post 20 0 1 7 false))).blocked ((emptied 1 (inMsg (.core 2) 2 (.post 20 0 1 7 false))).net.headD (mailMsg 0)) 1 = false ∧
      (emptied 1 (inMsg (.core 2) 2 (.post 20 0 1 7 false))).refusal ((emptied 1 (inMsg (.core 2) 2 (.post 20 0 1 7 false))).net.headD (mailMsg 0)) 1 = none ∧
      (inMsg (.core 2) 2 (.post 20 0 1 7 false)).blocked ((inMsg (.core 2) 2 (.post 20 0 1 7 false)).net.headD (mailMsg 0)) 1 = false ∧
      (inMsg (.core 2) 2 (.post 20 0 1 7 false)).refusal ((inMsg (.core 2) 2 (.post 20 0 1 7 false)).net.headD (mailMsg 0)) 1 = none ∧
      (posts16 (inMsg (.core 2) 2 (.post 20 0 1 7 false))).blocked ((posts16 (inMsg (.core 2) 2 (.post 20 0 1 7 false))).net.headD (mailMsg 0)) 1 = false ∧
      (posts16 (inMsg (.core 2) 2 (.post 20 0 1 7 false))).refusal ((posts16 (inMsg (.core 2) 2 (.post 20 0 1 7 false))).net.headD (mailMsg 0)) 1 = none ∧
      (foreign (inMsg (.core 2) 2 (.push 20 false 0x1000 [1, 2] [] none))).blocked ((foreign (inMsg (.core 2) 2 (.push 20 false 0x1000 [1, 2] [] none))).net.headD (mailMsg 0)) 1 = false ∧
      ((foreign (inMsg (.core 2) 2 (.push 20 false 0x1000 [1, 2] [] none))).refusal ((foreign (inMsg (.core 2) 2 (.push 20 false 0x1000 [1, 2] [] none))).net.headD (mailMsg 0)) 1).isSome = true ∧
      (foreign (inMsg (.core 2) 2 (.packet 20 0x1000 [1, 2] false 0))).blocked ((foreign (inMsg (.core 2) 2 (.packet 20 0x1000 [1, 2] false 0))).net.headD (mailMsg 0)) 1 = false)
    ∧ (((foreign (inMsg (.core 2) 2 (.packet 20 0x1000 [1, 2] false 0))).refusal ((foreign (inMsg (.core 2) 2 (.packet 20 0x1000 [1, 2] false 0))).net.headD (mailMsg 0)) 1).isSome = true ∧
      ((inMsg (.core 2) 2 (.push 20 false 0x1000 [1, 2] [] none)).core 1).writePoisoned 0x1000 (min 2 (((inMsg (.core 2) 2 (.push 20 false 0x1000 [1, 2] [] none)).core 1).stashBase - 0x1000)) = false ∧
      0x1000 + 2 ≤ ((inMsg (.core 2) 2 (.push 20 false 0x1000 [1, 2] [] none)).core 1).stashBase ∧
      ((inMsg (.core 2) 2 (.push 20 false 0x5FFFF [1, 2] [] none)).core 1).writePoisoned 0x5FFFF (min 2 (((inMsg (.core 2) 2 (.push 20 false 0x5FFFF [1, 2] [] none)).core 1).stashBase - 0x5FFFF)) = false ∧
      ((inMsg (.core 2) 2 (.push 20 false 0x5FFFF [1, 2] [] none)).core 1).stashBase < 0x5FFFF + 2 ∧
      (∀ i < 2, ((inMsg (.core 2) 2 (.packet 20 0x1000 [1, 2] false 0)).core 1).landable (hdrDst 0x1000 + 8 * i) = true) ∧
      (2 : Nat) ≤ 0 + min (2 - 0) (8 - hdrDst 0x1000 / 8 % 8) ∧
      ((inMsg (.core 2) 2 (.packet 20 0x5FFF8 [1, 2] false 1)).core 1).landable (hdrDst 0x5FFF8 + 8 * 1) = false ∧
      (2 : Nat) ≤ 1 + min (2 - 1) (8 - (hdrDst 0x5FFF8 + 8) / 8 % 8) ∧ wbit (0x1030 + 2 ^ 36) 36 = true ∧
      ((inMsg (.core 2) 2 (.packet 20 (0x1030 + 2 ^ 36) [1, 2, 3] false 0)).core 1).landable (hdrDst (0x1030 + 2 ^ 36)) = true ∧
      0 + min (3 - 0) (8 - hdrDst (0x1030 + 2 ^ 36) / 8 % 8) < 3 ∧ ((inMsg (.core 2) 2 (.post 20 3 1 7 false)).core 1).live 3 = false ∧
      (inMsg (.core 2) 2 (.post 20 3 1 7 false)).savedAway 1 3 = false ∧
      (((emptied 1 (inMsg (.core 2) 2 (.post 20 0 1 7 false))).core 1).live 0 = true ∧ ((emptied 1 (inMsg (.core 2) 2 (.post 20 0 1 7 false))).ctx 1 0).isFull 1 = false ∧ ∀ p ∈ ((emptied 1 (inMsg (.core 2) 2 (.post 20 0 1 7 false))).core 1).rx.posts, p.ctx ≠ 0) ∧
      ((inMsg (.core 2) 2 (.post 20 0 1 7 false)).core 1).live 0 = true ∧
      ((inMsg (.core 2) 2 (.post 20 0 1 7 false)).ctx 1 0).isFull 1 = true ∧
      ((inMsg (.core 2) 2 (.post 20 0 1 7 false)).core 1).rx.posts.length < 16 ∧
      ((posts16 (inMsg (.core 2) 2 (.post 20 0 1 7 false))).ctx 1 0).isFull 1 = true ∧
      16 ≤ ((posts16 (inMsg (.core 2) 2 (.post 20 0 1 7 false))).core 1).rx.posts.length)
    ∧ (((emptied 1 (posts16 s0)).core 1).rx.posts[0]? = some ⟨0, 1, 5, false⟩ ∧ ((emptied 1 (posts16 s0)).core 1).live 0 = true ∧
      ((emptied 1 (posts16 s0)).ctx 1 0).isFull 1 = false ∧
      (∀ o ∈ ((emptied 1 (posts16 s0)).core 1).rx.posts.take 0, ¬ (o.ctx = 0 ∧ o.reg = 1))) :=
  ⟨by decide +kernel, by decide +kernel, by decide +kernel, by decide +kernel, by decide +kernel⟩

/-- What lands and is then counted, of a push and a packet; counts that come too late; a post that is stuck, with traffic behind it; a load that its fill
answers. -/
theorem witness_CoreArrivals_2 :
    ((∀ s ∈ ([pushBar, packBar 0, owing 2 pushBar, owing 8 (packBar 1), owing 16 (packBar 2), foreign (owing 2 pushBar)] : List State),
        (s.arriving 0).isSome = true ∧ s.blocked (s.net.headD (mailMsg 0)) 1 = false) ∧
      pushBar.refusal (pushBar.net.headD (mailMsg 0)) 1 = none ∧ (packBar 0).refusal ((packBar 0).net.headD (mailMsg 0)) 1 = none ∧
      (pushBar.core 1).counts (some 0x1800) 2 = true ∧ ((packBar 0).core 1).counts (some (16 * bits (0x1100 + 0x180 * 2 ^ 20) 20 16)) 16 = true ∧
      wbit (0x1100 + 0x180 * 2 ^ 20) 36 = false ∧ ((packBar 0).core 1).landable (hdrDst (0x1100 + 0x180 * 2 ^ 20)) = true ∧
      (∀ s ∈ ([owing 2 pushBar, owing 8 (packBar 1), owing 16 (packBar 2)] : List State), s.lateRefusal (s.net.headD (mailMsg 0)) 1 = none))
    ∧ ((kget ((emptied 1 (inMsg (.core 2) 2 (.post 20 0 1 7 false))).core 1).pairs 0) = none ∧ (kget ((emptied 1 (posts16 s0)).core 1).pairs 0) = none ∧
      (sStuck.net.headD (mailMsg 0)).stuck = true ∧ sStuck.net[1]? = some (msg (.core 3) (.core 1) 2 (.push 21 false 0x1000 [1, 2] [] none)) ∧
      msg (.core 3) (.core 1) 2 (.push 21 false 0x1000 [1, 2] [] none) ≠ sStuck.net.headD (mailMsg 0))
    ∧ ((sFl2.arriving 0).isSome = true ∧ (sFl2.ctx 1 0).load = some { theLoad false with phase := 2, va := 0x1020 } ∧ (sFl2.core 1).live 0 = true ∧
      (sFl2.core 1).findLine 0x7000 = some (0, ⟨0x7000 / 64, 0x00FF, 0x0001, none, 3⟩) ∧ lineMask 0x1020 4 &&& ~~~(0x00FF ||| 0xFF00) = 0 ∧
      (sFl2.core 1).poisoned ((sFl2.core 1).lineData 0 + 0x20) 4 = false) := by decide +kernel

/-- A message for an open, a closed and a full mailbox, and one that is refused; one being written, at each stage, and another beside it; held messages that are tried; both wakes of the ballonet; a posting for a full queue and for one with room; records for no queue, a full one and one with room. -/
theorem witness_MailboxSteps :
    (((sMail (box 0)).arriving 0).isSome = true ∧ ((sMail (box 0 - 2 ^ 206)).arriving 0).isSome = true ∧
      ((sMail (box 1 - 2 ^ 207)).arriving 0).isSome = true ∧ ((foreign (sMail (box 0))).arriving 0).isSome = true ∧
      ((landing [(0x20D0, [1, 2])] 0 1 (sMail (box 0))).arriving 0).isSome = true ∧
      ((landing [] 0 1 (sMail (box 0))).arriving 0).isSome = true ∧ ((landing [] 1 1 (sMail (box 0))).arriving 0).isSome = true ∧
      ((landing [] 0 3 (sMail (box 0))).arriving 0).isSome = true ∧
      (sLk.arriving 0).isSome = true ∧ sLk.blocked (sLk.net.headD (mailMsg 0)) 1 = false ∧ (sLk.core 1).rx.landing.isSome = true ∧
      (sMail (box 0)).blocked ((sMail (box 0)).net.headD (mailMsg 0)) 1 = false ∧
      (sMail (box 0)).refusal ((sMail (box 0)).net.headD (mailMsg 0)) 1 = none ∧
      (sMail (box 0 - 2 ^ 206)).blocked ((sMail (box 0 - 2 ^ 206)).net.headD (mailMsg 0)) 1 = false ∧
      (sMail (box 0 - 2 ^ 206)).refusal ((sMail (box 0 - 2 ^ 206)).net.headD (mailMsg 0)) 1 = none ∧
      (sMail (box 1 - 2 ^ 207)).blocked ((sMail (box 1 - 2 ^ 207)).net.headD (mailMsg 0)) 1 = false ∧
      (sMail (box 1 - 2 ^ 207)).refusal ((sMail (box 1 - 2 ^ 207)).net.headD (mailMsg 0)) 1 = none)
    ∧ ((foreign (sMail (box 0))).blocked ((foreign (sMail (box 0))).net.headD (mailMsg 0)) 1 = false ∧
      ((foreign (sMail (box 0))).refusal ((foreign (sMail (box 0))).net.headD (mailMsg 0)) 1).isSome = true ∧
      (((sMail (box 0)).net.headD (mailMsg 0)).mail?) = some mailOf ∧ mailOf.port = none ∧ mailOf.box = 0x1000 ∧
      ((sMail (box 0)).core 1).rx.landing = none ∧ ((sMail (box 0 - 2 ^ 206)).core 1).rx.landing = none ∧
      ((sMail (box 1 - 2 ^ 207)).core 1).rx.landing = none ∧ ((sMail (box 0)).core 1).mboxAt 0x1000 = true ∧
      ((sMail (box 0)).core 1).poisoned 0x1000 64 = false ∧
      ((sMail (box 0)).core 1).mboxMalformed (((sMail (box 0)).core 1).mbox 0x1000) = false ∧
      (((sMail (box 0)).core 1).mbox 0x1000).isOpen = true ∧ (((sMail (box 0)).core 1).mbox 0x1000).edge = true ∧
      (((sMail (box 0)).core 1).mbox 0x1000).task = 0xFFFF ∧ mailOf.slot < (((sMail (box 0)).core 1).mbox 0x1000).slots ∧
      mailOf.dim = (((sMail (box 0)).core 1).mbox 0x1000).dim ∧ mailOf.hdrWf = (((sMail (box 0)).core 1).mbox 0x1000).wfmt ∧
      mailOf.wf = mailOf.hdrWf ∧ blockWords (((sMail (box 0)).core 1).mbox 0x1000).dim ≤ mailOf.blk.length ∧
      (((sMail (box 0)).core 1).mbox 0x1000).valid mailOf.slot = false ∧ ((sMail (box 0 - 2 ^ 206)).core 1).mboxAt 0x1000 = true ∧
      ((sMail (box 0 - 2 ^ 206)).core 1).poisoned 0x1000 64 = false)
    ∧ ((((sMail (box 0 - 2 ^ 206)).core 1).mbox 0x1000).isOpen = false ∧ ((sMail (box 1 - 2 ^ 207)).mailIn 1 mailOf).isSome = false ∧
      ((landing [(0x20D0, [1, 2])] 0 1 (sMail (box 0))).core 1).rx.landing = some (landOf [(0x20D0, [1, 2])] 0 1) ∧
      ((landing [] 0 1 (sMail (box 0))).core 1).rx.landing = some (landOf [] 0 1) ∧
      ((landing [] 1 1 (sMail (box 0))).core 1).rx.landing = some (landOf [] 1 1) ∧
      ((landing [] 0 3 (sMail (box 0))).core 1).rx.landing = some (landOf [] 0 3) ∧ (landOf [] 0 3).msg ≠ mailOf ∧
      (landOf [] 0 1).msg = mailOf ∧ (landOf [] 0 1).lbk = none ∧ (landOf [] 0 1).slot < 64 ∧ (landOf [] 0 1).posts = false ∧
      (rxOf (fun r => { r with held := [mailOf] }) (mem 0x1000 (leBytes 64 (box 1 - 2 ^ 207)) s0)).works 1 = true ∧
      ((rxOf (fun r => { r with held := [mailOf] }) (mem 0x1000 (leBytes 64 (box 1 - 2 ^ 207)) s0)).core 1).rx.held = mailOf :: [] ∧
      (rxOf (fun r => { r with held := [mailOf] }) (mem 0x1000 (leBytes 64 (box 0)) s0)).works 1 = true ∧
      ((rxOf (fun r => { r with held := [mailOf] }) (mem 0x1000 (leBytes 64 (box 0)) s0)).core 1).rx.held = mailOf :: [] ∧
      (rxOf (fun r => { r with held := [mailOf] }) (landing [(0x20D0, [1, 2])] 0 3 (mem 0x1000 (leBytes 64 (box 0)) s0))).works 1 = true ∧
      ((rxOf (fun r => { r with held := [mailOf] }) (landing [(0x20D0, [1, 2])] 0 3 (mem 0x1000 (leBytes 64 (box 0)) s0))).core 1).rx.held = mailOf :: [] ∧
      (rxOf (fun r => { r with held := [mailOf] }) (landing [] 1 1 (mem 0x1000 (leBytes 64 (box 0)) s0))).works 1 = true ∧
      ((rxOf (fun r => { r with held := [mailOf] }) (landing [] 1 1 (mem 0x1000 (leBytes 64 (box 0)) s0))).core 1).rx.held = mailOf :: [] ∧
      ((rxOf (fun r => { r with held := [mailOf] }) (mem 0x1000 (leBytes 64 (box 1 - 2 ^ 207)) s0)).core 1).rx.landing = none ∧
      ((rxOf (fun r => { r with held := [mailOf] }) (mem 0x1000 (leBytes 64 (box 0)) s0)).core 1).rx.landing = none ∧
      ((rxOf (fun r => { r with held := [mailOf] }) (mem 0x1000 (leBytes 64 (box 1 - 2 ^ 207)) s0)).mailIn 1 mailOf).isSome = false)
    ∧ (((rxOf (fun r => { r with held := [mailOf] }) (mem 0x1000 (leBytes 64 (box 0)) s0)).mailIn 1 mailOf).isSome = true ∧
      ((rxOf (fun r => { r with held := [mailOf] }) (landing [(0x20D0, [1, 2])] 0 3 (mem 0x1000 (leBytes 64 (box 0)) s0))).core 1).rx.landing = some (landOf [(0x20D0, [1, 2])] 0 3) ∧
      (landOf [(0x20D0, [1, 2])] 0 3).msg ≠ mailOf ∧
      ((rxOf (fun r => { r with held := [mailOf] }) (landing [] 1 1 (mem 0x1000 (leBytes 64 (box 0)) s0))).core 1).rx.landing = some (landOf [] 1 1) ∧
      (rxOf (fun r => { r with wake := true }) s0).works 1 = true ∧ ((rxOf (fun r => { r with wake := true }) s0).core 1).live 11 = false ∧
      ((rxOf (fun r => { r with wake := true }) s0).core 1).rx.wake = true ∧
      (rxOf (fun r => { r with notices := [0x1000] }) s0).works 1 = true ∧
      ((rxOf (fun r => { r with notices := [0x1000] }) s0).core 1).live 11 = false ∧
      ((rxOf (fun r => { r with notices := [0x1000] }) s0).core 1).rx.wake = false ∧
      ((rxOf (fun r => { r with notices := [0x1000] }) s0).core 1).rx.notices = 0x1000 :: [] ∧ (0x1000 : Nat) < 2 ^ 64 ∧
      ((rxOf (fun r => { r with postings := [(0, record 5)] }) (terrQ 0 true s0)).core 1).rx.postings = [(0, record 5)] ∧
      ((rxOf (fun r => { r with postings := [(0, record 5)] }) (terrQ 0 true s0)).postRecord 0 (record 5) (some 1)).2 < 2 ∧
      ((rxOf (fun r => { r with postings := [(0, record 5)] }) (terrQ 1024 true s0)).core 1).rx.postings = [(0, record 5)] ∧
      ((rxOf (fun r => { r with postings := [(0, record 5)] }) (terrQ 1024 true s0)).postRecord 0 (record 5) (some 1)).2 = 2 ∧
      ((sRec 0 true 9).arriving 0).isSome = true ∧ ((sRec 0 true 0).arriving 0).isSome = true ∧
      ((sRec 1024 true 0).arriving 0).isSome = true ∧ ((sRec 0 true 9).core 1).live 0 = true ∧
      ((sRec 0 true 9).ctx 1 0).acc = some ⟨9, 20, none⟩ ∧ ((sRec 0 true 0).core 1).live 0 = true)
    ∧ (((sRec 0 true 0).ctx 1 0).acc = some ⟨9, 20, none⟩ ∧ ((sRec 1024 true 0).core 1).live 0 = true ∧
      ((sRec 1024 true 0).ctx 1 0).acc = some ⟨9, 20, none⟩ ∧ (sRec 0 true 9).qcount 0 ≤ recQueue (recSeal (record 5 |>.set 58 9)) ∧
      recQueue (record 5) < (sRec 0 true 0).qcount 0 ∧ ((sRec 0 true 0).terr 0).slotOf (recQueue (record 5)) = some 0 ∧
      ((kget ((sRec 0 true 0).terr 0).slots 0).map (fun q => q.recs.length)) = some 0 ∧
      ((sRec 0 true 0).terr 0).chosenOf (recQueue (record 5)) = 0 ∧ recQueue (record 5) < (sRec 1024 true 0).qcount 0 ∧
      ((sRec 1024 true 0).terr 0).slotOf (recQueue (record 5)) = some 0 ∧
      ((kget ((sRec 1024 true 0).terr 0).slots 0).map (fun q => q.recs.length)) = some 1024 ∧
      ((sRec 1024 true 0).terr 0).chosenOf (recQueue (record 5)) = 0 ∧ recCheck (record 5) = none) :=
  ⟨by decide +kernel, by decide +kernel, by decide +kernel, by decide +kernel, by decide +kernel⟩

/-- Another dimension, another format, a poisoned descriptor; the grants of a message that posts, before it, with a barrier, and its posting to a queue with
room and without. -/
theorem witness_MailboxSteps_2 :
    (∀ s ∈ ([sMail (box 0 - 2 ^ 215), sMail (box 0 + 2 ^ 219), mapCore (fun c => { c with lbad := [0x200] }) (sMail (box 0))] : List State),
      (s.arriving 0).isSome = true ∧ s.blocked (s.net.headD (mailMsg 0)) 1 = false ∧ s.refusal (s.net.headD (mailMsg 0)) 1 = none ∧
      (s.core 1).rx.landing = none ∧ (s.core 1).mboxAt 0x1000 = true ∧ (s.core 1).mboxMalformed ((s.core 1).mbox 0x1000) = false ∧
      ((s.core 1).mbox 0x1000).isOpen = true ∧ ((s.core 1).mbox 0x1000).edge = true ∧ mailOf.slot < ((s.core 1).mbox 0x1000).slots)
    ∧ (mailOf.dim ≠ (((sMail (box 0 - 2 ^ 215)).core 1).mbox 0x1000).dim ∧ mailOf.hdrWf ≠ (((sMail (box 0 + 2 ^ 219)).core 1).mbox 0x1000).wfmt ∧
      ((sMail (box 0 - 2 ^ 215)).core 1).poisoned 0x1000 64 = false ∧ ((sMail (box 0 + 2 ^ 219)).core 1).poisoned 0x1000 64 = false ∧
      ((mapCore (fun c => { c with lbad := [0x200] }) (sMail (box 0))).core 1).poisoned 0x1000 64 = true)
    ∧ (∀ e ∈ ([(sLanding { landOf [] 0 1 with pend := true, posts := true } 0 (box 0), 0), (sLanding { landOf [] 1 1 with posts := true } 0 (box 0), 1),
        (sLanding (landOf [] 1 1) 0 (box 0 + 0x180 * 2 ^ 256), 1), (sLanding { landOf [] 2 1 with pend := true, posts := true, rec_ := record 5 } 0 (box 0), 2),
        (sLanding { landOf [] 2 1 with pend := true, posts := true, rec_ := record 5 } 1024 (box 0), 2)] : List (State × Nat)),
      (e.1.core 1).rx.landing.any (fun l => l.lbk.isNone && l.todo.isEmpty && l.stage == e.2 && decide (l.slot < 64)) = true)
    ∧ (((sLanding (landOf [] 1 1) 0 (box 0 + 0x180 * 2 ^ 256)).core 1).mbox 0x1000).bar = 0x1800 := by decide +kernel

/-- The last arrival, an earlier one, one that no context waits for; a firing. -/
theorem witness_GroupFirings :
    (((sArr true [⟨0, 0, 1, 0⟩]).arriving 0).isSome = true ∧ ((sArr true [⟨0, 0, 1, 0⟩, ⟨0, 0, 2, 0⟩]).arriving 0).isSome = true ∧
      ((sArr false [⟨0, 0, 1, 0⟩]).arriving 0).isSome = true ∧ ((inMsg (.terr 0) 3 (.groupFire 3 7)).arriving 0).isSome = true ∧
      kget ((sArr true [⟨0, 0, 1, 0⟩]).terr 0).groups 3 = some (grp [⟨0, 0, 1, 0⟩]) ∧
      (∃ e ∈ ((sArr true [⟨0, 0, 1, 0⟩]).core 1).ctxs, e.2.inGroup 3 = true) ∧
      (∃ e ∈ ((sArr true [⟨0, 0, 1, 0⟩, ⟨0, 0, 2, 0⟩]).core 1).ctxs, e.2.inGroup 3 = true) ∧
      (sArr true [⟨0, 0, 1, 0⟩]).present 0 (grp [⟨0, 0, 1, 0⟩]) = [1] ∧ (1 : Nat) ∈ nput (grp [⟨0, 0, 1, 0⟩]).arrived 1 ∧
      (∀ k ∈ (grp [⟨0, 0, 1, 0⟩]).expected, k = 1) ∧
      kget ((sArr true [⟨0, 0, 1, 0⟩, ⟨0, 0, 2, 0⟩]).terr 0).groups 3 = some (grp [⟨0, 0, 1, 0⟩, ⟨0, 0, 2, 0⟩]) ∧
      (∃ k ∈ (grp [⟨0, 0, 1, 0⟩, ⟨0, 0, 2, 0⟩]).expected, k ∈ (sArr true [⟨0, 0, 1, 0⟩, ⟨0, 0, 2, 0⟩]).present 0 (grp [⟨0, 0, 1, 0⟩, ⟨0, 0, 2, 0⟩]) ∧ k ∉ nput (grp [⟨0, 0, 1, 0⟩, ⟨0, 0, 2, 0⟩]).arrived 1) ∧
      (∀ e ∈ ((sArr false [⟨0, 0, 1, 0⟩]).core 1).ctxs, e.2.inGroup 3 = false)) :=
  by decide +kernel

/-- A member that is present no more holds the generation back no more. -/
theorem witness_GroupFirings_2 :
    (sArrG.arriving 0).isSome = true ∧ kget (sArrG.terr 0).groups 3 = some (grp [⟨0, 0, 1, 0⟩, ⟨0, 0, 2, 0⟩]) ∧
    (∃ e ∈ (sArrG.core 1).ctxs, e.2.inGroup 3 = true) ∧ (∃ k ∈ sArrG.present 0 (grp [⟨0, 0, 1, 0⟩, ⟨0, 0, 2, 0⟩]), k ∈ nput (grp [⟨0, 0, 1, 0⟩, ⟨0, 0, 2, 0⟩]).arrived 1) ∧
    (∀ k ∈ (grp [⟨0, 0, 1, 0⟩, ⟨0, 0, 2, 0⟩]).expected, k ∈ sArrG.present 0 (grp [⟨0, 0, 1, 0⟩, ⟨0, 0, 2, 0⟩]) → k ∈ nput (grp [⟨0, 0, 1, 0⟩, ⟨0, 0, 2, 0⟩]).arrived 1) ∧
    (2 : Nat) ∈ (grp [⟨0, 0, 1, 0⟩, ⟨0, 0, 2, 0⟩]).expected ∧ (2 : Nat) ∉ sArrG.present 0 (grp [⟨0, 0, 1, 0⟩, ⟨0, 0, 2, 0⟩]) := by decide +kernel

/-- A head that starts, one that is stopped, one in its bubble, one with a word, a jump and an SSTOP; a word due at a streaming core, at one that does not stream, and at one in JOIN. -/
theorem witness_StreamSteps :
    ((sHead (fun h => { h with running := true, startAt := some 100 }) 0).frozen 0 = false ∧
      (sHead (fun h => { h with running := false }) 0).frozen 0 = false ∧
      (sHead (fun h => { h with running := true, bubble := true }) 0).frozen 0 = false ∧
      (sHead (fun h => { h with running := true }) 0).frozen 0 = false ∧
      (sHead (fun h => { h with running := true }) 0x0C000002).frozen 0 = false ∧
      (sHead (fun h => { h with running := true }) 0x80620810).frozen 0 = false ∧
      ((sHead (fun h => { h with running := true, startAt := some 100 }) 0).clus 0).head.startAt = some 100 ∧
      100 ≤ (sHead (fun h => { h with running := true, startAt := some 100 }) 0).now ∧
      ((sHead (fun h => { h with running := true, startAt := some 100 }) 0).clus 0).head.flight = [] ∧
      (∀ k ∈ (sHead (fun h => { h with running := false }) 0).streamCores 0, (sHead (fun h => { h with running := false }) 0).due k = none) ∧
      (∀ k ∈ (sHead (fun h => { h with running := true, bubble := true }) 0).streamCores 0, (sHead (fun h => { h with running := true, bubble := true }) 0).due k = none) ∧
      (∀ k ∈ (sHead (fun h => { h with running := true }) 0).streamCores 0, (sHead (fun h => { h with running := true }) 0).due k = none) ∧
      (∀ k ∈ (sHead (fun h => { h with running := true }) 0x0C000002).streamCores 0, (sHead (fun h => { h with running := true }) 0x0C000002).due k = none) ∧
      (∀ k ∈ (sHead (fun h => { h with running := true }) 0x80620810).streamCores 0, (sHead (fun h => { h with running := true }) 0x80620810).due k = none) ∧
      ((sHead (fun h => { h with running := false }) 0).clus 0).head.running = false ∧
      ((sHead (fun h => { h with running := true, bubble := true }) 0).clus 0).head.running = true ∧
      ((sHead (fun h => { h with running := true, bubble := true }) 0).clus 0).head.startAt = none ∧
      ((sHead (fun h => { h with running := true, bubble := true }) 0).clus 0).head.bubble = true ∧
      ((sHead (fun h => { h with running := true }) 0).clus 0).head.running = true ∧
      ((sHead (fun h => { h with running := true }) 0).clus 0).head.startAt = none ∧
      ((sHead (fun h => { h with running := true }) 0).clus 0).head.bubble = false ∧
      ((sHead (fun h => { h with running := true }) 0).clus 0).sbad.contains 9 = false)
    ∧ (((sHead (fun h => { h with running := true }) 0).clus 0).head.idx = 9 ∧
      ((sHead (fun h => { h with running := true }) 0x0C000002).clus 0).head.running = true ∧
      ((sHead (fun h => { h with running := true }) 0x0C000002).clus 0).head.startAt = none ∧
      ((sHead (fun h => { h with running := true }) 0x0C000002).clus 0).head.bubble = false ∧
      ((sHead (fun h => { h with running := true }) 0x0C000002).clus 0).sbad.contains 9 = false ∧
      ((sHead (fun h => { h with running := true }) 0x0C000002).clus 0).head.idx = 9 ∧
      ((sHead (fun h => { h with running := true }) 0x80620810).clus 0).head.running = true ∧
      ((sHead (fun h => { h with running := true }) 0x80620810).clus 0).head.startAt = none ∧
      ((sHead (fun h => { h with running := true }) 0x80620810).clus 0).head.bubble = false ∧
      ((sHead (fun h => { h with running := true }) 0x80620810).clus 0).sbad.contains 9 = false ∧
      ((sHead (fun h => { h with running := true }) 0x80620810).clus 0).head.idx = 9 ∧ headTarget 9 0 = none ∧
      decodeOr 0 = .add 0 0 0 false ∧ headTarget 9 0x0C000002 = some 11 ∧ decodeOr 0x80620810 = .sstop 3 2 true ∧
      (sDue (fun c => { c with mode := .streamed, pc := 3 }) 3).disabled.contains 1 = false ∧
      (sDue (fun c => { c with mode := .streamed, pc := 3 }) 3).due 1 = some (0, ⟨3, 0, false⟩) ∧ (sDue id 3).disabled.contains 1 = false ∧
      (sDue id 3).due 1 = some (0, ⟨3, 0, false⟩) ∧
      (sDue (fun c => { c with run := .parked (.stream false), mode := .joining 3 }) 3).disabled.contains 1 = false ∧
      (sDue (fun c => { c with run := .parked (.stream false), mode := .joining 3 }) 3).due 1 = some (0, ⟨3, 0, false⟩) ∧
      (sDue (fun c => { c with mode := .streamed, pc := 3 }) 3).awaits 1 3 = false)
    ∧ (((sDue (fun c => { c with mode := .streamed, pc := 3 }) 3).core 1).buffers = true ∧ (sDue id 3).awaits 1 3 = false ∧
      ((sDue id 3).core 1).buffers = false ∧
      (sDue (fun c => { c with run := .parked (.stream false), mode := .joining 3 }) 3).awaits 1 3 = true) :=
  ⟨by decide +kernel, by decide +kernel, by decide +kernel⟩

/-- A word that is due at context 0 in a trap's handler that keeps what it took as it streamed. -/
theorem witness_StreamSteps_2 :
    let s := sDue (fun c => { c with spr := { c.spr with inh := true, str := true }, keeps := true }) 3
    s.disabled.contains 1 = false ∧ s.due 1 = some (0, ⟨3, 0, false⟩) ∧ s.awaits 1 3 = false ∧ (s.core 1).buffers = true := by decide +kernel

/-- An upcall with an entry and without; one held; a context to stop, one that is not at its boundary, one to restore, with an old packet, with a burner run out; a helper that waits for a slot, free, in HJOIN and in use; a WFE past its deadline. -/
theorem witness_ContextSteps :
    (∀ d a, (sSlot 0 false).nextWord 1 2 ≠ some (.hjoin d a))
    ∧ (∀ d a, (sSlot 4 true).nextWord 1 2 ≠ some (.hjoin d a))
    ∧ (∀ d a, (sSlot 4 false).nextWord 1 2 ≠ some (.hjoin d a))
    ∧ ((sUpq true).works 1 = true ∧ ((sUpq true).core 1).upq = (0x20, 7) :: [] ∧ (sUpq true).atBoundary 1 0 = true ∧
      ((sUpq true).ctx 1 0).spr.inh = false ∧ ((sUpq true).ctx 1 0).stopping = false ∧ (sUpq false).works 1 = true ∧
      ((sUpq false).core 1).upq = (0x20, 7) :: [] ∧ (sUpq false).atBoundary 1 0 = true ∧ ((sUpq false).ctx 1 0).spr.inh = false ∧
      ((sUpq false).ctx 1 0).stopping = false ∧ ((sUpq true).terr ((sUpq true).terrOf 1)).upcallEntry 0x20 = some 0x400 ∧
      ((sUpq true).ctx 1 0).mode = .loc ∧ ((sUpq false).terr ((sUpq false).terrOf 1)).upcallEntry 0x20 = none ∧
      (({ s0 with heldUpcalls := [⟨1, 0x20, 7⟩] } : State).heldUpcalls[0]? = some ⟨1, 0x20, 7⟩ ∧ (({ s0 with heldUpcalls := [⟨1, 0x20, 7⟩] } : State).core 1).upq.length < 8 ∧ ∀ o ∈ ({ s0 with heldUpcalls := [⟨1, 0x20, 7⟩] } : State).heldUpcalls.take 0, o.core ≠ 1) ∧
      s0.works 1 = true ∧ s0.atBoundary 1 0 = true ∧ s0.stopReady 1 0 = true ∧ (s0.ctx 1 0).mode = .loc ∧ sA0r.works 1 = true ∧
      (sA0r.core 1).live 0 = true)
    ∧ ((sA0r.ctx 1 0).run = .running ∧ sA0r.atBoundary 1 0 = false ∧ ((runAs (.stopped .saved)).core 1).live 0 = true ∧
      (runAs (.stopped .saved)).works 1 = true ∧ (runAs (.stopped .saved)).draining 1 = false ∧
      ((runAs (.stopped .saved)).ctx 1 0).run = .stopped .saved ∧
      (Ctx.ofImage ((runAs (.stopped .saved)).ctx 1 0) (runAs (.stopped .saved)).now (mread ((runAs (.stopped .saved)).core 1).lmem (imageAt 0) 512)).mode = .loc ∧
      (({ sPk with now := 9000 } : State).ctx 1 0).pkt = some ⟨5, 0x1000, 2, 1, [1, 2], 4990, 0xFC, 30⟩ ∧
      (({ sPk with now := 9000 } : State).core 1).live 0 = true ∧ ({ sPk with now := 9000 } : State).works 1 = true ∧
      4990 + 1024 ≤ ({ sPk with now := 9000 } : State).now ∧ (({ sPk with now := 9000 } : State).ctx 1 0).committed = false ∧
      (({ sPk with now := 9000 } : State).ctx 1 0).load = none ∧ (({ sPk with now := 9000 } : State).ctx 1 0).run = .running ∧
      (({ sPk with now := 9000 } : State).ctx 1 0).mode = .loc ∧ (({ sPk with now := 9000 } : State).ctx 1 0).spr.tvec.getLsbD 0 = true ∧
      (({ sPk with now := 9000 } : State).ctx 1 0).spr.inh = false ∧
      ((sSlot 0 false).core 1).slotWaiters = [(2, (sSlot 0 false).ctx 1 2)] ∧
      ((sSlot 4 true).core 1).slotWaiters = [(2, (sSlot 4 true).ctx 1 2)] ∧
      ((sSlot 4 false).core 1).slotWaiters = [(2, (sSlot 4 false).ctx 1 2)] ∧
      ((sSlot 0 false).core 1).slotsUsed + (sSlot 0 false).reservedOn 1 < ((sSlot 0 false).core 1).slots ∧
      ((sSlot 4 true).core 1).slots ≤ ((sSlot 4 true).core 1).slotsUsed + (sSlot 4 true).reservedOn 1)
    ∧ (((sSlot 4 false).core 1).slots ≤ ((sSlot 4 false).core 1).slotsUsed + (sSlot 4 false).reservedOn 1 ∧
      ((sSlot 4 true).core 1).ctxs.filter (fun e => match e.2.run with | .parked (.child _) => true | _ => false) = [(3, (sSlot 4 true).ctx 1 3)] ∧
      (sSlot 4 true).nextWord 1 3 = some (.hjoin 1 2) ∧ (sSlot 4 true).atBoundary 1 3 = true ∧ (sSlot 4 true).stopReady 1 3 = true ∧
      ((sSlot 4 false).core 1).ctxs.filter (fun e => match e.2.run with | .parked (.child _) => true | _ => false) = [] ∧
      ((runAs (.parked (.event true (some 4000)))).core 1).live 0 = true ∧ (runAs (.parked (.event true (some 4000)))).works 1 = true ∧
      ((runAs (.parked (.event true (some 4000)))).ctx 1 0).stopping = false ∧
      ((runAs (.parked (.event true (some 4000)))).ctx 1 0).run = .parked (.event true (some 4000)) ∧
      (runAs (.parked (.event true (some 4000)))).nextWord 1 0 = some (.wfe 5 6 true) ∧
      4000 ≤ (runAs (.parked (.event true (some 4000)))).now ∧ ((runAs (.parked (.event true (some 4000)))).ctx 1 0).event = false ∧
      ((runAs (.parked (.event true (some 4000)))).ctx 1 0).mode = .loc ∧
      ((runAs (.parked (.event true (some 4000)))).ctx 1 0).rep = none ∧
      ((on { h0 with spr := { h0.spr with hbtiv := 1 }, burn := 0 }).core 1).live 0 = true ∧
      (on { h0 with spr := { h0.spr with hbtiv := 1 }, burn := 0 }).works 1 = true ∧
      ((on { h0 with spr := { h0.spr with hbtiv := 1 }, burn := 0 }).ctx 1 0).spr.hbtiv ≠ 0 ∧
      ((on { h0 with spr := { h0.spr with hbtiv := 1 }, burn := 0 }).ctx 1 0).run.ages = true ∧
      ((on { h0 with spr := { h0.spr with hbtiv := 1 }, burn := 0 }).ctx 1 0).burnLeft (on { h0 with spr := { h0.spr with hbtiv := 1 }, burn := 0 }).now = 0) :=
  ⟨(by rw [show (sSlot 0 false).nextWord 1 2 = some (.add 0 0 0 false) from by decide +kernel]; intro d a h; cases h),
  (by rw [show (sSlot 4 true).nextWord 1 2 = some (.add 0 0 0 false) from by decide +kernel]; intro d a h; cases h),
  (by rw [show (sSlot 4 false).nextWord 1 2 = some (.add 0 0 0 false) from by decide +kernel]; intro d a h; cases h), by decide +kernel,
  by decide +kernel, by decide +kernel⟩

/-- An upcall of a context that streams, that waits at JOIN; a context 0 and a ballonet in a save entry. -/
theorem witness_ContextSteps_2 :
    (∀ s ∈ ([sUpm .streamed, sUpm (.joining 5)] : List State),
      s.works 1 = true ∧ (s.core 1).upq = [(0x20, 7)] ∧ s.atBoundary 1 0 = true ∧ (s.ctx 1 0).spr.inh = false ∧ (s.ctx 1 0).stopping = false ∧
      (s.terr (s.terrOf 1)).upcallEntry 0x20 = some 0x400 ∧ (s.ctx 1 0).mode ≠ .loc)
    ∧ (∀ x ∈ [0, 11], ((sSav x).core 1).live x = false ∧ (sSav x).works 1 = true ∧ (sSav x).draining 1 = false ∧ (sSav x).savedEntry 1 x = some 0 ∧
      ((kget ((sSav x).terr ((sSav x).terrOf 1)).saved 0).any fun v =>
        (Ctx.ofImage v.ctx (sSav x).now ((sSav x).gread 0 ((sSav x).entryAt 0 0 + 128) 512)).mode == .loc) = true ∧ (sSav x).terrOf 1 = 0) := by decide +kernel

/-- A request without storage; a read and a write of base memory; a read of GDDR7 that misses; a fill in flight; walks that succeed and fail; an invalidation. -/
theorem witness_SliceAndTranslationSteps :
    (∀ l, s0.crypt (s0.keyOf 0 0x7000) l = none)
    ∧ (∃ l, (sWalk 0x7000).walk 0 0 0x7000 = .ok l)
    ∧ (∃ f, (sWalk (2 ^ 47)).walk 0 0 (2 ^ 47) = .error f)
    ∧ (((sReq 0 8 (req (.read 4) (0x4000000000 + 8 * 2 ^ 21))).arriving 0).isSome = true ∧
      ((sReq 0 8 (req (.read 4) 0x4000000000)).arriving 0).isSome = true ∧
      ((sReq 0 8 (req (.write [(0x4000000000, 1), (0x4000000000 + 1, 2)] []) 0x4000000000)).arriving 0).isSome = true ∧
      ((sReq (homeOf 0x7000) 8 (req (.read 4) 0x7000)).arriving 0).isSome = true ∧
      ((net (msg (.core 0) (.cluster 0) 3 (.tinvb 0 20 0 0 0)) s0).arriving 0).isSome = true ∧
      ((sReq 0 8 (req (.read 4) (0x4000000000 + 8 * 2 ^ 21))).slice 0).blocks = [] ∧
      ((sReq 0 8 (req (.read 4) (0x4000000000 + 8 * 2 ^ 21))).slice 0).bypass = [] ∧
      ((sReq 0 8 (req (.read 4) 0x4000000000)).slice 0).blocks = [] ∧ ((sReq 0 8 (req (.read 4) 0x4000000000)).slice 0).bypass = [] ∧
      ((sReq 0 8 (req (.write [(0x4000000000, 1), (0x4000000000 + 1, 2)] []) 0x4000000000)).slice 0).blocks = [] ∧
      ((sReq 0 8 (req (.write [(0x4000000000, 1), (0x4000000000 + 1, 2)] []) 0x4000000000)).slice 0).bypass = [] ∧
      (sReq 0 8 (req (.read 4) (0x4000000000 + 8 * 2 ^ 21))).noStorage (0x4000000000 + 8 * 2 ^ 21) = true ∧ isBase 0x4000000000 = true ∧
      (sReq 0 8 (req (.read 4) 0x4000000000)).noStorage 0x4000000000 = false ∧
      (sReq 0 8 (req (.write [(0x4000000000, 1), (0x4000000000 + 1, 2)] []) 0x4000000000)).noStorage 0x4000000000 = false ∧
      ((sReq 0 8 (req (.read 4) 0x4000000000)).slice 0).weak = [] ∧
      (([(0x4000000000, 1), (0x4000000000 + 1, 2)] : List (Nat × Byte)).map (·.1)).Nodup ∧
      ((sReq (homeOf 0x7000) 8 (req (.read 4) 0x7000)).slice (homeOf 0x7000)).blocks = [] ∧
      ((sReq (homeOf 0x7000) 8 (req (.read 4) 0x7000)).slice (homeOf 0x7000)).bypass = [] ∧ isGddr 0x7000 = true ∧
      ((sReq (homeOf 0x7000) 8 (req (.read 4) 0x7000)).slice (homeOf 0x7000)).holds 0x7000 = none ∧
      ((sReq (homeOf 0x7000) 8 (req (.read 4) 0x7000)).slice (homeOf 0x7000)).victim 0 (setOf 0x7000) 0 = some 0)
    ∧ (((sReq (homeOf 0x7000) 8 (req (.read 4) 0x7000)).slice (homeOf 0x7000)).wayAt (setOf 0x7000) 0 = none ∧
      kget (sBlk.slice (homeOf 0x7000)).blocks 3 = some ⟨0x7000 / 128, 0, false, 0, 0, [req (.read 4) 0x7000], []⟩ ∧
      (sBlk.slice (homeOf 0x7000)).weak = [] ∧ sBlk.crypt 0 (0x7000 / 128) = none ∧ (req (.read 4) 0x7000).key = 0 ∧
      (req (.read 4) 0x7000).pa / 128 = 0x7000 / 128 ∧ 0x7000 % 128 + 4 ≤ 128 ∧ s0.disabled.contains 1 = false ∧
      ([1, 2] : List Byte) ≠ [] ∧ 0x7000 + ([1, 2] : List Byte).length ≤ 2 ^ 37 ∧
      ((sWalk (0x7000)).clus 0).walks[0]? = some ⟨0, 0x7000, 0, 0, [30]⟩ ∧ (sWalk (0x7000)).walking 0 ⟨0, 0x7000, 0, 0, [30]⟩ = true ∧
      ((sWalk (2 ^ 47)).clus 0).walks[0]? = some ⟨0, 2 ^ 47, 0, 0, [30]⟩ ∧ (sWalk (2 ^ 47)).walking 0 ⟨0, 2 ^ 47, 0, 0, [30]⟩ = true ∧
      ((sWalk (2 ^ 47)).terr 0).win.tmig.getLsbD 0 = false ∧ (sWalk (2 ^ 47)).waiters 0 ⟨0, 2 ^ 47, 0, 0, [30]⟩ = [(1, 0, 4 * 2 ^ 47)]) :=
  ⟨(fun _ => rfl), ⟨_, rfl⟩, ⟨_, rfl⟩, by decide +kernel, by decide +kernel⟩

/-- A read, a write and atomics of a line in its way, with a sound word and an uncorrectable one, and of base memory; a read that may take no way; a walk that
engine accesses share. -/
theorem witness_SliceAndTranslationSteps_2 :
    (∀ s ∈ ([sHit (.read 4) [], sHit (.write [(0x7000, 1), (0x7001, 2)] []) [], sHit (.atomic 0 4 0xFFFFFFFF 0) [], sHit (.atomic 3 4 5 0) [0x7000 / 8]] : List State),
      (s.arriving 0).isSome = true ∧ (s.slice (homeOf 0x7000)).blocks = [] ∧ (s.slice (homeOf 0x7000)).bypass = [] ∧
      (s.slice (homeOf 0x7000)).holds 0x7000 = some 3)
    ∧ (isGddr 0x7000 = true ∧ 0x7000 % 128 + 4 ≤ 128 ∧ ([0x7000, 0x7001] : List Nat).Nodup ∧ (0xFFFFFFFF : Nat) < 2 ^ (8 * 4) ∧
      (sHit (.atomic 0 4 0xFFFFFFFF 0) []).badIn 0x7000 4 = [] ∧ (sHit (.atomic 3 4 5 0) [0x7000 / 8]).badIn 0x7000 4 ≠ [])
    ∧ (∀ s ∈ ([sBase (.atomic 2 8 9 3) [], sBase (.atomic 6 4 5 0) [0x4000000000 / 8]] : List State),
      (s.arriving 0).isSome = true ∧ (s.slice 0).blocks = [] ∧ (s.slice 0).bypass = [] ∧ s.noStorage 0x4000000000 = false)
    ∧ (isBase 0x4000000000 = true ∧ (sBase (.atomic 6 4 5 0) [0x4000000000 / 8]).badIn 0x4000000000 4 ≠ [] ∧ (sNoWay.arriving 0).isSome = true ∧
      (sNoWay.slice (homeOf 0x7000)).blocks = [] ∧ (sNoWay.slice (homeOf 0x7000)).bypass = [] ∧ (sNoWay.slice (homeOf 0x7000)).holds 0x7000 = none ∧
      (sNoWay.slice (homeOf 0x7000)).victim 0 (setOf 0x7000) 1 = none ∧ sNoWay.crypt 0 (0x7000 / 128) = none)
    ∧ (((sWalk2 (2 ^ 47)).clus 0).walks[0]? = some ⟨0, 2 ^ 47, 0, 0, [30, 31]⟩ ∧ (sWalk2 (2 ^ 47)).walking 0 ⟨0, 2 ^ 47, 0, 0, [30, 31]⟩ = true ∧
      (sWalk2 (2 ^ 47)).waiters 0 ⟨0, 2 ^ 47, 0, 0, [30, 31]⟩ = [(1, 0, 4 * 2 ^ 47)]) := by decide +kernel

/-- A fault message for a ring with room, one that is full and one that is off; one that came back; each control packet with its object; a core to kill. -/
theorem witness_SupervisorSteps :
    (((sFm 1 0).arriving 0).isSome = true ∧ ((sFm 0 0).arriving 0).isSome = true ∧ ((sFm 1 2).arriving 0).isSome = true ∧
      wbit ((sFm 1 0).core 0).spr.fring 0 = true ∧
      (bits ((sFm 1 0).core 0).spr.fring 36 12 + 4096 - bits ((sFm 1 0).core 0).spr.fring 24 12) % 4096 < 2 ^ bits ((sFm 1 0).core 0).spr.fring 20 4 ∧
      ((sFm 1 0).core 0).live 0 = true ∧ wbit ((sFm 0 0).core 0).spr.fring 0 = false ∧
      2 ^ bits ((sFm 1 2).core 0).spr.fring 20 4 ≤ (bits ((sFm 1 2).core 0).spr.fring 36 12 + 4096 - bits ((sFm 1 2).core 0).spr.fring 24 12) % 4096 ∧
      sResend.net[0]? = some (msg (.core 0) (.core 1) 1 (.fault (List.replicate 32 1))) ∧ (100 : Nat) + 700 ≤ sResend.now ∧
      ((sCtl 0xFF000 sAside).arriving 0).isSome = true ∧ ((sCtl 0xFF008 sAside).arriving 0).isSome = true ∧
      ((sCtl 0xFF010 (runAs (.stopped .halted))).arriving 0).isSome = true ∧
      ((sCtl 0xFF018 (s0.setStat 1 { s0.stat 1 with fenced := true })).arriving 0).isSome = true ∧
      (sCtl 0xFF000 sAside).net = [⟨.core 0, .core 1, 3, none, none, .packet 20 (word 0xFF000) [0] false 0, 100, none, false, false⟩] ∧
      hdrMail (word 0xFF000) = false ∧ hdrDst (word 0xFF000) = 0xFF000 ∧
      (sCtl 0xFF000 sAside).controlRefusal ⟨.core 0, .core 1, 3, none, none, .packet 20 (word 0xFF000) [0] false 0, 100, none, false, false⟩ 1 0xFF000 = none ∧
      (sCtl 0xFF008 sAside).net = [⟨.core 0, .core 1, 3, none, none, .packet 20 (word 0xFF008) [0] false 0, 100, none, false, false⟩] ∧
      hdrMail (word 0xFF008) = false ∧ hdrDst (word 0xFF008) = 0xFF008 ∧
      (sCtl 0xFF008 sAside).controlRefusal ⟨.core 0, .core 1, 3, none, none, .packet 20 (word 0xFF008) [0] false 0, 100, none, false, false⟩ 1 0xFF008 = none)
    ∧ ((sCtl 0xFF010 (runAs (.stopped .halted))).net = [⟨.core 0, .core 1, 3, none, none, .packet 20 (word 0xFF010) [0] false 0, 100, none, false, false⟩] ∧
      hdrMail (word 0xFF010) = false ∧ hdrDst (word 0xFF010) = 0xFF010 ∧
      (sCtl 0xFF010 (runAs (.stopped .halted))).controlRefusal ⟨.core 0, .core 1, 3, none, none, .packet 20 (word 0xFF010) [0] false 0, 100, none, false, false⟩ 1 0xFF010 = none ∧
      (sCtl 0xFF018 (s0.setStat 1 { s0.stat 1 with fenced := true })).net = [⟨.core 0, .core 1, 3, none, none, .packet 20 (word 0xFF018) [0] false 0, 100, none, false, false⟩] ∧
      hdrMail (word 0xFF018) = false ∧ hdrDst (word 0xFF018) = 0xFF018 ∧
      (sCtl 0xFF018 (s0.setStat 1 { s0.stat 1 with fenced := true })).controlRefusal ⟨.core 0, .core 1, 3, none, none, .packet 20 (word 0xFF018) [0] false 0, 100, none, false, false⟩ 1 0xFF018 = none ∧
      (∃ a ∈ ((sCtl 0xFF000 sAside).core 1).aside.find? (fun e => e.fid == bits (0 : Word) 0 8), ∃ c ∈ a.cmd, ((sCtl 0xFF000 sAside).core 1).out c.uid = some ⟨20, 0, some 1, 1, false, false, false, none, none, false, false, false⟩) ∧
      (∃ a ∈ ((sCtl 0xFF008 sAside).core 1).aside.find? (fun e => e.fid == bits (0 : Word) 0 8), ∃ c ∈ a.cmd, ((sCtl 0xFF008 sAside).core 1).out c.uid = some ⟨20, 0, some 1, 1, false, false, false, none, none, false, false, false⟩) ∧
      ((sCtl 0xFF010 (runAs (.stopped .halted))).core 1).live 0 = true ∧
      ((sCtl 0xFF010 (runAs (.stopped .halted))).ctx 1 0).run = .stopped .halted ∧
      ((sCtl 0xFF018 (s0.setStat 1 { s0.stat 1 with fenced := true })).stat 1).fenced = true ∧
      ((sCtl 0xFF018 (s0.setStat 1 { s0.stat 1 with fenced := true })).core 1).live 0 = true ∧ s0.disabled.contains 1 = false) :=
  ⟨by decide +kernel, by decide +kernel⟩

/-- The fence of a core whose context stands stopped. -/
theorem witness_SupervisorSteps_2 :
    (sUnf.arriving 0).isSome = true ∧ sUnf.net = [⟨.core 0, .core 1, 3, none, none, .packet 20 (word 0xFF018) [0] false 0, 100, none, false, false⟩] ∧
    sUnf.controlRefusal ⟨.core 0, .core 1, 3, none, none, .packet 20 (word 0xFF018) [0] false 0, 100, none, false, false⟩ 1 0xFF018 = none ∧
    (sUnf.stat 1).fenced = true ∧ (sUnf.core 1).live 0 = true ∧ (sUnf.ctx 1 0).run = .stopped .saved := by decide +kernel

/-- A record to dispatch; a chosen record that starts, and one that goes back; helpers that drain, with and without a parent and of a task. -/
theorem witness_PowerAndTaskSteps :
    ((sDisp.clus 0).owner = some 0 ∧ sDisp.dispatches 0 = true ∧ sDisp.oldestHeld 0 0 = none ∧
      (sDisp.terr 0).slots = [(0, ⟨true, 0, 0, [rec5 0], 0⟩)] ∧ recPaired (record 5) = false ∧ recBarrier (record 5) = false ∧
      recCheck (record 5) = none ∧ (sDisp.clus 0).refused = [] ∧ sDisp.coreFor 0 (rec5 0) = some 1 ∧
      sDisp.fits 0 0 (recClass (record 5)) 1 = true ∧ (sCho false).power = true ∧ (sCho false).turns = .record 0 0 :: [] ∧
      ((sCho false).terr 0).chosen[0]? = some ⟨0, some 1, rec5 9, 40, 1⟩ ∧ (sCho true).power = true ∧
      (sCho true).turns = .record 0 0 :: [] ∧ ((sCho true).terr 0).chosen[0]? = some ⟨0, some 1, rec5 9, 40, 1⟩ ∧
      (sCho false).dispatches 0 = true ∧ (sCho false).startable 1 = true ∧ ((sCho false).core 1).slotsUsed < ((sCho false).core 1).slots ∧
      ((sCho false).core 1).helperFree 1 = true ∧ (sCho true).dispatches 0 = false ∧
      ((sCho true).terr 0).slotOf (recQueue (record 5)) = some 0)
    ∧ ((kget ((sCho true).terr 0).slots 0).isSome = true ∧ kget ((sEnd none none).core 1).ended 3 = some ⟨0, 0, none, false, none, h0⟩ ∧
      ((sEnd none none).core 1).pending 3 = false ∧ kget ((sEnd (some 0) none).core 1).ended 3 = some ⟨0, 0, (some 0), false, none, h0⟩ ∧
      ((sEnd (some 0) none).core 1).pending 3 = false ∧
      kget ((sEnd none (some ⟨true, record 5, some 0, false, none, 50, none⟩)).core 1).ended 3 = some ⟨0, 0, none, false, (some ⟨true, record 5, some 0, false, none, 50, none⟩), h0⟩ ∧
      ((sEnd none (some ⟨true, record 5, some 0, false, none, 50, none⟩)).core 1).pending 3 = false ∧
      (⟨true, record 5, some 0, false, none, 50, none⟩ : TaskInfo).own = true ∧ (110 : Nat) ≤ 110 ∧ (109 : Nat) < 110) :=
  ⟨by decide +kernel, by decide +kernel⟩

/-- A cluster that evaluates, with a candidate and without; a proposal that stands and one that falls; a cluster that drains, has drained and is scrubbed; a territory to pause. -/
theorem witness_MoveSteps :
    ((sDrift.clus 0).owner = some 0 ∧ pcEn sDrift.pcfg = true ∧ sDrift.now % 700 = 0 ∧
      sDrift.now / 700 % pcPer sDrift.pcfg = 0 % pcPer sDrift.pcfg ∧ sDrift.drifts 0 = true ∧ (sDrift.clus 0).move = none ∧
      (∀ j ∈ clusWindow 0, (sDrift.clus j).lock = none) ∧ sDrift.candidate 0 0 = some 4 ∧ (s0.clus 0).owner = some 0 ∧
      s0.candidate 0 0 = none ∧
      ((moving .proposed 4 0 [] [] (sPress sDrift)).clus 0).move = some ⟨.proposed, 4, 0, (moving .proposed 4 0 [] [] (sPress sDrift)).now, word (50 * 2 ^ 24), [], [], []⟩ ∧
      ((moving .proposed 4 0 [] [] (sPress sDrift)).drifts 4 && (moving .proposed 4 0 [] [] (sPress sDrift)).drifts 0 && !(moving .proposed 4 0 [] [] (sPress sDrift)).moorBusy 4 0 && !(moving .proposed 4 0 [] [] (sPress sDrift)).moorBusy 0 0 && ((moving .proposed 4 0 [] [] (sPress sDrift)).clus 0).owner == some 0 && (moving .proposed 4 0 [] [] (sPress sDrift)).mayAnnex 4 0 0 ((moving .proposed 4 0 [] [] (sPress sDrift)).pressure 4) ((moving .proposed 4 0 [] [] (sPress sDrift)).pressure 0)) = true ∧
      ((moving .proposed 4 0 [] [] (sPress sDrift)).terr 0).chosen = [] ∧
      ((moving .proposed 5 0 [] [] sDrift).clus 0).move = some ⟨.proposed, 5, 0, (moving .proposed 5 0 [] [] sDrift).now, word (50 * 2 ^ 24), [], [], []⟩ ∧
      (moving .proposed 5 0 [] [] sDrift).drifts 5 = false ∧ (∀ e ∈ (moving .proposed 5 0 [] [] sDrift).terrs, e.2.closing = false) ∧
      ((moving .draining 4 0 [] [] s0).clus 0).move = some ⟨.draining, 4, 0, s0.now, word (50 * 2 ^ 24), [], [], []⟩ ∧ clusOf 1 = 0 ∧
      (moving .draining 4 0 [] [] s0).plain 1 = true ∧ ([] : List Nat).contains 1 = false ∧
      (moving .draining 4 0 [] [] s0).now < s0.now + 700 * pcDl (word (50 * 2 ^ 24)) ∧
      ((moving .draining 4 0 [] [1] (oneOf { Core.reset 1 with ctxs := [] } 0)).clus 0).move = some ⟨.draining, 4, 0, s0.now, word (50 * 2 ^ 24), [], [1], []⟩)
    ∧ ((moving .draining 4 0 [] [1] (oneOf { Core.reset 1 with ctxs := [] } 0)).plain 1 = true ∧
      ((moving .draining 4 0 [] [1] (oneOf { Core.reset 1 with ctxs := [] } 0)).core 1).ctxs = [] ∧
      ((moving .draining 4 0 [] [1] (oneOf { Core.reset 1 with ctxs := [] } 0)).core 1).ended = [] ∧
      ((moving .draining 4 0 [] [1] (oneOf { Core.reset 1 with ctxs := [] } 0)).core 1).lines = [] ∧
      ((moving .draining 4 0 [] [1] (oneOf { Core.reset 1 with ctxs := [] } 0)).core 1).outs = [] ∧
      ((moving .draining 4 0 [] [1] (oneOf { Core.reset 1 with ctxs := [] } 0)).core 1).rx.spill = none ∧
      (({ moving .draining 4 0 [] [] (oneOf { Core.reset 1 with ctxs := [] } 0) with now := 100000 } : State).clus 0).move = some ⟨.draining, 4, 0, s0.now, word (50 * 2 ^ 24), [], [], []⟩ ∧
      ({ moving .draining 4 0 [] [] (oneOf { Core.reset 1 with ctxs := [] } 0) with now := 100000 } : State).plain 1 = true ∧
      (({ moving .draining 4 0 [] [] (oneOf { Core.reset 1 with ctxs := [] } 0) with now := 100000 } : State).core 1).ctxs = [] ∧
      (({ moving .draining 4 0 [] [] (oneOf { Core.reset 1 with ctxs := [] } 0) with now := 100000 } : State).core 1).ended = [] ∧
      (({ moving .draining 4 0 [] [] (oneOf { Core.reset 1 with ctxs := [] } 0) with now := 100000 } : State).core 1).lines = [] ∧
      (({ moving .draining 4 0 [] [] (oneOf { Core.reset 1 with ctxs := [] } 0) with now := 100000 } : State).core 1).outs = [] ∧
      (({ moving .draining 4 0 [] [] (oneOf { Core.reset 1 with ctxs := [] } 0) with now := 100000 } : State).core 1).rx.spill = none ∧
      s0.now + 700 * pcDl (word (50 * 2 ^ 24)) ≤ ({ moving .draining 4 0 [] [] (oneOf { Core.reset 1 with ctxs := [] } 0) with now := 100000 } : State).now ∧
      ((moving .draining 4 0 (coresOf 0) [] s0).clus 0).move = some ⟨.draining, 4, 0, s0.now, word (50 * 2 ^ 24), (coresOf 0), [], []⟩ ∧
      (∀ k ∈ coresOf 0, (moving .draining 4 0 (coresOf 0) [] s0).plain k = true → k ∈ coresOf 0) ∧
      ((moving .scrubbing 4 0 [] [] s0).clus 0).move = some ⟨.scrubbing, 4, 0, s0.now, word (50 * 2 ^ 24), [], [], []⟩ ∧
      ((moving .scrubbing 4 0 [] [] s0).terr 0).slots = [] ∧ (4 : Nat) ≠ 0 ∧
      (∀ e ∈ (moving .scrubbing 4 0 [] [] s0).terrs, e.2.closing = false) ∧ (sPause sDrift).tlive 4 = true ∧
      (sPause sDrift).clustersOf 4 = [1])
    ∧ (((sPause sDrift).terr 4).chosen = [] ∧
      (∀ c ∈ (sPause sDrift).clustersOf 4, ∀ k ∈ coresOf c, ((sPause sDrift).core k).ctxs = [] ∧ ((sPause sDrift).core k).lines = [] ∧ ((sPause sDrift).core k).rx.spill = none)) :=
  ⟨by decide +kernel, by decide +kernel, by decide +kernel⟩

/-- A move that ends with a save entry of its cores, with one that is free, and with one of another cluster's. -/
theorem witness_MoveSteps_2 :
    (∀ hd ∈ [1 + 1 * 2 ^ 16, 1 * 2 ^ 16, 1 + 20 * 2 ^ 16],
      ((sTrn hd).clus 0).move = some ⟨.scrubbing, 4, 0, s0.now, word (50 * 2 ^ 24), [], [], [0]⟩ ∧ (∀ e ∈ (sTrn hd).terrs, e.2.closing = false) ∧
      ((sTrn hd).terr 0).slots = [] ∧ (sTrn hd).entryHeader 0 0 = hd)
    ∧ clusOf ((1 + 1 * 2 ^ 16) / 2 ^ 16 % 4096) = 0 ∧ clusOf ((1 + 20 * 2 ^ 16) / 2 ^ 16 % 4096) ≠ 0 := by decide +kernel

/-- A write for each clause: launches that pass, fail, and place a core in a fifth group; a shutdown; slots mapped, unmapped and refused; and every register. -/
theorem witness_RegisterWrites :
    (((sWr 0x8120001000 8 (1 + 8 * 2 ^ 19 + 2 ^ 28 + 2 ^ 29) (diesUp 5)).tlive 1 = false ∧ ((sWr 0x8120001000 8 (1 + 8 * 2 ^ 19 + 2 ^ 28 + 2 ^ 29) (diesUp 5)).terr 1).closing = false ∧ ∀ c ∈ (sWr 0x8120001000 8 (1 + 8 * 2 ^ 19 + 2 ^ 28 + 2 ^ 29) (diesUp 5)).tinit 1, ((sWr 0x8120001000 8 (1 + 8 * 2 ^ 19 + 2 ^ 28 + 2 ^ 29) (diesUp 5)).clus c).lock = none) ∧
      ((sWr 0x8120001000 8 (7 + 8 * 2 ^ 19 + 2 ^ 28 + 2 ^ 29) sInit).tlive 1 = false ∧ ((sWr 0x8120001000 8 (7 + 8 * 2 ^ 19 + 2 ^ 28 + 2 ^ 29) sInit).terr 1).closing = false ∧ ∀ c ∈ (sWr 0x8120001000 8 (7 + 8 * 2 ^ 19 + 2 ^ 28 + 2 ^ 29) sInit).tinit 1, ((sWr 0x8120001000 8 (7 + 8 * 2 ^ 19 + 2 ^ 28 + 2 ^ 29) sInit).clus c).lock = none) ∧
      (∃ e ∈ (sWr 0x8120001000 8 (7 + 8 * 2 ^ 19 + 2 ^ 28 + 2 ^ 29) sInit).tcfgWrite 0, e.2.1 = 1 ∧ wbit e.2.2 29 = true ∧ (sWr 0x8120001000 8 (7 + 8 * 2 ^ 19 + 2 ^ 28 + 2 ^ 29) sInit).launchOk e.2.2 ((sWr 0x8120001000 8 (7 + 8 * 2 ^ 19 + 2 ^ 28 + 2 ^ 29) sInit).tinit 1) = false) ∧
      (∃ e ∈ (sWr 0x8120001000 8 (1 + 8 * 2 ^ 19 + 2 ^ 28 + 2 ^ 29) (diesUp 5)).tcfgWrite 0, e.2.1 = 1 ∧ wbit e.2.2 29 = true ∧ (sWr 0x8120001000 8 (1 + 8 * 2 ^ 19 + 2 ^ 28 + 2 ^ 29) (diesUp 5)).launchOk e.2.2 ((sWr 0x8120001000 8 (1 + 8 * 2 ^ 19 + 2 ^ 28 + 2 ^ 29) (diesUp 5)).tinit 1) = true ∧ ((sWr 0x8120001000 8 (1 + 8 * 2 ^ 19 + 2 ^ 28 + 2 ^ 29) (diesUp 5)).setWin 1 { ((sWr 0x8120001000 8 (1 + 8 * 2 ^ 19 + 2 ^ 28 + 2 ^ 29) (diesUp 5)).terr 1).win with tcfg := e.2.2 }).groupsOk 1 [] = true ∧ ((sWr 0x8120001000 8 (1 + 8 * 2 ^ 19 + 2 ^ 28 + 2 ^ 29) (diesUp 5)).setWin 1 { ((sWr 0x8120001000 8 (1 + 8 * 2 ^ 19 + 2 ^ 28 + 2 ^ 29) (diesUp 5)).terr 1).win with tcfg := e.2.2 }).groupsOk 1 ((List.range 5).map (fun i => (i, ([⟨0, 0, 1, 0⟩] : List Member)))) = false) ∧
      ((sWr 0x8120001000 8 (1 + 8 * 2 ^ 19 + 2 ^ 28 + 2 ^ 29) (diesUp 5)).terr 0).slots = [] ∧
      (sWr 0x8120001000 8 (1 + 8 * 2 ^ 19 + 2 ^ 28 + 2 ^ 29) (diesUp 5)).tinit 1 = [1] ∧
      (∃ e ∈ (sWr 0x8120001000 8 0 (sLive s0)).tcfgWrite 0, e.2.1 = 1 ∧ wbit e.2.2 29 = false) ∧
      (sWr 0x8120001000 8 0 (sLive s0)).tlive 1 = true ∧ (sWr 0x8120001000 8 0 (sLive s0)).clustersOf 1 = [1])
    ∧ ((∃ e ∈ (sWr 0x8120001100 8 (2 ^ 32 + 9) (sLive s0)).slotWrite 0, e.2 = (1, 0) ∧ wbit (word e.1.val) 32 = true ∧ (sWr 0x8120001100 8 (2 ^ 32 + 9) (sLive s0)).qcount 1 ≤ bits (word e.1.val) 0 16) ∧
      (∃ e ∈ (sWr 0x8120001100 8 (2 ^ 32) (sLive s0)).slotWrite 0, e.2 = (1, 0) ∧ wbit (word e.1.val) 32 = true ∧ bits (word e.1.val) 0 16 = 0) ∧
      0 < (sWr 0x8120001100 8 (2 ^ 32) (sLive s0)).qcount 1 ∧ ((sWr 0x8120001100 8 (2 ^ 32) (sLive s0)).terr 1).slotOf 0 = none ∧
      ((sWr 0x8120001100 8 (2 ^ 32) (sLive s0)).slot 1 0).mapped = false ∧
      (∀ i < min 1024 (qcbHeld ((sWr 0x8120001100 8 (2 ^ 32) (sLive s0)).qcb 1 0)), recCheck ((sWr 0x8120001100 8 (2 ^ 32) (sLive s0)).gread 1 (qcbRing ((sWr 0x8120001100 8 (2 ^ 32) (sLive s0)).qcb 1 0) + 64 * ((qcbHead ((sWr 0x8120001100 8 (2 ^ 32) (sLive s0)).qcb 1 0) + i) % 2 ^ qcbLg ((sWr 0x8120001100 8 (2 ^ 32) (sLive s0)).qcb 1 0))) 64) = none) ∧
      (∃ e ∈ (sWr 0x8120001100 8 (5 + 3 * 2 ^ 16) (sLive s0)).slotWrite 0, e.2 = (1, 0) ∧ wbit (word e.1.val) 32 = false) ∧
      (∃ e ∈ (sWr 0x8120001100 8 0 (sMapped 0)).slotWrite 0, e.2 = (1, 0) ∧ wbit (word e.1.val) 32 = false) ∧
      (∃ e ∈ (sWr 0x8120001100 8 0 (sMapped 2)).slotWrite 0, e.2 = (1, 0) ∧ wbit (word e.1.val) 32 = false) ∧
      ((sWr 0x8120001100 8 (5 + 3 * 2 ^ 16) (sLive s0)).slot 1 0).mapped = false ∧
      ((sWr 0x8120001100 8 0 (sMapped 0)).slot 1 0).mapped = true ∧ ((sWr 0x8120001100 8 0 (sMapped 2)).slot 1 0).mapped = true ∧
      qcbHeld ((sWr 0x8120001100 8 0 (sMapped 0)).qcb 1 0) + ((sWr 0x8120001100 8 0 (sMapped 0)).slot 1 0).recs.length ≤ 2 ^ qcbLg ((sWr 0x8120001100 8 0 (sMapped 0)).qcb 1 0) ∧
      2 ^ qcbLg ((sWr 0x8120001100 8 0 (sMapped 2)).qcb 1 0) < qcbHeld ((sWr 0x8120001100 8 0 (sMapped 2)).qcb 1 0) + ((sWr 0x8120001100 8 0 (sMapped 2)).slot 1 0).recs.length ∧
      (∃ r ∈ (sWr 0x8120001308 8 0 (sLive s0)).regWr 0, r.isToff = some 1))
    ∧ (((((sLive s0).terr 1).win.tlast.toNat : Int) ≤ ((sLive s0).io.tbase : Int) + (word 0).toInt) ∧
      (∃ r ∈ (sWr 0x8120001308 8 0 (sLate s0)).regWr 0, r.isToff = some 1) ∧
      ((sLate s0).io.tbase : Int) + (word 0).toInt < (((sLate s0).terr 1).win.tlast.toNat : Int) ∧
      (∃ r ∈ (sWr (0x8100200000 + 0x100) 4 5 sTeth).regWr 0, (sWr (0x8100200000 + 0x100) 4 5 sTeth).apWrite r = some (1, .istore 4 0x100)) ∧
      (∃ r ∈ (sWr (0x8100200000 + 0x100008) 4 5 sTeth).regWr 0, (sWr (0x8100200000 + 0x100008) 4 5 sTeth).apWrite r = some (1, .sstore 2)) ∧
      (∃ r ∈ (sWr (0x8100200000 + 0x8800) 4 0x3000 sTeth).regWr 0, (sWr (0x8100200000 + 0x8800) 4 0x3000 sTeth).apWrite r = some (1, .start 4) ∧ startOk (word r.val) = true ∧ wbit (word r.val) 31 = false) ∧
      (∃ r ∈ (sWr (0x8100200000 + 0x8800) 4 1 sTeth).regWr 0, (sWr (0x8100200000 + 0x8800) 4 1 sTeth).apWrite r = some (1, .start 4) ∧ startOk (word r.val) = false) ∧
      (∃ r ∈ (sWr (0x8100200000 + 0x110000) 4 0x21 sTeth).regWr 0, (sWr (0x8100200000 + 0x110000) 4 0x21 sTeth).apWrite r = some (1, .sgo) ∧ bits (word r.val) 18 14 = 0 ∧ bits (word r.val) 0 4 ≠ 0) ∧
      (∃ r ∈ (sWr (0x8100200000 + 0x110000) 4 0 sTeth).regWr 0, (sWr (0x8100200000 + 0x110000) 4 0 sTeth).apWrite r = some (1, .sgo) ∧ bits (word r.val) 0 4 = 0) ∧
      (∃ r ∈ (sWr (0x8100200000 + 0x110004) 4 0 sTeth).regWr 0, (sWr (0x8100200000 + 0x110004) 4 0 sTeth).apWrite r = some (1, .tdone) ∧ r.val % 2 ^ 32 = 0) ∧
      (∃ r ∈ (sWr (0x8100200000 + 0x110004) 4 1 sTeth).regWr 0, (sWr (0x8100200000 + 0x110004) 4 1 sTeth).apWrite r = some (1, .tdone) ∧ r.val % 2 ^ 32 ≠ 0) ∧
      ((sWr (0x8100200000 + 0x110000) 4 0x21 sTeth).clus 1).head.running = false ∧
      (∃ r ∈ (sWr 0x8000000202 2 5 s0).regWr 0, r.isWmask = some (0, 1)))
    ∧ ((∃ r ∈ (sWr 0x8000000000 8 4 s0).regWr 0, r.isScfg = some 0 ∧ r.val % 32 = 4) ∧
      (∃ r ∈ (sWr 0x8000000000 8 3 s0).regWr 0, r.isScfg = some 0 ∧ r.val % 4 ≠ 0) ∧ (s0.slice 0).blocks = [] ∧ (s0.slice 0).bypass = [] ∧
      (s0.slice 0).ways = [] ∧ (s0.slice 0).lock = false ∧
      (∃ r ∈ (sWr 0x8000000000 8 4 ({ s0 with slices := [(0, { CacheSlice.reset with lock := true })] } : State)).regWr 0, r.isScfg = some 0) ∧
      (({ s0 with slices := [(0, { CacheSlice.reset with lock := true })] } : State).slice 0).lock = true ∧
      (({ s0 with slices := [(0, { CacheSlice.reset with lock := true })] } : State).slice 0).blocks = [] ∧
      (({ s0 with slices := [(0, { CacheSlice.reset with lock := true })] } : State).slice 0).bypass = [] ∧
      (∃ r ∈ (sWr (0x8004000000 + 0x10002) 2 0x8003 s0).regWr 0, r.isRoute = some 1) ∧ ((kget s0.io.route 1).getD 0).getLsbD 15 = false ∧
      (∃ r ∈ (sWr (0x8004000000 + 0x1100) 8 7 s0).regWr 0, r.isPkgid = true) ∧
      (∃ r ∈ (sWr (0x8004000000 + 0x1100) 8 7 ({ s0 with io := { s0.io with pkgWritten := true } } : State)).regWr 0, r.isPkgid = true) ∧
      s0.io.pkgWritten = false ∧ ({ s0 with io := { s0.io with pkgWritten := true } } : State).io.pkgWritten = true)
    ∧ ((∃ r ∈ (sWr 0x8000040008 8 0x21 s0).regWr 0, r.sliceReg = none ∧ r.aperture = none ∧ r.ioReg = none ∧ r.crectReg = some 1 ∧ wbit (word r.val) 32 = false) ∧
      (∃ r ∈ (sWr (0x8004000000 + 0x100) 8 3 s0).regWr 0, r.sliceReg = none ∧ r.aperture = none ∧ r.crectReg = none ∧ r.ioReg = some 0x100 ∧ r.isRoute = none ∧ r.isPkgid = false ∧ ((sWr (0x8004000000 + 0x100) 8 3 s0).io.write 0x100 r.n r.val).isSome = true) ∧
      (∃ r ∈ (sWr (0x8004000000 + 0x104) 8 3 s0).regWr 0, r.sliceReg = none ∧ r.aperture = none ∧ r.crectReg = none ∧ r.ioReg = some 0x104 ∧ r.isRoute = none ∧ r.isPkgid = false ∧ (sWr (0x8004000000 + 0x104) 8 3 s0).io.write 0x104 r.n r.val = none))
    ∧ ((∃ r ∈ (sWr 0x8120001008 8 3 s0).regWr 0, r.sliceReg = none ∧ r.aperture = none ∧ r.crectReg = none ∧ r.ioReg = none ∧ r.window = some (1, 8)) ∧
      (∃ r ∈ (sWr 0x8120001ff8 8 3 s0).regWr 0, r.sliceReg = none ∧ r.aperture = none ∧ r.crectReg = none ∧ r.ioReg = none ∧ r.window = none)) :=
  ⟨by decide +kernel, by decide +kernel, by decide +kernel, by decide +kernel, by decide +kernel, by decide +kernel⟩

/-- The aperture of a cluster that is not tethered; the slots of queues for which no message being written will post. -/
theorem witness_RegisterWrites_2 :
    (∃ r ∈ (sWr (0x8100200000 + 0x110004) 4 0 s0).regWr 0, r.aperture = some (1, 0x110004) ∧ ((sWr (0x8100200000 + 0x110004) 4 0 s0).clus 1).tether = false)
    ∧ (sWr 0x8120001100 8 (2 ^ 32) (sLive s0)).landingsOf 1 0 = 0 ∧ (sWr 0x8120001100 8 0 (sMapped 2)).landingsOf 1 0 = 0 := by decide +kernel

/-- Frames that TFAB admits and refuses; a frame before and after its timeout; ports, a mailbox that takes a frame of one chunk or two, a frame's last chunk, images, stages of the boot and errors as each clause asks. -/
theorem witness_OutsideSteps :
    (((sFab 0x10007).arriving 0).isSome = true ∧ ((sFab 7).arriving 0).isSome = true ∧ ((sFab 0x10008).arriving 0).isSome = true ∧
      (fabMsg (.port 2) (.port 3)).body.uid? = some 20 ∧ (fabMsg (.port 2) (.port 3)).fab.map (·.here) = some 1 ∧
      (fabMsg (.port 2) (.port 3)).fab.map (·.tag) = some 7 ∧ isSup 1 = false ∧ (sFab 0x10007).net = [(fabMsg (.port 2) (.port 3))] ∧
      (sFab 0x10007).disabled.contains 1 = false ∧ ((sFab 0x10007).stat 1).killed = false ∧ ((sFab 0x10007).stat 1).fenced = false ∧
      (sFab 0x10007).tagOf 1 = some 0 ∧ (sFab 7).net = [(fabMsg (.port 2) (.port 3))] ∧ (sFab 7).disabled.contains 1 = false ∧
      ((sFab 7).stat 1).killed = false ∧ ((sFab 7).stat 1).fenced = false ∧ (sFab 7).tagOf 1 = some 0 ∧
      (sFab 0x10008).net = [(fabMsg (.port 2) (.port 3))] ∧ (sFab 0x10008).disabled.contains 1 = false ∧
      ((sFab 0x10008).stat 1).killed = false ∧ ((sFab 0x10008).stat 1).fenced = false ∧ (sFab 0x10008).tagOf 1 = some 0)
    ∧ (wbit ((sFab 0x10007).terr 0).win.tfab 16 = true ∧ bits ((sFab 0x10007).terr 0).win.tfab 0 16 = 7 ∧
      wbit ((sFab 7).terr 0).win.tfab 16 = false ∧ bits ((sFab 7).terr 0).win.tfab 0 16 = 7 ∧
      wbit ((sFab 0x10008).terr 0).win.tfab 16 = true ∧ bits ((sFab 0x10008).terr 0).win.tfab 0 16 = 8 ∧
      (sFout 700100).net[0]? = some (fabMsg (.core 1) (.port 2)) ∧ (sFout 5000).net[0]? = some (fabMsg (.core 1) (.port 2)) ∧
      (100 : Nat) + 700000 ≤ (sFout 700100).now ∧ (sFout 5000).now < 100 + 700000 ∧ bits (s0.io.fpcfg.toList.getD 3 0) 0 2 ≠ 2 ∧
      bits (sIng.io.fpcfg.toList.getD 3 0) 0 2 = 2 ∧ sIng.works (bits (sIng.io.fpcfg.toList.getD 3 0) 8 12) = false ∧
      64 ≤ (List.replicate 64 (0 : Byte)).length ∧ ((3 : Int).natAbs ≤ 10000 * 500 / 1000000) ∧
      2 ≤ ({ s0 with io := { s0.io with bring := 2 } } : State).io.bring ∧
      (({ s0 with io := { s0.io with bring := 2 } } : State).core (supOf 0)).live 0 = false ∧ (0x100 : Nat) % 4 = 0 ∧
      (0x101 : Nat) % 4 ≠ 0 ∧ ({ s0 with io := { s0.io with bring := 1 } } : State).io.bring ≤ 1 ∧
      ({ s0 with io := { s0.io with bring := 1 } } : State).io.bring = 1 ∧
      1 < ({ s0 with io := { s0.io with bring := 2 } } : State).io.bring)
    ∧ (({ s0 with io := { s0.io with bring := 2 } } : State).io.bring ≠ 1 ∧ (diesUp 2).io.bring = 2 ∧ (diesUp 2).diesUp = true ∧
      ({ s0 with io := { s0.io with bring := 2 } } : State).diesUp = false ∧ s0.disabled.contains 1 = false ∧ (0x5FFFF : Nat) < 0x60000 ∧
      (31 : Reg) ≠ 0 ∧ (s0.core 1).live 0 = true ∧ isGddr 0x7000 = true ∧ (sQ.core 1).live 0 = true ∧ 1 < (sQ.ctx 1 0).qs.length)
    ∧ (bits sIngR.io.fpcfg[3] 0 2 = 2 ∧ bits sIngR.io.fpcfg[3] 8 12 = 1 ∧ bits sIngR.io.fpcfg[3] 20 20 = 0x1000 ∧
      sIngR.tagOf 1 = some (bits sIngR.io.fpcfg[3] 40 8) ∧ sIngR.works 1 = true ∧ (sIngR.core 1).mboxAt 0x1000 = true ∧
      (sIngR.core 1).poisoned 0x1000 64 = false ∧ (sIngR.core 1).mboxMalformed ((sIngR.core 1).mbox 0x1000) = false ∧
      ((sIngR.core 1).mbox 0x1000).edge = false ∧ ((sIngR.core 1).mbox 0x1000).isOpen = true ∧ frame180.length = 180 ∧
      (frame180.take 100).length = 100 ∧ 2 ≤ ((sIngR.core 1).mbox 0x1000).slots ∧
      (∀ j < 2, ((sIngR.core 1).mbox 0x1000).fresh ((((sIngR.core 1).mbox 0x1000).tail + j) % ((sIngR.core 1).mbox 0x1000).slots) = false) ∧
      ((sIngR.core 1).mbox 0x1000).bar = 0 ∧ ((sIngR.core 1).mbox 0x1000).task = 0xFFFF ∧ 0x1000 + 64 ≤ ((sIngR.core 1).mbox 0x1000).slotAt 0)
    ∧ (sChunk.power = true ∧ sChunk.turns = [.chunk 3] ∧ (sChunk.io.inbound.find? (fun i => i.port == 3)) = sChunk.io.inbound.head? ∧
      sChunk.works 1 = true ∧ sChunk.tagOf 1 = some 0 ∧ ((sChunk.core 1).mbox 0x1000).bar = 0 ∧ ((sChunk.core 1).mbox 0x1000).task = 0xFFFF ∧
      (0 + 1) % ((sChunk.core 1).mbox 0x1000).slots = 1 ∧ 0x1000 + 64 ≤ ((sChunk.core 1).mbox 0x1000).slotAt 1) :=
  ⟨by decide +kernel, by decide +kernel, by decide +kernel, by decide +kernel, by decide +kernel⟩

/-- Frames at ports in fabric mode and not; a frame that an ingress port writes, at each stage, whose chunk is its last or not, whose mailbox has a
barrier or names a task, and whose core no longer works or has its data channel wait; the operating system's writes. -/
theorem witness_OutsideSteps_2 :
    ((sFab 7).fabricMode 2 = false ∧ (fabOn (sFab 7)).fabricMode 2 = true ∧ (fabOn (sFab 0x10007)).fabricMode 2 = true ∧
      ((fabOn (sFab 7)).arriving 0).isSome = true ∧ ((fabOn (sFab 0x10007)).arriving 0).isSome = true ∧
      (fabOn (sFab 0x10007)).tagOf 1 = some 0 ∧ wbit ((fabOn (sFab 0x10007)).terr 0).win.tfab 16 = true)
    ∧ (∀ s ∈ [sChunk, sChunkHeld, sChunkAt 0 [(0x20D0, [1, 2])], sChunkAt 0 [(0x20D0, [1]), (0x2100, [1])], sChunkAt 1 [], sChunkAt 2 [], sChunkBar,
        sChunkMore, sChunkAt 3 [], sChunkTask 3, sChunkTask 4],
      s.power = true ∧ s.turns = [.chunk 3] ∧ s.works 1 = true ∧ s.tagOf 1 = some 0 ∧ s.io.inbound.map (·.core) = [1] ∧ s.io.inbound.map (·.terr) = [0])
    ∧ sChunkOff.works 1 = false ∧ (sChunkHeld.core 1).dataBlocked = true
    ∧ (∀ g ∈ [0, 1, 2, 3], ((sChunkAt g []).core 1).dataBlocked = false ∧ ((sChunkAt g []).core 1).lands 0x1000 = false
      ∧ (sChunkAt g []).io.inbound.map (fun i => (i.stage, decide (i.next + 1 < i.chunks))) = [(g, false)])
    ∧ (((sChunkAt 1 []).core 1).mbox 0x1000).edge = false ∧ ((sChunkAt 1 []).core 1).mboxAt 0x1000 = true
    ∧ sChunkMore.io.inbound.map (fun i => (i.stage, decide (i.next + 1 < i.chunks))) = [(2, true)] ∧ ((sChunkBar.core 1).mbox 0x1000).bar ≠ 0
    ∧ ((sChunkTask 3).core 1).mboxAt 0x1000 = true ∧ (((sChunkTask 3).core 1).mbox 0x1000).task ≠ 0xFFFF ∧ (((sChunkTask 3).core 1).mbox 0x1000).pend = false
    ∧ (sChunkTask 4).io.inbound.map (fun i => (i.stage, ((sChunkTask 4).ingressRec i).2)) = [(4, true)]
    ∧ (windowOf 0x8120001008).isSome = true ∧ windowOf 0x9000000000 = none ∧ windowOf 0x8004000100 = none
    ∧ ({ s0 with turns := [.os 0x9000000000 8 3] } : State).power = true := by decide +kernel

/-- R370, Table 22.5: the last chunk of a frame of 180 B, as its slot will hold it: sequence, length, chunk and count, port with last, the box, and its 4 bytes. -/
theorem test_chunk : (match step sChunk with
    | .next t => t.io.inbound.map (fun i => (i.todo.flatMap (·.2)).take 21) == [leBytes 4 7 ++ leBytes 2 180 ++ [1, 2, 0x33] ++ leBytes 3 0 ++ leBytes 4 0x1000 ++ [2, 3, 4, 5, 0]]
        && (t.io.inbound.flatMap (fun i => i.todo.map (·.1))).take 1 == [0x20D0]
    | _ => false) = true := by decide +kernel

/-- The current core's turn, with the word in the store and fetched ahead, one that completes and one that waits; a listed turn; a step beside the words; a word to fetch ahead; time that passes. -/
theorem witness_StepRunsDecoded :
    (({ sStep with turns := [.event .bucketRefill] } : State).turns = .event .bucketRefill :: [] ∧ encodeNat .bucketRefill = none)
    ∧ (sStep.power = true ∧ sStep.turns = [] ∧ sStep.cur.1 = 1 ∧ (sStep.stat 1).fenced = false ∧ (sStep.stat 1).killed = false ∧
      sStep.disabled.contains 1 = false ∧ (∀ e ∈ (sStep.core 1).ctxs, e.2.task.any (·.diverged) = false) ∧
      (sStep.core 1).order (({ sStep with turns := [], now := sStep.now + 1 } : State).cyc 1) = [] ++ 0 :: ((sStep.core 1).order (({ sStep with turns := [], now := sStep.now + 1 } : State).cyc 1)).drop 1 ∧
      (∃ h ∈ kget (sStep.core 1).ctxs 0, h.run = .running ∧ h.halting = false ∧ h.mode = .loc ∧ h.rep = none ∧ h.yld = false ∧ h.failedLoad = none ∧ h.task.bind (·.pair) = none ∧ h.pc = 0x100) ∧
      (sStep.setCx { sStep.cx with ahead := [(0x100, 0x04A0BDEF, false)] }).power = true ∧
      (sStep.setCx { sStep.cx with ahead := [(0x100, 0x04A0BDEF, false)] }).turns = [] ∧
      (sStep.setCx { sStep.cx with ahead := [(0x100, 0x04A0BDEF, false)] }).cur.1 = 1 ∧
      ((sStep.setCx { sStep.cx with ahead := [(0x100, 0x04A0BDEF, false)] }).stat 1).fenced = false ∧
      ((sStep.setCx { sStep.cx with ahead := [(0x100, 0x04A0BDEF, false)] }).stat 1).killed = false ∧
      (sStep.setCx { sStep.cx with ahead := [(0x100, 0x04A0BDEF, false)] }).disabled.contains 1 = false)
    ∧ ((∀ e ∈ ((sStep.setCx { sStep.cx with ahead := [(0x100, 0x04A0BDEF, false)] }).core 1).ctxs, e.2.task.any (·.diverged) = false) ∧
      ((sStep.setCx { sStep.cx with ahead := [(0x100, 0x04A0BDEF, false)] }).core 1).order (({ (sStep.setCx { sStep.cx with ahead := [(0x100, 0x04A0BDEF, false)] }) with turns := [], now := (sStep.setCx { sStep.cx with ahead := [(0x100, 0x04A0BDEF, false)] }).now + 1 } : State).cyc 1) = [] ++ 0 :: (((sStep.setCx { sStep.cx with ahead := [(0x100, 0x04A0BDEF, false)] }).core 1).order (({ (sStep.setCx { sStep.cx with ahead := [(0x100, 0x04A0BDEF, false)] }) with turns := [], now := (sStep.setCx { sStep.cx with ahead := [(0x100, 0x04A0BDEF, false)] }).now + 1 } : State).cyc 1)).drop 1 ∧
      (∃ h ∈ kget ((sStep.setCx { sStep.cx with ahead := [(0x100, 0x04A0BDEF, false)] }).core 1).ctxs 0, h.run = .running ∧ h.halting = false ∧ h.mode = .loc ∧ h.rep = none ∧ h.yld = false ∧ h.failedLoad = none ∧ h.task.bind (·.pair) = none ∧ h.pc = 0x100) ∧
      sEmp.power = true ∧ sEmp.turns = [] ∧ sEmp.cur.1 = 1 ∧ (sEmp.stat 1).fenced = false ∧ (sEmp.stat 1).killed = false ∧
      sEmp.disabled.contains 1 = false ∧ (∀ e ∈ (sEmp.core 1).ctxs, e.2.task.any (·.diverged) = false) ∧
      (sEmp.core 1).order (({ sEmp with turns := [], now := sEmp.now + 1 } : State).cyc 1) = [] ++ 0 :: ((sEmp.core 1).order (({ sEmp with turns := [], now := sEmp.now + 1 } : State).cyc 1)).drop 1)
    ∧ ((∃ h ∈ kget (sEmp.core 1).ctxs 0, h.run = .running ∧ h.halting = false ∧ h.mode = .loc ∧ h.rep = none ∧ h.yld = false ∧ h.failedLoad = none ∧ h.task.bind (·.pair) = none ∧ h.pc = 0x100) ∧
      kget (sStep.ctx 1 0).ahead 0x100 = none ∧ (sStep.core 1).ibad.contains (0x100 / 4) = false ∧
      BitVec.ofNat 32 (mnat (sStep.core 1).istore 0x100 4) = 0x04A0BDEF#32 ∧
      kget ((sStep.setCx { sStep.cx with ahead := [(0x100, 0x04A0BDEF, false)] }).ctx 1 0).ahead 0x100 = some (0x04A0BDEF#32, false) ∧
      decode 0x04A0BDEF#32 = some (.ldi 5 0xDEF) ∧ BitVec.ofNat 32 (mnat (sEmp.core 1).istore 0x100 4) = wdEmp ∧
      decode wdEmp = some (.add 3 1 2 false) ∧
      (match exec (.ldi 5 0xDEF) (({ sStep with now := sStep.now + 1 } : State).at 1 0) with | .next t => (({ sStep with now := sStep.now + 1 } : State).passed t 1 0) == false | _ => false) = true ∧
      (match exec (.add 3 1 2 false) (({ sEmp with now := sEmp.now + 1 } : State).at 1 0) with | .next t => ({ sEmp with now := sEmp.now + 1 } : State).passed t 1 0 | _ => false) = true ∧
      ({ sStep with turns := [.core 1] } : State).turns = .core 1 :: [] ∧
      ({ sStep with turns := [.wait 3] } : State).turns = .wait 3 :: [] ∧ ({ sStep with power := false } : State).power = false ∧
      ({ sStep with turns := [.ahead 1 0] } : State).turns = .ahead 1 0 :: [] ∧ sStep.works 1 = true)
    ∧ ((sStep.core 1).live 0 = true ∧ (sStep.ctx 1 0).mode = .loc ∧ (sStep.ctx 1 0).going = true ∧ (sStep.ctx 1 0).ahead = [] ∧
      (sStep.ctx 1 0).pc < 0x8000) :=
  ⟨⟨rfl, rfl⟩, by decide +kernel, by decide +kernel, by decide +kernel, by decide +kernel⟩

/-- The turns of steps that are no word's: a frame at a fabric port, the record that was chosen, the head of a bypass queue, a unit's grant, a chunk
of a frame, the operating system's write. -/
theorem witness_StepRunsDecoded_2 :
    (∀ u ∈ [Turn.wire 3 2 ⟨3, 9, 1, 7⟩ (.ack 3 20), .record 0 0, .bypass 0 0, .grant 1 .push 0 0 false, .chunk 3, .os 0x8120001008 8 3],
      ({ sStep with turns := [u] } : State).turns = u :: []) ∧ sStep.power = true := by decide +kernel

/-! ### Small steps. Expected values are worked out by hand from the rule each test names. -/

/-- The state that a word answers. -/
def after (i : Instr) (s : State) : State := match exec i s with | .next t => t | _ => s

/-- R107: a sum wraps. -/
theorem test_add_wraps : (after (.add 3 7 9 false) s0).cx.reg 3 = 0 := by decide +kernel
/-- R38: a consuming read empties its source and the destination keeps its value when both are one register. -/
theorem test_take_empties : (after (.add 3 1 2 true) s0).cx.isFull 1 = false ∧ (after (.add 1 1 2 true) s0).cx.reg 1 = 0x1005 := by decide +kernel
/-- Table 6.2: the most negative dividend over −1 gives itself, with remainder 0; a shift takes its amount modulo 64. -/
theorem test_div_corner :
    let s := on (put [(1, 0x8000000000000000), (2, 0xFFFFFFFFFFFFFFFF), (3, 65)] h0)
    (after (.divs 4 1 2 false) s).cx.reg 4 = 0x8000000000000000 ∧ (after (.rems 4 1 2 false) s).cx.reg 4 = 0
      ∧ (after (.shl 4 2 3 false) s).cx.reg 4 = 0xFFFFFFFFFFFFFFFE := by decide +kernel
/-- R46's example: HIMM 0x2789ABC, HIMM 0x48D15, LDI 0xDEF. -/
theorem test_ldi_two_himm :
    let s := on { h0 with latch := { Latch.empty with imx := 2, mid := 0x2789ABC, hi := 0x48D15 } }
    (after (.ldi 5 0xDEF) s).cx.reg 5 = 0x0123456789ABCDEF := by decide +kernel
/-- R138: a sign-extended little-endian word. -/
theorem test_ld_sign : (after (.ld 5 1 2 true 0 0) sM).cx.reg 5 = 0xFFFFFFFF84030281 := by decide +kernel
/-- R139: a byte stored over one of the word. -/
theorem test_st_byte : mread (after (.st 2 1 0 0 2) sM).me.lmem 0x1000 4 = [0x81, 2, 5, 0x84] := by decide +kernel
/-- R140: AADD of a word returns the old value, sign-extended. -/
theorem test_aadd : (after (.aadd 4 1 2 2 0) sM).cx.reg 4 = 0xFFFFFFFF84030281 ∧ mread (after (.aadd 4 1 2 2 0) sM).me.lmem 0x1000 4 = [0x86, 2, 3, 0x84] := by
  decide +kernel
/-- R113: CALL leaves the next address in g31. -/
theorem test_call : (after (.call 4) s0).cx.pc = 0x110 ∧ (after (.call 4) s0).cx.reg 31 = 0x104 := by decide +kernel
/-- R89, R128: a misaligned load traps to TVEC with its address. -/
theorem test_trap_entry :
    let t := after (.ld 5 2 2 false 0 0) sT
    t.cx.pc = 0x400 ∧ t.cx.spr.ecause = 0x03 ∧ t.cx.spr.eval = 5 ∧ t.cx.spr.epc = 0x100 ∧ t.cx.spr.inh = true := by decide +kernel
/-- R89: ERET goes back to EPC with the saved latch. -/
theorem test_eret : (after .eret sIn).cx.pc = 0x180 ∧ (after .eret sIn).cx.latch.imx = 1 ∧ (after .eret sIn).cx.spr.inh = false := by decide +kernel
/-- R33: one step fetches and runs LDI g5, 0xDEF, whose immediate is negative. -/
theorem test_step_runs :
    (match step sStep with | .next t => t.cx.reg 5 == 0xFFFFFFFFFFFFFDEF && t.cx.pc == 0x104 | _ => false) = true := by decide +kernel
/-- Table 1.1: E4M3's largest value is 448. -/
theorem test_formats : (fF32.round false (fE4M3.dec 0x7E)).1 = 0x43E00000 := by decide +kernel
/-- R26: 1.0 + 2⁻²⁴ is a tie and rounds to the even 1.0; 1.0 · 1.0 + 1.0 is 2.0. -/
theorem test_round_ties : f32add 0x3F800000 0x33800000 = 0x3F800000 ∧ f32fma 0x3F800000 0x3F800000 0x3F800000 = 0x40000000 := by decide +kernel
/-- R78: the CRC-32 of the nine bytes 31H to 39H is CBF43926H (the standard polynomial's check value). -/
theorem test_crc32 : crc32 [0x31, 0x32, 0x33, 0x34, 0x35, 0x36, 0x37, 0x38, 0x39] = 0xCBF43926 := by decide +kernel
/-- Right after reset the memories are canonical, and the reset state meets the hypotheses of `StepKeepsMemories`: its first step is one. -/
theorem witness_StepKeepsMemories : State.reset.memOk ∧ ∃ t, step State.reset = .next t := by
  refine ⟨⟨rfl, fun e he => ?_⟩, ⟨_, rfl⟩⟩
  cases he
/-- A well-formed word with every field in use. -/
theorem witness_EncodeDecodeRoundTrip :
    Instr.wf (.madd 31 1 2 true 3) = true ∧ (∀ v, Instr.madd 31 1 2 true 3 ≠ .illegalWord v) ∧ encode (.madd 31 1 2 true 3) = some 0x03E11783#32 :=
  ⟨by decide +kernel, (fun v h => by cases h), by decide +kernel⟩

end Sys2Proof.Tests
end

section
/-! Proofs of the statements about number formats and the K-step (R26 to R28): rounding to F32 gives 32 bits, a matrix command that
ends settles its token, and a K-step of an MMA alone in its row writes the rows of its own core's columns. -/

namespace Sys2Proof.Machine

/-! ### What rounding to F32 gives fits in 32 bits (R21) -/

/-- A rounded integer mantissa has at most `n` bits, or is their power of two, when the quantum lies less than `n` below the
value's top bit. -/
theorem rneAt_le {m n : Nat} {e q : Int} (h : m.log2 + e - q < n) (sticky : Bool) : (rneAt m e q sticky).1 ≤ 2 ^ n := by
  have hm : m < 2 ^ (m.log2 + 1) := Nat.lt_log2_self
  unfold rneAt
  split
  · calc m * 2 ^ (e - q).toNat ≤ 2 ^ (m.log2 + 1) * 2 ^ (e - q).toNat := Nat.mul_le_mul_right _ (Nat.le_of_lt hm)
      _ = 2 ^ (m.log2 + 1 + (e - q).toNat) := (Nat.pow_add ..).symm
      _ ≤ 2 ^ n := Nat.pow_le_pow_right (by decide) (by omega)
  · dsimp only
    split
    · exact Nat.zero_le _
    · have : m / 2 ^ (q - e).toNat < 2 ^ n := by
        apply Nat.div_lt_of_lt_mul
        rw [← Nat.pow_add]
        exact Nat.lt_of_lt_of_le hm (Nat.pow_le_pow_right (by decide) (by omega))
      dsimp only
      split <;> omega

theorem fF32_sign_le (s : Bool) : fF32.sign s ≤ 2 ^ 31 := by cases s <;> decide
theorem fF32_infinity_lt (s : Bool) : fF32.infinity s < 2 ^ 32 := by cases s <;> decide

theorem fF32_pack_lt (s : Bool) {m : Nat} {q : Int} (hm : m ≤ 2 ^ 24) (hq : 2 ^ 23 ≤ m → q ≤ 104) : fF32.pack s m q < 2 ^ 32 := by
  have hs := fF32_sign_le s
  unfold FFmt.pack
  rw [show fF32.mb = 23 from rfl, show fF32.bias = 127 from rfl]
  dsimp only
  split
  · split <;> omega
  · split <;> omega

/-- A value that has not overflowed is packed at F32's smallest quantum or at its own, which is at most 104
because its top bit is at most 127. -/
theorem fF32_round_fin_lt (s : Bool) (m : Nat) (e : Int) : (fF32.round false (.fin s m e)).1 < 2 ^ 32 := by
  have hs := fF32_sign_le s
  unfold FFmt.round
  dsimp only
  split
  · dsimp only; omega
  · simp only [show fF32.mb = 23 from rfl, show fF32.bias = 127 from rfl, show fF32.big.2 = 104 from by decide +kernel,
      show fF32.hasInf = true from rfl]
    split
    · exact fF32_infinity_lt s
    next fits =>
      have near : m.log2 + e - quantum 24 m e < (24 : Nat) := by unfold quantum; omega
      simp only [Bool.or_eq_true, decide_eq_true_eq, not_or] at fits
      generalize quantum 24 m e = q at near fits ⊢
      refine fF32_pack_lt s (rneAt_le (n := 24) (by omega) false) fun large => ?_
      obtain hq | hq := Int.le_total q (1 - (127 : Nat) - (23 : Nat))
      · omega
      · rw [Int.max_eq_left hq] at large ⊢
        have top : 23 ≤ (rneAt m e q false).1.log2 := (Nat.le_log2 (by omega)).mpr large
        omega

theorem toF32_lt (v : Num) : toF32 v < 2 ^ 32 := by
  cases v with
  | nan => decide
  | inf s => exact fF32_infinity_lt s
  | fin s m e => exact fF32_round_fin_lt s m e

theorem kstep_lt (i32 : Bool) (acc : Nat) (as bs : List Num) :
    (if i32 then kstepI32 acc as bs else kstepF32 acc as bs) < 2 ^ 32 := by
  split
  · exact BitVec.isLt _
  · exact toF32_lt _

/-! ### The words of an accumulator (R245, R256) -/

theorem hget_hput (m : KMap Half) {v : Nat} (hv : v < 2 ^ 32) (k j : Nat) : hget (hput m k v) j = if j = k then v else hget m j := by
  unfold hput hget
  split
  · rw [kget_kdel]; split <;> simp_all
  · rw [kget_kput]; split
    · simpa using Nat.mod_eq_of_lt hv
    · rfl

theorem Slice.acc_setAcc (x : Slice) (a b : Bool) (acc cs : KMap Half) (t : AccTag) :
    (x.setAcc a acc cs t).acc b = if b = a then acc else x.acc b := by cases a <;> cases b <;> rfl
@[simp] theorem Slice.cs_setAcc_self (x : Slice) (a : Bool) (acc cs : KMap Half) (t : AccTag) : (x.setAcc a acc cs t).cs a = cs := by
  cases a <;> rfl
@[simp] theorem Slice.tag_setAcc_self (x : Slice) (a : Bool) (acc cs : KMap Half) (t : AccTag) : (x.setAcc a acc cs t).tag a = t := by
  cases a <;> rfl
@[simp] theorem Slice.word_forget (x : Slice) (a : Bool) (i j : Nat) : x.forget.word a i j = x.word a i j := by cases a <;> rfl

theorem Slice.word_zeroed (x : Slice) (a b : Bool) (i j : Nat) : (x.zeroed a).word b i j = if b = a then 0 else x.word b i j := by
  unfold Slice.word Slice.zeroed
  rw [Slice.acc_setAcc]
  split <;> rfl
theorem Slice.tag_zeroed (x : Slice) (a : Bool) : (x.zeroed a).tag a = .none := x.tag_setAcc_self ..
/-- The XOR of a row of zeros is its checksum, 0. -/
theorem Slice.rowBad_zeroed (x : Slice) (a : Bool) (i : Nat) : (x.zeroed a).rowBad a i = false := by
  have zero : ∀ c, (x.zeroed a).word a i c = 0 := fun c => by rw [Slice.word_zeroed, if_pos rfl]
  have row : ∀ l : List Nat, l.foldl (fun v c => v ^^^ (x.zeroed a).word a i c) 0 = 0 := fun l => by
    induction l with
    | nil => rfl
    | cons c l ih => rw [List.foldl_cons, zero, Nat.xor_self, ih]
  rw [Slice.rowBad, row, Slice.zeroed, Slice.cs_setAcc_self]
  rfl

theorem Slice.word_put (x : Slice) (a : Bool) {r c v i j : Nat} (hv : v < 2 ^ 32) (hc : c < 128) (hj : j < 128) :
    (x.put a r c v).word a i j = if i = r ∧ j = c then v else x.word a i j := by
  have place : 128 * i + j = 128 * r + c ↔ i = r ∧ j = c := by omega
  unfold Slice.word Slice.put
  rw [Slice.acc_setAcc, if_pos rfl, hget_hput _ hv]
  simp only [place]

/-! ### What a block of products does to the accumulator (R247) -/

/-- One word of the accumulator takes its new value, as a K-step gives it from the old one. -/
def Slice.renew (x : Slice) (a : Bool) (f : Nat → Nat) (r c : Nat) : Slice :=
  if f (x.word a r c) = x.word a r c then x else x.put a r c (f (x.word a r c))

theorem Slice.word_renew (x : Slice) (a : Bool) {f : Nat → Nat} {r c i j : Nat} (hf : ∀ n, f n < 2 ^ 32) (hc : c < 128) (hj : j < 128) :
    (x.renew a f r c).word a i j = if i = r ∧ j = c then f (x.word a i j) else x.word a i j := by
  unfold Slice.renew
  split
  · split
    · simp_all
    · rfl
  · rw [Slice.word_put x a (hf _) hc hj]
    split
    · simp_all
    · rfl

/-- Words `lo` to `lo + n - 1` of row `r`, in that order. -/
def Slice.renewRow (x : Slice) (a : Bool) (f : Nat → Nat → Nat) (r lo n : Nat) : Slice :=
  (List.range n).foldl (fun x c => x.renew a (f c) r (lo + c)) x

theorem Slice.word_renewRow (x : Slice) (a : Bool) {f : Nat → Nat → Nat} {r lo n i j : Nat} (hf : ∀ c v, f c v < 2 ^ 32)
    (hn : lo + n ≤ 128) (hj : j < 128) :
    (x.renewRow a f r lo n).word a i j = if i = r ∧ lo ≤ j ∧ j < lo + n then f (j - lo) (x.word a i j) else x.word a i j := by
  induction n with
  | zero => rw [if_neg (by omega)]; rfl
  | succ n ih =>
    have last : x.renewRow a f r lo (n + 1) = (x.renewRow a f r lo n).renew a (f n) r (lo + n) := by
      simp [Slice.renewRow, List.range_succ]
    rw [last, Slice.word_renew _ a (hf n) (by omega) hj, ih (by omega)]
    by_cases here : i = r ∧ j = lo + n
    · rw [if_pos here, if_neg (by omega), if_pos (by omega), show j - lo = n by omega]
    · rw [if_neg here]
      exact ite_congr (propext (by omega)) (fun _ => rfl) fun _ => rfl

/-- The block of `n` columns from `lo` on in the first `m` rows. -/
def Slice.renewBlock (x : Slice) (a : Bool) (f : Nat → Nat → Nat → Nat) (m lo n : Nat) : Slice :=
  (List.range m).foldl (fun x r => x.renewRow a (f r) r lo n) x

theorem Slice.word_renewBlock (x : Slice) (a : Bool) {f : Nat → Nat → Nat → Nat} {m lo n i j : Nat} (hf : ∀ r c v, f r c v < 2 ^ 32)
    (hn : lo + n ≤ 128) (hj : j < 128) :
    (x.renewBlock a f m lo n).word a i j = if i < m ∧ lo ≤ j ∧ j < lo + n then f i (j - lo) (x.word a i j) else x.word a i j := by
  induction m with
  | zero => rw [if_neg (by omega)]; rfl
  | succ m ih =>
    have last : x.renewBlock a f (m + 1) lo n = (x.renewBlock a f m lo n).renewRow a (f m) m lo n := by
      simp [Slice.renewBlock, List.range_succ]
    rw [last, Slice.word_renewRow _ a (hf m) hn hj, ih]
    by_cases here : i = m ∧ lo ≤ j ∧ j < lo + n
    · rw [if_pos here, if_neg (by omega), if_pos (by omega), here.1]
    · rw [if_neg here]
      exact ite_congr (propext (by omega)) (fun _ => rfl) fun _ => rfl

/-! ### The end of a command: what it leaves alone, and its token (R183) -/

theorem OnlyCore.setCore (s : State) (k : Nat) (c : Core) : OnlyCore s (s.setCore k c) k := ⟨rfl, fun _ h => State.core_setCore_ne s c h⟩
theorem OnlyCore.refl (s : State) (k : Nat) : OnlyCore s s k := ⟨rfl, fun _ _ => rfl⟩
theorem OnlyCore.trans {s t u : State} {k : Nat} (h : OnlyCore s t k) (h' : OnlyCore t u k) : OnlyCore s u k :=
  ⟨(congrArg (fun v => { v with cores := s.cores }) h'.1).trans h.1, fun j hj => (h'.2 j hj).trans (h.2 j hj)⟩

@[simp] theorem Core.setRun_mat_run (c : Core) (r : Option Started) : (c.setRun .mat r).mat.run = r := rfl
@[simp] theorem Core.setRun_mat_slice (c : Core) (r : Option Started) : (c.setRun .mat r).slice = c.slice := rfl
@[simp] theorem Core.setRun_mat_lmem (c : Core) (r : Option Started) : (c.setRun .mat r).lmem = c.lmem := rfl
@[simp] theorem Core.setRun_mat_lbad (c : Core) (r : Option Started) : (c.setRun .mat r).lbad = c.lbad := rfl
@[simp] theorem Core.setRun_mat_ctxs (c : Core) (r : Option Started) : (c.setRun .mat r).ctxs = c.ctxs := rfl

@[simp] theorem Core.mend_lmem (c : Core) (a n : Nat) (w : Bool) : (c.mend a n w).lmem = c.lmem := by unfold Core.mend; split <;> rfl
@[simp] theorem Core.mend_lbad (c : Core) (a n : Nat) (w : Bool) : (c.mend a n w).lbad = c.lbad := by unfold Core.mend; split <;> rfl
@[simp] theorem Core.mend_slice (c : Core) (a n : Nat) (w : Bool) : (c.mend a n w).slice = c.slice := by unfold Core.mend; split <;> rfl
@[simp] theorem Core.mend_ctxs (c : Core) (a n : Nat) (w : Bool) : (c.mend a n w).ctxs = c.ctxs := by unfold Core.mend; split <;> rfl
@[simp] theorem Core.lwrite_slice (c : Core) (a : Nat) (bs : List Byte) : (c.lwrite a bs).slice = c.slice := c.mend_slice ..

/-- A descriptor that the command names as written is ready again; nothing else of the core changes. -/
theorem Core.undrain_frame (c : Core) (q : Cmd) : ∃ m, c.undrain q = { c with lmem := m } := by
  unfold Core.undrain
  generalize tdOf q.instr = d
  match d with
  | none => exact ⟨c.lmem, rfl⟩
  | some (_, false) => exact ⟨c.lmem, rfl⟩
  | some (a, true) => exact ⟨mputNat c.lmem (0x1E000 + 32 * a) 32 ((c.td a).withSt 2).toNat, rfl⟩

@[simp] theorem Core.undrain_mat (c : Core) (q : Cmd) : (c.undrain q).mat = c.mat := by obtain ⟨m, h⟩ := c.undrain_frame q; rw [h]
@[simp] theorem Core.undrain_slice (c : Core) (q : Cmd) : (c.undrain q).slice = c.slice := by obtain ⟨m, h⟩ := c.undrain_frame q; rw [h]
@[simp] theorem Core.undrain_ctxs (c : Core) (q : Cmd) : (c.undrain q).ctxs = c.ctxs := by obtain ⟨m, h⟩ := c.undrain_frame q; rw [h]

@[simp] theorem Ctx.tok_setTok (c : Ctx) (x : Slot) (v : Tok) : (c.setTok x v).tok x = v := by simp [Ctx.tok, Ctx.setTok]

/-- Settling an ending changes the core's contexts and the records of ended ones alone. -/
theorem State.settle_frame (s : State) (k x : Nat) (t : Option Slot) (e : Ending) :
    OnlyCore s (s.settle k x t e) k ∧ ((s.settle k x t e).core k).mat = (s.core k).mat
      ∧ ((s.settle k x t e).core k).slice = (s.core k).slice := by
  unfold State.settle
  split
  · split
    · exact ⟨.refl s k, rfl, rfl⟩
    · exact ⟨.setCore s k _, by simp [State.setCtx], by simp [State.setCtx]⟩
  · split
    · split
      · exact ⟨.setCore s k _, by simp, by simp⟩
      · exact ⟨.refl s k, rfl, rfl⟩
    · exact ⟨.refl s k, rfl, rfl⟩

theorem State.settle_tok {s : State} {k x : Nat} (live : (s.core k).live x = true) (w : Slot) (e : Ending) :
    ((s.settle k x (some w) e).ctx k x).tok w = ((s.ctx k x).tok w).settle e := by
  simp only [State.settle, live, if_true, State.ctx_setCtx]
  exact Ctx.tok_setTok _ w _

/-- The core's matrix command ends, the core being `c` beside: its slice is `c`'s, it runs nothing, and the command's token settles. -/
theorem matEnd_spec (s : State) (k : Nat) (c : Core) (q : Cmd) (e : Ending) (hc : c.ctxs = (s.core k).ctxs) :
    let t := (s.setCore k (c.setRun .mat none)).endCmd k q e
    OnlyCore s t k ∧ (t.core k).mat.run = none ∧ (t.core k).slice = c.slice ∧ TokSettled s t k q e := by
  dsimp only [State.endCmd]
  generalize hu : (s.setCore k (c.setRun .mat none)).setCore k (((s.setCore k (c.setRun .mat none)).core k).undrain q) = u
  have hctxs : (u.core k).ctxs = (s.core k).ctxs := by simp [← hu, hc]
  have honly : OnlyCore s u k := hu ▸ (OnlyCore.setCore s k _).trans (.setCore _ k _)
  obtain ⟨only, mat, slice⟩ := u.settle_frame k q.ctx (tokOf q.instr) e
  refine ⟨honly.trans only, ?_, ?_, fun w hw live => ?_⟩
  · rw [mat, ← hu, State.core_setCore, Core.undrain_mat, State.core_setCore, Core.setRun_mat_run]
  · rw [slice, ← hu, State.core_setCore, Core.undrain_slice, State.core_setCore, Core.setRun_mat_slice]
  · have hctx : u.ctx k q.ctx = s.ctx k q.ctx := by unfold State.ctx Core.ctx; rw [hctxs]
    rw [hw, State.settle_tok (by unfold Core.live at *; rwa [hctxs]), hctx]

/-! ### Reading the tiles of an unscaled K-step (R247, R264) -/

/-- Where the bytes of row `r` for K-step `st` begin, and how many they are. -/
def TDesc.chunkAt (d : TDesc) (st r : Nat) : Nat := d.base + r * d.stride + 4 * fmtBits d.fmt * st
def TDesc.chunkLen (d : TDesc) (st : Nat) : Nat := (fmtBits d.fmt * min 32 (d.cols - 32 * st) + 7) / 8

/-- What a core has for row `r` of an unscaled tensor in K-step `st`, as row `tag` of the tile. -/
def Core.plainChunk (v : Core) (d : TDesc) (st tag r : Nat) : RowChunk := ⟨tag, leNat (v.lread (d.chunkAt st r) (d.chunkLen st)), 0⟩

/-- The bytes of row `r` that K-step `st` reads hold no poisoned word. -/
def Core.cleanRow (v : Core) (d : TDesc) (st r : Nat) : Prop := v.poisoned (d.chunkAt st r) (d.chunkLen st) = false

theorem State.rowChunk_plain (s : State) (k x cmd : Nat) {v : Core} {d : TDesc} {st tag r : Nat} (hd : (fmtScale d.fmt).2.1 = 0)
    (clean : v.cleanRow d st r) : s.rowChunk k x cmd v d st tag r = (s, .ok (v.plainChunk d st tag r)) := by
  unfold Core.cleanRow TDesc.chunkAt TDesc.chunkLen at clean
  simp [State.rowChunk, clean, hd, Core.plainChunk, TDesc.chunkAt, TDesc.chunkLen]

theorem State.tile_plain (s : State) (k x cmd : Nat) {v : Core} {d : TDesc} {st : Nat} (hd : (fmtScale d.fmt).2.1 = 0)
    {rows : List (Nat × Nat)} (clean : ∀ e ∈ rows, v.cleanRow d st e.2) :
    s.tile k x cmd v d st rows = (s, .ok (rows.map (fun e => v.plainChunk d st e.1 e.2))) := by
  induction rows with
  | nil => rfl
  | cons e rows ih =>
    obtain ⟨tag, r⟩ := e
    rw [List.forall_mem_cons] at clean
    rw [State.tile, State.rowChunk_plain s k x cmd hd clean.1]
    dsimp only
    rw [ih clean.2]
    rfl

/-! ### A command of the matrix slice that runs (R264) -/

theorem exec_matrixComplete (k n : Nat) (s : State) : exec (.matrixComplete k n) s = execMatrixComplete k n s := rfl

/-- A step that ends the core's matrix command answers what `matEnd_spec` says. -/
theorem Answers.of_matEnd {i : Instr} {s : State} {k : Nat} {c : Core} {q : Cmd} {P : State → Prop}
    (h : exec i s = .next ((s.setCore k (c.setRun .mat none)).endCmd k q .ok)) (hc : c.ctxs = (s.core k).ctxs)
    (hp : ∀ t, OnlyCore s t k → (t.core k).mat.run = none → (t.core k).slice = c.slice → TokSettled s t k q .ok → P t) : Answers i s P := by
  obtain ⟨only, run, slice, tok⟩ := matEnd_spec s k c q .ok hc
  exact ⟨_, h, hp _ only run slice tok⟩

section
variable {s : State} {k : Nat} {r : Started} (hrun : (s.core k).mat.run = some r) (hphase : r.phase = 1)
include hrun hphase

theorem exec_matrixComplete_mzero {x w u} (hi : r.cmd.instr = .mzero x w u) (hmat : r.mat = none) :
    exec (.matrixComplete k 0) s
      = .next ((s.setCore k (({ s.core k with slice := (s.core k).slice.zeroed x } : Core).setRun .mat none)).endCmd k r.cmd .ok) := by
  rw [exec_matrixComplete]
  simp [execMatrixComplete, hrun, hphase, hmat, hi]

theorem exec_matrixComplete_mldb {a w u} (hi : r.cmd.instr = .mldb a w u) (hmat : r.mat = none) :
    exec (.matrixComplete k 0) s
      = .next ((s.setCore k (({ s.core k with slice := { (s.core k).slice with bind := some ((s.core k).td a.toNat) } } : Core).setRun
          .mat none)).endCmd k r.cmd .ok) := by
  rw [exec_matrixComplete]
  simp [execMatrixComplete, hrun, hphase, hmat, hi]

theorem exec_matrixComplete_mprog {i g w u} (hi : r.cmd.instr = .mprog i g w u) (hmat : r.mat = none) :
    exec (.matrixComplete k 0) s
      = .next ((s.setCore k (({ s.core k with
            slice := { (s.core k).slice with prog := microProg (r.cmd.vals.headD 0), progI32 := i } } : Core).setRun .mat none)).endCmd
          k r.cmd .ok) := by
  rw [exec_matrixComplete]
  simp [execMatrixComplete, hrun, hphase, hmat, hi]

theorem exec_matrixComplete_mdrain_end {a x g w u} (hi : r.cmd.instr = .mdrain a x g w u) (hmat : r.mat = none) (hw : r.writes = []) :
    exec (.matrixComplete k 0) s
      = .next ((s.setCore k ((if wbit (r.cmd.vals.headD 0) 1 then { s.core k with slice := (s.core k).slice.zeroed x } else s.core k :
          Core).setRun .mat none)).endCmd k r.cmd .ok) := by
  rw [exec_matrixComplete]
  simp [execMatrixComplete, hrun, hphase, hmat, hi, hw]

theorem exec_matrixComplete_mdrain_row {a x g w u v ws} (hi : r.cmd.instr = .mdrain a x g w u) (hmat : r.mat = none)
    (hw : r.writes = v :: ws) (good : (s.core k).writePoisoned v.1 v.2.length = false) :
    exec (.matrixComplete k 0) s = .next (s.setCore k (((s.core k).lwrite v.1 v.2).setRun .mat (some { r with writes := ws }))) := by
  rw [exec_matrixComplete]
  simp [execMatrixComplete, hrun, hphase, hmat, hi, hw, good]

theorem exec_matrixComplete_mma {a p x g c w u m} (hi : r.cmd.instr = .mma a p x g c w u) (hmat : r.mat = some m) (hheld : m.held = none) :
    exec (.matrixComplete k 0) s = .next (s.matRun k 1) := by
  rw [exec_matrixComplete]
  simp [execMatrixComplete, hrun, hphase, hmat, hi, hheld]

end

/-! ### An action of an operation alone in its row (R247, R264) -/

section
variable {s : State} {k : Nat} {r : Started} {m : MatRun} (hrun : (s.core k).mat.run = some r) (hmat : r.mat = some m)
include hrun

theorem preempts_of_going (go : s.stopping k r.cmd.ctx = false) : s.preempts k = false := by simp [State.preempts, hrun, go]

include hmat

theorem nextRead_alone : s.nextRead [k] = ((m.needs r.cmd r.pos).find? (fun g => !r.got.contains g)).map (fun g => (k, r, g)) := by
  simp [State.nextRead, hrun, hmat]

/-- After its last K-step the operation ends. -/
theorem matRun_ended (hrow : m.row = [k]) (done : TDesc.cols m.a ≤ 32 * r.pos) :
    s.matRun k 1 = (s.setCore k ((s.core k).setRun .mat none)).endCmd k r.cmd .ok := by
  have last : (TDesc.cols m.a + 31) / 32 ≤ r.pos := by omega
  simp [State.matRun, State.endRow, hrun, hmat, hrow, last]

variable (hrow : m.row = [k]) (go : s.stopping k r.cmd.ctx = false) (more : 32 * r.pos < TDesc.cols m.a)
include hrow go more

/-- Before it, an action reads the first granule that the K-step still needs. -/
theorem matRun_reads {g : Nat} (next : (m.needs r.cmd r.pos).find? (fun g => !r.got.contains g) = some g) :
    s.matRun k 1 = s.setCore k (((s.core k).mend (64 * g) 64 false).setRun .mat (some ((s.core k).readGranule r g))) := by
  have left : ¬(TDesc.cols m.a + 31) / 32 ≤ r.pos := by omega
  simp only [State.matRun, hrun, hmat, hrow, left, preempts_of_going hrun go, nextRead_alone hrun hmat, next, Option.map_some, if_false,
    List.any_cons, List.any_nil, Bool.or_false, Bool.and_false, Bool.false_eq_true]

/-- With all of them read, it does the K-step. -/
theorem matRun_kstep (next : (m.needs r.cmd r.pos).find? (fun g => !r.got.contains g) = none) :
    s.matRun k 1 = (s.matStep [k] r.pos).1 := by
  have left : ¬(TDesc.cols m.a + 31) / 32 ≤ r.pos := by omega
  simp only [State.matRun, hrun, hmat, hrow, left, preempts_of_going hrun go, nextRead_alone hrun hmat, next, Option.map_none, if_false,
    List.any_cons, List.any_nil, Bool.or_false, Bool.and_false, Bool.false_eq_true]
  exact ite_id _

end

/-! ### A K-step of an unscaled MMA alone in its row (R26 to R28, R247) -/

/-- What an unscaled K-step of the operation makes of word (i, c) of its block, from what `v` shows of its operands. -/
def MatRun.newWord (m : MatRun) (v : Core) (st i c old : Nat) : Nat :=
  let n := min 32 (TDesc.cols m.a - 32 * st)
  let as := (List.range n).map (elemAt (TDesc.fmt m.a) m.tabA (32 * st) (v.plainChunk m.a st i i).raw 0)
  let bs := (List.range n).map (elemAt (TDesc.fmt m.b) m.tabB (32 * st) (v.plainChunk m.b st c c).raw 0)
  if m.i32 then kstepI32 old as bs else kstepF32 old as bs

theorem MatRun.newWord_lt (m : MatRun) (v : Core) (st i c old : Nat) : m.newWord v st i c old < 2 ^ 32 := kstep_lt ..

/-- The operation with the tiles that a K-step of it alone reads: the A rows that accumulate, and the 32 rows of B. -/
def Started.loneTiles (r : Started) (k : Nat) (m : MatRun) (v : Core) : Tiles :=
  ⟨k, r, m, (m.rows r.cmd).map (fun e => v.plainChunk m.a r.pos e.1 e.2),
    ((List.range 32).map (fun i => (i, i))).map (fun e => v.plainChunk m.b r.pos e.1 e.2)⟩

section
variable {s : State} {k : Nat} {r : Started} {m : MatRun}

theorem readTiles_alone (hrun : (s.core k).mat.run = some r) (hmat : r.mat = some m) (latch : (s.core k).slice.latchBad = false)
    (ha : (fmtScale (TDesc.fmt m.a)).2.1 = 0) (hb : (fmtScale (TDesc.fmt m.b)).2.1 = 0)
    (cleanA : ∀ e ∈ m.rows r.cmd, ((s.core k).seen r).cleanRow m.a r.pos e.2)
    (cleanB : ∀ i < 32, ((s.core k).seen r).cleanRow m.b r.pos i) :
    s.readTiles r.pos [k] = (s, .ok [r.loneTiles k m ((s.core k).seen r)]) := by
  have allB : ∀ e ∈ (List.range 32).map (fun i => (i, i)), ((s.core k).seen r).cleanRow m.b r.pos e.2 := by
    simpa using cleanB
  simp only [State.readTiles, hrun, hmat, latch, Bool.false_eq_true, if_false, State.tile_plain s k _ _ ha cleanA,
    State.tile_plain s k _ _ hb allB]
  rfl

/-- The K-step, and what it leaves for the next. -/
theorem matStep_alone (tiles : s.readTiles r.pos [k] = (s, .ok [r.loneTiles k m ((s.core k).seen r)])) :
    (s.matStep [k] r.pos).1 = s.setCore k
      (({ s.core k with slice := ((r.loneTiles k m ((s.core k).seen r)).accumulate r.pos [r.loneTiles k m ((s.core k).seen r)]
          (s.core k).slice).forget } : Core).setRun .mat (some { r with pos := r.pos + 1, got := [], snap := [], snapBad := [] })) := by
  rw [State.matStep, tiles]
  rfl

/-- An MMA without a microprogram renews the block of its core's 32 columns in the first ctl rows. -/
theorem accumulate_alone {a x g c w u} (hi : r.cmd.instr = .mma a false x g c w u) (v : Core) (y : Slice) :
    (r.loneTiles k m v).accumulate r.pos [r.loneTiles k m v] y
      = y.renewBlock x (m.newWord v r.pos) (bits (r.cmd.vals.headD 0) 0 6) (32 * (coreX k % 4)) 32 := by
  have rows : m.rows r.cmd = (List.range (bits (r.cmd.vals.headD 0) 0 6)).map (fun i => (i, i)) := by simp [MatRun.rows, hi]
  simp only [Tiles.accumulate, Started.loneTiles, hi, matParts, rows, List.foldl_cons, List.foldl_nil, List.foldl_map,
    Bool.false_eq_true, if_false]
  rfl

theorem word_accumulate_alone {a x g c w u} (hi : r.cmd.instr = .mma a false x g c w u) (v : Core) (y : Slice) (i : Nat) {j : Nat}
    (hj : j < 128) :
    ((r.loneTiles k m v).accumulate r.pos [r.loneTiles k m v] y).word x i j =
      if i < bits (r.cmd.vals.headD 0) 0 6 ∧ j / 32 = coreX k % 4 then m.newWord v r.pos i (j % 32) (y.word x i j) else y.word x i j := by
  have block : (i < bits (r.cmd.vals.headD 0) 0 6 ∧ 32 * (coreX k % 4) ≤ j ∧ j < 32 * (coreX k % 4) + 32)
      ↔ (i < bits (r.cmd.vals.headD 0) 0 6 ∧ j / 32 = coreX k % 4) := by omega
  rw [accumulate_alone hi, Slice.word_renewBlock y x (m.newWord_lt v r.pos) (by omega) hj]
  simp only [block]
  split
  next here => rw [show j - 32 * (coreX k % 4) = j % 32 by omega]
  next => rfl

end

/-! ### The clauses of O42 -/

theorem wbit_eq_getLsbD (w : Word) (n : Nat) : wbit w n = w.getLsbD n := by
  rw [wbit, BitVec.getLsbD, Nat.testBit_eq_decide_div_mod_eq]; rfl

section
variable {s : State} {k : Nat} {r : Started} (hrun : (s.core k).mat.run = some r) (hphase : r.phase = 1)
include hrun hphase

theorem mzero_takes_effect {x w u} (hi : r.cmd.instr = .mzero x w u) (hmat : r.mat = none) :
    Answers (.matrixComplete k 0) s fun t =>
      OnlyCore s t k ∧ (t.core k).mat.run = none ∧ (∀ i j, (t.core k).slice.word x i j = 0 ∧ (t.core k).slice.rowBad x i = false)
        ∧ (∀ i j, (t.core k).slice.word (!x) i j = (s.core k).slice.word (!x) i j) ∧ (t.core k).slice.tag x = .none
        ∧ TokSettled s t k r.cmd .ok := by
  refine .of_matEnd (exec_matrixComplete_mzero hrun hphase hi hmat) rfl fun t only run slice tok => ?_
  have zeroed : (t.core k).slice = (s.core k).slice.zeroed x := slice
  rw [zeroed]
  refine ⟨only, run, fun i j => ⟨?_, Slice.rowBad_zeroed ..⟩, fun i j => ?_, Slice.tag_zeroed .., tok⟩
  · rw [Slice.word_zeroed, if_pos rfl]
  · rw [Slice.word_zeroed, if_neg (by simp)]

theorem mdrain_ends {a x g w u} (hi : r.cmd.instr = .mdrain a x g w u) (hmat : r.mat = none) (hw : r.writes = []) :
    Answers (.matrixComplete k 0) s fun t =>
      OnlyCore s t k ∧ (t.core k).mat.run = none ∧ TokSettled s t k r.cmd .ok
        ∧ ∀ i j, (t.core k).slice.word x i j = if (r.cmd.vals.headD 0).getLsbD 1 then 0 else (s.core k).slice.word x i j := by
  refine .of_matEnd (exec_matrixComplete_mdrain_end hrun hphase hi hmat hw) (by split <;> rfl) fun t only run slice tok =>
    ⟨only, run, tok, fun i j => ?_⟩
  rw [slice, wbit_eq_getLsbD]
  split
  · rw [Slice.word_zeroed, if_pos rfl]
  · rfl

variable {a x g c w u} {m : MatRun} (hi : r.cmd.instr = .mma a false x g c w u) (hmat : r.mat = some m) (hheld : m.held = none)
  (hrow : m.row = [k]) (go : s.stopping k r.cmd.ctx = false)
include hi hmat hheld hrow

theorem mma_ends (done : TDesc.cols m.a ≤ 32 * r.pos) :
    Answers (.matrixComplete k 0) s fun t =>
      OnlyCore s t k ∧ (t.core k).mat.run = none ∧ (t.core k).slice = (s.core k).slice ∧ TokSettled s t k r.cmd .ok :=
  .of_matEnd (by rw [exec_matrixComplete_mma hrun hphase hi hmat hheld, matRun_ended hrun hmat hrow done]) rfl
    fun _ only run slice tok => ⟨only, run, slice, tok⟩

variable (more : 32 * r.pos < TDesc.cols m.a)
include go more

theorem mma_reads {e : Nat} (next : (m.needs r.cmd r.pos).find? (fun e => !r.got.contains e) = some e) :
    Answers (.matrixComplete k 0) s fun t =>
      Reads s t k r.cmd.ctx ∧ (t.core k).slice = (s.core k).slice ∧ (t.core k).mat.run = some ((s.core k).readGranule r e) := by
  refine ⟨_, by rw [exec_matrixComplete_mma hrun hphase hi hmat hheld, matRun_reads hrun hmat hrow go more next],
    ⟨.setCore .., by simp, by simp, ?_⟩, by simp, by simp⟩
  have same : ∀ y, (s.setCore k (((s.core k).mend (64 * e) 64 false).setRun .mat (some ((s.core k).readGranule r e)))).ctx k y = s.ctx k y :=
    fun y => by simp [State.ctx, Core.ctx]
  rw [same]
  exact ⟨fun _ => rfl, fun _ => rfl, fun _ => rfl⟩

theorem mma_kstep (next : (m.needs r.cmd r.pos).find? (fun e => !r.got.contains e) = none) (latch : (s.core k).slice.latchBad = false)
    (scaleA : (fmtScale (TDesc.fmt m.a)).2.1 = 0) (scaleB : (fmtScale (TDesc.fmt m.b)).2.1 = 0)
    (ctl : bits (r.cmd.vals.headD 0) 0 6 ≤ 32)
    (clean : ∀ i < 32, ((s.core k).seen r).cleanRow m.a r.pos i ∧ ((s.core k).seen r).cleanRow m.b r.pos i) :
    Answers (.matrixComplete k 0) s fun t =>
      OnlyCore s t k ∧ (t.core k).lmem = (s.core k).lmem
        ∧ (t.core k).mat.run = some { r with pos := r.pos + 1, got := [], snap := [], snapBad := [] }
        ∧ ∀ i j, j < 128 → (t.core k).slice.word x i j =
            if i < bits (r.cmd.vals.headD 0) 0 6 ∧ j / 32 = coreX k % 4
            then m.newWord ((s.core k).seen r) r.pos i (j % 32) ((s.core k).slice.word x i j) else (s.core k).slice.word x i j := by
  have cleanA : ∀ e ∈ m.rows r.cmd, ((s.core k).seen r).cleanRow m.a r.pos e.2 := by
    simp only [MatRun.rows, hi, List.mem_map, List.mem_range]
    rintro _ ⟨i, hlt, rfl⟩
    exact (clean i (by omega)).1
  have tiles := readTiles_alone hrun hmat latch scaleA scaleB cleanA fun i hlt => (clean i hlt).2
  refine ⟨_, by rw [exec_matrixComplete_mma hrun hphase hi hmat hheld, matRun_kstep hrun hmat hrow go more next, matStep_alone tiles],
    .setCore .., by simp, by simp, fun i j hj => ?_⟩
  rw [State.core_setCore, Core.setRun_mat_slice, Slice.word_forget, word_accumulate_alone hi _ _ i hj]

end

/-- Settles O42: what each command does is the theorem about it; the row sums of the statement are those of `MatRun.newWord`. -/
theorem matrixCompletions : Obligations.MatrixCompletions := by
  intro s k r hrun hphase
  refine ⟨?mzero, ?mldb, ?mprog, ?mdrainRow, ?mdrainEnd, ?mma⟩
  case mzero => exact fun x w u hi hmat => mzero_takes_effect hrun hphase hi hmat
  case mldb =>
    exact fun a w u hi hmat => .of_matEnd (exec_matrixComplete_mldb hrun hphase hi hmat) rfl fun t only run slice tok =>
      ⟨only, run, slice, tok⟩
  case mprog =>
    exact fun i g w u hi hmat => .of_matEnd (exec_matrixComplete_mprog hrun hphase hi hmat) rfl fun t only run slice tok =>
      ⟨only, run, slice, tok⟩
  case mdrainRow =>
    intro a x g w u v ws hi hmat hw good
    exact ⟨_, exec_matrixComplete_mdrain_row hrun hphase hi hmat hw good, .setCore .., by rw [State.core_setCore]; rfl, by simp,
      by simp⟩
  case mdrainEnd => exact fun a x g w u hi hmat hw => mdrain_ends hrun hphase hi hmat hw
  case mma =>
    intro a x w g u m n hi hmat hheld hrow go
    refine ⟨mma_ends hrun hphase hi hmat hheld hrow, fun more e he => ?reads, fun more he latch scaleA scaleB ctl => ?kstep⟩
    case reads =>
      obtain ⟨t, ht, reads, slice, run⟩ := mma_reads hrun hphase hi hmat hheld hrow go more he
      exact ⟨t, ht, reads, slice, _, run, rfl, rfl, rfl, rfl⟩
    case kstep => exact fun clean => mma_kstep hrun hphase hi hmat hheld hrow go more he latch scaleA scaleB ctl clean

end Sys2Proof.Machine
end

section
/-! Proofs of the statement about the steps of contexts (O48). -/

namespace Sys2Proof.Machine

/-! ### The state and one of its contexts -/

@[simp] theorem State.core_setCtx (s : State) (k x : Nat) (v : Ctx) : (s.setCtx k x v).core k = (s.core k).setCtx x v := State.core_setCore ..
theorem State.core_setCtx_ne (s : State) {j k : Nat} (x : Nat) (v : Ctx) (h : j ≠ k) : (s.setCtx k x v).core j = s.core j :=
  State.core_setCore_ne _ _ h
theorem OnlyCore.setCtx (s : State) (k x : Nat) (v : Ctx) : OnlyCore s (s.setCtx k x v) k := .setCore ..
@[simp] theorem State.ctx_setCore (s : State) (k x : Nat) (c : Core) : (s.setCore k c).ctx k x = c.ctx x := by simp [State.ctx]
@[simp] theorem State.ctx_setTerr (s : State) (k x t : Nat) (v : Terr) : (s.setTerr t v).ctx k x = s.ctx k x := rfl
theorem State.stat_setStat_ne (s : State) {j k : Nat} (v : CoreStat) (h : j ≠ k) : (s.setStat k v).stat j = s.stat j := by
  simp [State.stat, State.setStat, kget_kput_ne _ _ h]
@[simp] theorem Core.live_setCtx (c : Core) (x : Nat) (v : Ctx) : (c.setCtx x v).live x = true := by simp [Core.live, Core.setCtx]

/-- The register file is three fields of the context. -/
theorem RegsSame.of_fields {c c' : Ctx} (g : c'.g = c.g) (full : c'.full = c.full) (bad : c'.bad = c.bad) : RegsSame c c' := by
  simp [RegsSame, Ctx.reg, Ctx.isFull, Ctx.isBad, g, full, bad]

theorem RegsSame.setRun (c : Ctx) (now : Nat) (r : RunSt) : RegsSame c (c.setRun now r) := .of_fields rfl rfl rfl

/-- At a boundary a context is not stopped (R92). -/
theorem State.running_of_atBoundary {s : State} {k x : Nat} (h : s.atBoundary k x = true) (y : StopWhy) : (s.ctx k x).run ≠ .stopped y := by
  intro e
  simp [State.atBoundary, e] at h
theorem State.live_of_atBoundary {s : State} {k x : Nat} (h : s.atBoundary k x = true) : (s.core k).live x = true := by
  simp only [State.atBoundary, Bool.and_eq_true] at h
  obtain ⟨⟨⟨⟨live, -⟩, -⟩, -⟩, -⟩ := h
  exact live

/-! ### Leaving the word that a context waits in -/

/-- What leaving the word that context `x` waits in does to its core. -/
def Core.leave (c : Core) (x : Nat) : Core :=
  { c with aside := c.aside.filter (fun a => !(a.ctx == x && a.cmd.isNone)) }.setCtx x { c.ctx x with acc := none, rep := none }

@[simp] theorem Core.leave_upq (c : Core) (x : Nat) : (c.leave x).upq = c.upq := rfl
@[simp] theorem Core.leave_lmem (c : Core) (x : Nat) : (c.leave x).lmem = c.lmem := rfl
@[simp] theorem Core.leave_stream (c : Core) (x : Nat) : (c.leave x).stream = c.stream := rfl
@[simp] theorem Core.ctx_leave (c : Core) (x : Nat) : (c.leave x).ctx x = { c.ctx x with acc := none, rep := none } := Core.ctx_setCtx ..
theorem Core.ctx_leave_ne (c : Core) {x y : Nat} (h : y ≠ x) : (c.leave x).ctx y = c.ctx y := by
  rw [Core.leave, Core.ctx_setCtx_ne _ _ h]; rfl

/-- Beside the core, the bridles and the groups of its territory may lose its arrivals (R238, R280). -/
theorem State.leaveWait_frame (s : State) (k x : Nat) :
    ∃ cs ts, s.leaveWait k x = { s.setCore k ((s.core k).leave x) with clusters := cs, terrs := ts } := by
  unfold State.leaveWait
  dsimp only
  split
  · obtain ⟨ts, h⟩ := ((s.setCore k ((s.core k).leave x)).bridleLeave k).dropArrivals_frame k
    exact ⟨_, ts, h⟩
  · obtain ⟨ts, h⟩ := (s.setCore k ((s.core k).leave x)).dropArrivals_frame k
    exact ⟨_, ts, h⟩

@[simp] theorem State.leaveWait_core (s : State) (k x : Nat) : (s.leaveWait k x).core k = (s.core k).leave x := by
  obtain ⟨cs, ts, h⟩ := s.leaveWait_frame k x
  rw [h]
  exact State.core_setCore ..
theorem State.leaveWait_core_ne (s : State) {j k : Nat} (x : Nat) (hj : j ≠ k) : (s.leaveWait k x).core j = s.core j := by
  obtain ⟨cs, ts, h⟩ := s.leaveWait_frame k x
  rw [h]
  exact State.core_setCore_ne s _ hj
@[simp] theorem State.leaveWait_gmem (s : State) (k x : Nat) : (s.leaveWait k x).gmem = s.gmem := by
  obtain ⟨cs, ts, h⟩ := s.leaveWait_frame k x; rw [h]; rfl
@[simp] theorem State.leaveWait_net (s : State) (k x : Nat) : (s.leaveWait k x).net = s.net := by
  obtain ⟨cs, ts, h⟩ := s.leaveWait_frame k x; rw [h]; rfl
@[simp] theorem State.leaveWait_now (s : State) (k x : Nat) : (s.leaveWait k x).now = s.now := by
  obtain ⟨cs, ts, h⟩ := s.leaveWait_frame k x; rw [h]; rfl
@[simp] theorem State.ctx_leaveWait (s : State) (k x : Nat) : (s.leaveWait k x).ctx k x = { s.ctx k x with acc := none, rep := none } := by
  simp [State.ctx]

/-! ### Upcalls (R91, R353) -/

section
variable {s : State} {k : Nat} {c : BitVec 8} {v : Word} {rest : List (BitVec 8 × Word)}

/-- The handler of an upcall as context 0 enters it at `pc` (R91). -/
def State.upcallCtx (s : State) (k : Nat) (c : BitVec 8) (v : Word) (pc : Nat) : Ctx :=
  let h := s.ctx k 0
  { h.setRun s.now .running with
    acc := none, rep := none
    spr := { h.spr with epc := word ((s.core k).stopPc h), ecause := c, eval := s.upcallEval k c v, hlatch := h.latch, plev := h.level,
                        upc := true, inh := true, str := h.mode != .loc, upcall := BitVec.ofNat 2 (c.toNat - 0x20) }
    keeps := h.streamed, latch := Latch.empty, level := .t, mode := .loc, waited := false, ahead := [], pc := pc }

theorem State.upcallEval_of_ne (s : State) (k : Nat) (v : Word) (h : c ≠ lossCause) : s.upcallEval k c v = v := if_pos h

/-- The state in which context 0 has entered the handler. -/
def State.upcallTaken (s : State) (k : Nat) (c : BitVec 8) (v : Word) (rest : List (BitVec 8 × Word)) (pc : Nat) : State :=
  ((s.setCore k { s.core k with upq := rest }).leaveWait k 0).setCtx k 0 (s.upcallCtx k c v pc)

variable (works : s.works k = true) (queued : (s.core k).upq = (c, v) :: rest) (boundary : s.atBoundary k 0 = true)
  (outside : (s.ctx k 0).spr.inh = false) (goes : (s.ctx k 0).stopping = false)
include works queued boundary outside goes

theorem exec_upcallDelivery_entry {pc : Nat} (entry : (s.terr (s.terrOf k)).upcallEntry c = some pc) :
    exec (.upcallDelivery k) s = .next (s.upcallTaken k c v rest pc) := by
  show execUpcallDelivery k s = _
  simp only [execUpcallDelivery, queued, works, boundary, outside, goes, entry, State.ctx_leaveWait, State.ctx_setCore, Bool.not_true, Bool.or_self,
    Bool.false_eq_true, if_false]
  rfl

theorem exec_upcallDelivery_none (entry : (s.terr (s.terrOf k)).upcallEntry c = none) :
    exec (.upcallDelivery k) s = .next (s.setCore k { s.core k with upq := rest }) := by
  show execUpcallDelivery k s = _
  simp [execUpcallDelivery, works, queued, boundary, outside, goes, entry]

end

section
variable (s : State) (k : Nat) (c : BitVec 8) (v : Word) (rest : List (BitVec 8 × Word)) (pc : Nat)

@[simp] theorem State.ctx_upcallTaken : (s.upcallTaken k c v rest pc).ctx k 0 = s.upcallCtx k c v pc := State.ctx_setCtx ..
@[simp] theorem State.upcallTaken_upq : ((s.upcallTaken k c v rest pc).core k).upq = rest := by simp [State.upcallTaken]
@[simp] theorem State.upcallTaken_lmem : ((s.upcallTaken k c v rest pc).core k).lmem = (s.core k).lmem := by simp [State.upcallTaken]
@[simp] theorem State.upcallTaken_stream : ((s.upcallTaken k c v rest pc).core k).stream = (s.core k).stream := by simp [State.upcallTaken]
@[simp] theorem State.upcallTaken_gmem : (s.upcallTaken k c v rest pc).gmem = s.gmem := by simp [State.upcallTaken]
theorem State.upcallCtx_regs : RegsSame (s.ctx k 0) (s.upcallCtx k c v pc) := .of_fields rfl rfl rfl

end

theorem exec_upcallRetry {s : State} {i : Nat} {h : HeldUpcall} (held : s.heldUpcalls[i]? = some h) (room : (s.core h.core).upq.length < 8)
    (oldest : ∀ o ∈ s.heldUpcalls.take i, o.core ≠ h.core) :
    exec (.upcallRetry i) s = .next { s.setCore h.core { s.core h.core with upq := (s.core h.core).upq ++ [(h.cause, h.eval)] } with
      heldUpcalls := s.heldUpcalls.eraseIdx i } := by
  have first : (s.heldUpcalls.take i).any (fun o => o.core == h.core) = false := by simpa using oldest
  show execUpcallRetry i s = _
  simp only [execUpcallRetry, held, first, Nat.not_le.mpr room, decide_false, Bool.or_self, Bool.false_eq_true, if_false]

/-! ### The image of a context (R93, Table 5.5) -/

theorem Ctx.image_length (h : Ctx) (now pc : Nat) (pend : Bool) : (h.image now pc pend).length = 512 := by
  simp [Ctx.image]

/-- The images stand above the descriptors, whose reserved bits alone local memory does not hold as written (R4). -/
theorem Core.lwrite_lmem_imageAt (c : Core) (x : Nat) (bs : List Byte) : (c.lwrite (imageAt x) bs).lmem = mwrite c.lmem (imageAt x) bs := by
  have high : 0x1E400 ≤ imageAt x := by unfold imageAt; omega
  have asIs : tdBytes (imageAt x) bs = bs := by simp [tdBytes, high]
  exact congrArg (mwrite c.lmem (imageAt x)) asIs

theorem Core.putImage_lmem (c : Core) (now x : Nat) :
    (c.putImage now x).lmem = mwrite c.lmem (imageAt x) ((c.ctx x).image now (c.stopPc (c.ctx x)) (x = 0 ∧ c.upq ≠ [])) :=
  c.lwrite_lmem_imageAt ..

theorem Core.putImage_reads (c : Core) (now x : Nat) :
    mread (c.putImage now x).lmem (imageAt x) 512 = (c.ctx x).image now (c.stopPc (c.ctx x)) (x = 0 ∧ c.upq ≠ []) := by
  rw [Core.putImage_lmem]
  have := mread_mwrite_self ((c.ctx x).image now (c.stopPc (c.ctx x)) (x = 0 ∧ c.upq ≠ [])) c.lmem (imageAt x)
  rwa [Ctx.image_length] at this

/-- The image of another context is not touched. -/
theorem Core.putImage_reads_ne (c : Core) (now : Nat) {x y : Nat} (h : y ≠ x) :
    mread (c.putImage now x).lmem (imageAt y) 512 = mread c.lmem (imageAt y) 512 := by
  rw [Core.putImage_lmem]
  apply mread_mwrite_outside
  rw [Ctx.image_length]
  unfold imageAt
  omega

@[simp] theorem Core.lwrite_ctxs (c : Core) (a : Nat) (bs : List Byte) : (c.lwrite a bs).ctxs = c.ctxs := c.mend_ctxs ..
@[simp] theorem Core.ctx_lwrite (c : Core) (a x : Nat) (bs : List Byte) : (c.lwrite a bs).ctx x = c.ctx x := by simp [Core.ctx]
@[simp] theorem Core.ctx_putImage (c : Core) (now x y : Nat) : (c.putImage now x).ctx y = c.ctx y := c.ctx_lwrite ..

/-! ### Stops (R92) -/

/-- What asking a context to stop does to its core. -/
def Core.ask (c : Core) (x : Nat) : Core := c.setCtx x { c.ctx x with stopping := true }

section
variable {c : Core} {x : Nat} (live : c.live x = true)
include live

/-- The wide side sees of the request only that the context is to stop. -/
theorem Core.wctx_ask (y : Nat) : ∃ b, (c.ask x).wctx y = { c.wctx y with stopping := b } ∧ (b = false → (c.wctx y).stopping = false) := by
  by_cases same : y = x
  · obtain ⟨h, entry⟩ := Option.isSome_iff_exists.mp live
    refine ⟨true, ?_, nofun⟩
    simp [Core.wctx, Core.ask, Core.setCtx, Core.ctx, same, entry]
  · refine ⟨(c.wctx y).stopping, ?_, id⟩
    simp [Core.wctx, Core.ask, Core.setCtx, Core.ctx, kget_kput_ne _ _ same]

theorem Core.guardFor_ask (q : Cmd) : (c.ask x).guardFor q = c.guardFor q := by
  obtain ⟨b, h, -⟩ := Core.wctx_ask live q.ctx
  rw [Core.guardFor, h]
  rfl
theorem Core.bindsOf_ask (q : Cmd) : (c.ask x).bindsOf q = c.bindsOf q := by
  obtain ⟨b, h, -⟩ := Core.wctx_ask live q.ctx
  rw [Core.bindsOf, h]
  rfl
theorem Core.ranges_ask (q : Cmd) : (c.ask x).ranges q = c.ranges q := by
  rw [Core.ranges, Core.bindsOf_ask live]
  rfl
theorem Core.vecLeft_ask (r : Started) : (c.ask x).vecLeft r = c.vecLeft r := by
  obtain ⟨b, h, -⟩ := Core.wctx_ask live r.cmd.ctx
  rw [Core.vecLeft, h, Core.ranges_ask live]
  rfl
theorem Core.left_ask (q : Cmd) : (c.ask x).left q = c.left q := by
  unfold Core.left
  simp only [Core.vecLeft_ask live, Core.ranges_ask live]
  rfl
theorem Core.granulesFree_ask (q : Cmd) : (c.ask x).granulesFree q = c.granulesFree q := by
  unfold Core.granulesFree Core.conflicts
  simp only [Core.left_ask live, Core.ranges_ask live]
  rfl
theorem Core.qsReady_ask (q : Cmd) : (c.ask x).qsReady q = c.qsReady q := by
  obtain ⟨b, h, -⟩ := Core.wctx_ask live q.ctx
  rw [Core.qsReady, h]
  rfl
theorem Core.qwReady_ask (q : Cmd) : (c.ask x).qwReady q = c.qwReady q := by
  obtain ⟨b, h, -⟩ := Core.wctx_ask live q.ctx
  rw [Core.qwReady, h]
  rfl

omit live in
/-- A context that holds its matrix operations (R262) holds them after a request to stop. -/
theorem Ctx.holds_of_stopping {h : Ctx} {b : Bool} (mono : b = false → h.stopping = false) (holds : (h.halting || h.yielding) = true) :
    (({ h with stopping := b } : Ctx).halting || ({ h with stopping := b } : Ctx).yielding) = true := by
  cases b with
  | false => simp [Ctx.halting, Ctx.yielding, mono rfl] at holds
  | true =>
    simp only [Ctx.halting, Ctx.yielding, Ctx.committed, Bool.or_eq_true, Bool.and_eq_true] at holds ⊢
    exact holds.imp (fun ⟨⟨⟨_, pkt⟩, acc⟩, load⟩ => ⟨⟨⟨trivial, pkt⟩, acc⟩, load⟩) fun ⟨_, acc⟩ => ⟨trivial, acc⟩

/-- A head that can start after the request could start before: the request holds matrix operations and lets nothing go (R262). -/
theorem Core.canStart_of_ask {q : Cmd} (starts : (c.ask x).canStart q = true) : c.canStart q = true := by
  obtain ⟨b, h, mono⟩ := Core.wctx_ask live q.ctx
  rw [Core.canStart, h, Core.guardFor_ask live, Core.qsReady_ask live, Core.qwReady_ask live, Core.granulesFree_ask live] at starts
  simp only [Core.canStart, Bool.and_eq_true] at starts ⊢
  obtain ⟨⟨⟨runs, head⟩, free⟩, go⟩ := starts
  refine ⟨⟨⟨runs, head⟩, ?_⟩, go⟩
  simp only [Bool.not_eq_true', Bool.and_eq_false_iff] at free ⊢
  exact free.imp_left fun lets => Bool.eq_false_iff.mpr fun holds => Bool.eq_false_iff.mp lets (Ctx.holds_of_stopping mono holds)

end

theorem State.atBoundary_askStop (s : State) (k x : Nat) (live : (s.core k).live x = true) : (s.askStop k x).atBoundary k x = s.atBoundary k x := by
  simp [State.atBoundary, State.askStop, live, Ctx.committed]
/-- A wide side that is ready for the stop stays so once the stop is asked for. -/
theorem State.stopReady_askStop {s : State} {k x : Nat} (live : (s.core k).live x = true) (ready : s.stopReady k x = true) :
    (s.askStop k x).stopReady k x = true := by
  have core : (s.askStop k x).core k = (s.core k).ask x := State.core_setCtx ..
  simp only [State.stopReady, Bool.and_eq_true] at ready
  obtain ⟨⟨⟨⟨pairs, started⟩, heads⟩, aside⟩, outs⟩ := ready
  rw [State.stopReady, core]
  simp only [Bool.and_eq_true]
  refine ⟨⟨⟨⟨pairs, started⟩, ?_⟩, aside⟩, outs⟩
  simp only [Bool.not_eq_true', List.any_eq_false] at heads ⊢
  intro e he
  have none := heads e he
  simp only [List.any_eq_true, Bool.and_eq_true, not_exists, not_and] at none ⊢
  exact fun q hq own starts => none q hq own (Core.canStart_of_ask live starts)

/-- The request is made of a live context that is not stopped. -/
theorem exec_contextStop {s : State} {k x : Nat} (works : s.works k = true) (live : (s.core k).live x = true)
    (runs : ∀ y, (s.ctx k x).run ≠ .stopped y) :
    exec (.contextStop k x) s = .next (if s.atBoundary k x && (s.askStop k x).stopReady k x then (s.askStop k x).stopCtx k x else s.askStop k x) := by
  show execContextStop k x s = _
  simp only [execContextStop, works, live, State.atBoundary_askStop s k x live, Bool.not_true, Bool.or_self, Bool.false_eq_true, if_false]

/-- Context `x` stopped, once it has left the word that it waited in (R92, R236). -/
def Ctx.stopAt (h : Ctx) (now pc : Nat) : Ctx :=
  { h.setRun now (.stopped .saved) with
    pc := pc, mode := if h.mode = .loc then .loc else .joining pc, keeps := false, stopping := false, waited := false, ahead := [] }

/-- Its core before the image is written: what the core has buffered of the stream is lost to context 0, and a pair is one no more. -/
def Core.halt (c : Core) (now x : Nat) : Core :=
  let c1 : Core := if x = 0 then { c with stream := { c.stream with buf := [], lost := (c.stream.buf.map (·.idx)).foldl nput c.stream.lost } } else c
  ({ c1 with pairs := kdel c1.pairs x } : Core).setCtx x ((c.ctx x).stopAt now (c.stopPc (c.ctx x)))

@[simp] theorem Core.ctx_halt (c : Core) (now x : Nat) : (c.halt now x).ctx x = (c.ctx x).stopAt now (c.stopPc (c.ctx x)) := Core.ctx_setCtx ..
@[simp] theorem Core.halt_upq (c : Core) (now x : Nat) : (c.halt now x).upq = c.upq := by
  show (if x = 0 then _ else c : Core).upq = c.upq
  split <;> rfl

theorem State.stopCtx_core (s : State) (k x : Nat) : (s.stopCtx k x).core k = (((s.core k).leave x).halt s.now x).putImage s.now x := by
  have shape : s.stopCtx k x = ((s.leaveWait k x).setCore k (((s.leaveWait k x).core k).halt s.now x)).writeImage k x := rfl
  rw [shape, State.writeImage, State.core_setCore, State.core_setCore, State.setCore_now, State.leaveWait_now, State.leaveWait_core]
@[simp] theorem State.stopCtx_gmem (s : State) (k x : Nat) : (s.stopCtx k x).gmem = s.gmem := by
  simp [State.stopCtx, State.writeImage]

/-- In local mode the image names the PC at which the context stands. -/
theorem Core.stopPc_loc {c : Core} {h : Ctx} (mode : h.mode = .loc) : c.stopPc h = h.pc := by
  rw [Core.stopPc, mode]

theorem State.stopCtx_ctx {s : State} {k x : Nat} (mode : (s.ctx k x).mode = .loc) :
    (s.stopCtx k x).ctx k x = { (s.ctx k x).stopAt s.now (s.ctx k x).pc with acc := none, rep := none } := by
  have here : ((s.core k).leave x).ctx x = { s.ctx k x with acc := none, rep := none } := Core.ctx_leave ..
  rw [State.ctx, State.stopCtx_core, Core.ctx_putImage, Core.ctx_halt, Core.stopPc_loc (by rw [here]; exact mode), here]
  rfl

theorem State.stopCtx_image {s : State} {k x : Nat} (mode : (s.ctx k x).mode = .loc) :
    mread ((s.stopCtx k x).core k).lmem (imageAt x) 512
      = ((s.stopCtx k x).ctx k x).image s.now (s.ctx k x).pc (x = 0 ∧ (s.core k).upq ≠ []) := by
  have inOrder : ((s.stopCtx k x).ctx k x).mode = .loc := by rw [State.stopCtx_ctx mode]; simp [Ctx.stopAt, mode]
  have pc : ((s.stopCtx k x).ctx k x).pc = (s.ctx k x).pc := by rw [State.stopCtx_ctx mode]; rfl
  have here : (((s.core k).leave x).halt s.now x).ctx x = (s.stopCtx k x).ctx k x := by
    rw [State.ctx, State.stopCtx_core, Core.ctx_putImage]
  rw [State.stopCtx_core, Core.putImage_reads, Core.halt_upq, Core.leave_upq, here, Core.stopPc_loc inOrder, pc]

/-! ### Restores (R93, R236) -/

theorem State.resumed_loc (s : State) (k x : Nat) {h : Ctx} (mode : h.mode = .loc) : s.resumed k x h = s := if_pos mode

theorem exec_contextRestore_live {s : State} {k x : Nat} (live : (s.core k).live x = true) (works : s.works k = true) (stays : s.draining k = false)
    (stopped : (s.ctx k x).run = .stopped .saved) (mode : ((s.core k).getImage s.now x).mode = .loc) :
    exec (.contextRestore k x) s = .next (s.setCtx k x { (s.core k).getImage s.now x with run := .running }) := by
  have run : ((s.core k).ctx x).run = .stopped .saved := stopped
  show execContextRestore k x s = _
  simp only [execContextRestore, live, works, stays, run, State.resumed_loc _ k x mode, Bool.not_true, Bool.or_self, Bool.false_eq_true, if_false,
    ne_eq, not_true, decide_false]

theorem exec_contextRestore_saved {s : State} {k x i : Nat} (gone : (s.core k).live x = false) (works : s.works k = true)
    (stays : s.draining k = false) (entry : s.savedEntry k x = some i) :
    exec (.contextRestore k x) s = .next (s.restoreSaved k x i) := by
  show execContextRestore k x s = _
  simp only [execContextRestore, gone, works, stays, entry, Bool.not_true, Bool.not_false, Bool.or_self, Bool.false_eq_true, if_false, if_true]

/-- What a context brings back with it leaves the core's contexts alone. -/
theorem SavedCtx.place_ctxs (v : SavedCtx) (c : Core) (k x : Nat) : (v.place c k x).ctxs = c.ctxs := by
  unfold SavedCtx.place
  dsimp only
  split <;> split <;> simp

theorem Core.setEng_ctxs (c : Core) (e : Eng) (v : Engine) : (c.setEng e v).ctxs = c.ctxs := by cases e <;> rfl

/-- Its commands queue again, which leaves the contexts alone. -/
theorem Core.requeue_ctxs (cmds : List Cmd) (c : Core) :
    (cmds.foldl (fun c q => c.setEng (engOf q.instr) { c.eng (engOf q.instr) with queue := (c.eng (engOf q.instr)).queue ++ [q] }) c).ctxs = c.ctxs := by
  induction cmds generalizing c with
  | nil => rfl
  | cons q cmds ih => rw [List.foldl_cons, ih, Core.setEng_ctxs]

theorem State.unsaved_ctxs (s : State) (t i k x : Nat) (h : Ctx) : ((s.unsaved t i k x h).core k).ctxs = kput (s.core k).ctxs x h := by
  have placed : ((match kget (s.terr t).saved i with | some v => v.place (s.core k) k x | none => s.core k).setCtx x h).ctxs
      = kput (s.core k).ctxs x h := by
    cases kget (s.terr t).saved i with
    | none => rfl
    | some v => simp only [Core.setCtx, SavedCtx.place_ctxs]
  rw [State.unsaved, State.core_setTerr, State.core_setCore]
  dsimp only
  split
  · rw [Core.lwrite_ctxs, Core.requeue_ctxs]
    exact placed
  · rw [Core.requeue_ctxs]
    exact placed

theorem State.unsaved_core_ne (s : State) (t i x : Nat) {j k : Nat} (h : Ctx) (other : j ≠ k) : (s.unsaved t i k x h).core j = s.core j := by
  rw [State.unsaved, State.core_setTerr]
  exact State.core_setCore_ne s _ other
theorem State.unsaved_saved (s : State) (t i k x : Nat) (h : Ctx) : kget ((s.unsaved t i k x h).terr t).saved i = none := by
  rw [State.unsaved, State.terr_setTerr, kget_kdel, if_pos rfl]

/-- A context of local mode comes back from its save entry: it runs, the entry is no longer held, and the territory is not paused (R93, R374). -/
theorem State.restoreSaved_spec {s : State} {k x i : Nat} {v : SavedCtx} (held : kget (s.terr (s.terrOf k)).saved i = some v)
    (mode : (Ctx.ofImage v.ctx s.now (s.gread (s.terrOf k) (s.entryAt (s.terrOf k) i + 128) 512)).mode = .loc) :
    let t := s.restoreSaved k x i
    (t.core k).live x = true
      ∧ t.ctx k x = { Ctx.ofImage v.ctx s.now (s.gread (s.terrOf k) (s.entryAt (s.terrOf k) i + 128) 512) with run := .running, acc := none }
      ∧ kget (t.terr (s.terrOf k)).saved i = none ∧ (t.terr (s.terrOf k)).paused = false ∧ ∀ j, j ≠ k → t.core j = s.core j := by
  simp only [State.restoreSaved, held, State.resumed_loc _ k x mode, State.core_setTerr, State.ctx_setTerr, State.terr_setTerr, State.unsaved_saved]
  refine ⟨?_, ?_, trivial, trivial, fun j other => State.unsaved_core_ne s _ i x _ other⟩
  · rw [Core.live, State.unsaved_ctxs, kget_kput_self]; rfl
  · rw [State.ctx, Core.ctx, State.unsaved_ctxs, kget_kput_self]; rfl

/-! ### A trap's entry, and a step that acts for a context -/

/-- The context in the handler of a trap (R89). -/
def Ctx.trapped (c : Ctx) (now : Nat) (cause : BitVec 8) (eval : Word) : Ctx :=
  { c.setRun now .running with
    spr := { c.spr with epc := word c.pc, ecause := cause, eval := eval, hlatch := c.latch, plev := c.level, upc := false, inh := true,
                        str := c.mode != .loc }
    keeps := c.streamed, latch := Latch.empty, mode := .loc, rep := none, acc := none, waited := false, ahead := []
    pc := 4 * (c.spr.tvec.toNat / 4) }

theorem trap_of_canTrap {s : State} (h : s.canTrap) (cause : BitVec 8) (eval : Word) :
    s.trap cause eval = s.setCx (s.cx.trapped s.now cause eval) := by
  obtain ⟨enabled, outside, noLoad⟩ := h
  simp only [State.trap, enabled, outside, noLoad, Option.isSome_none, Bool.not_true, Bool.or_self, Bool.false_eq_true, if_false]
  rfl

/-! ### Packets (R194) -/

theorem State.settle_live {s : State} {k x : Nat} (live : (s.core k).live x = true) (w : Slot) (e : Ending) :
    s.settle k x (some w) e = s.setCtx k x { (s.ctx k x).setTok w (((s.ctx k x).tok w).settle e) with
      event := (s.ctx k x).event || ((((s.ctx k x).tok w).settle e).st != .busy) } := by
  simp only [State.settle, live, if_true]

/-- The packet is dropped and its token faults. -/
def State.abortPkt (s : State) (k x : Nat) (p : Pkt) : State :=
  ((s.setCtx k x { s.ctx k x with pkt := none }).dropPkt (some p)).settle k x (some p.tok) (.faulted packetAbort)

theorem State.abortPkt_frame (s : State) (k x : Nat) (p : Pkt) :
    OnlyCoreNet s (s.abortPkt k x p) k ∧ (s.abortPkt k x p).net = s.net.filter (fun m => m.body ≠ .opening p.uid)
      ∧ ∃ e, (s.abortPkt k x p).ctx k x
          = { (s.ctx k x).setTok p.tok (((s.ctx k x).tok p.tok).settle (.faulted packetAbort)) with pkt := none, event := e } := by
  have live : (((s.setCtx k x { s.ctx k x with pkt := none }).dropPkt (some p)).core k).live x = true := by
    show ((s.setCtx k x { s.ctx k x with pkt := none }).core k).live x = true
    simp
  have here : ((s.setCtx k x { s.ctx k x with pkt := none }).dropPkt (some p)).ctx k x = { s.ctx k x with pkt := none } := State.ctx_setCtx s k x _
  rw [State.abortPkt, State.settle_live live, here, State.ctx_setCtx]
  refine ⟨⟨rfl, fun j other => ?_⟩, rfl, _, rfl⟩
  rw [State.core_setCtx_ne _ _ _ other]
  exact State.core_setCtx_ne s _ _ other

section
variable {s : State} {k x : Nat} {p : Pkt} (opened : (s.ctx k x).pkt = some p) (live : (s.core k).live x = true) (works : s.works k = true)
  (old : p.openedAt + 1024 ≤ s.now) (pending : (s.ctx k x).committed = false) (noLoad : (s.ctx k x).load = none)
include opened live works old pending noLoad

theorem exec_packetAbort (runs : ∀ y, (s.ctx k x).run ≠ .stopped y) :
    exec (.packetAbort k x) s = .next (((s.abortPkt k x p).leaveWait k x).asCtx k x fun s =>
      (s.setCx { s.cx with pc := s.me.stopPc s.cx }).trap packetAbort (word p.pc)) := by
  have idle : (s.ctx k x).load.isSome = false := by rw [noLoad]; rfl
  show execPacketAbort k x s = _
  simp only [execPacketAbort, opened, live, works, pending, idle, Nat.not_lt.mpr old, Bool.not_true, Bool.or_self, Bool.false_eq_true,
    if_false, decide_false]
  rfl

end

/-- In local mode, with a handler to enter, a step that acts for a context so traps it where it stands. -/
theorem State.asCtx_trap {s : State} {k x : Nat} (mode : (s.ctx k x).mode = .loc) (enabled : (s.ctx k x).spr.tvec.getLsbD 0 = true)
    (outside : (s.ctx k x).spr.inh = false) (noLoad : (s.ctx k x).load = none) (cause : BitVec 8) (eval : Word) :
    (s.asCtx k x fun s => (s.setCx { s.cx with pc := s.me.stopPc s.cx }).trap cause eval)
      = s.setCtx k x ((s.ctx k x).trapped s.now cause eval) := by
  have here : ({ s with cur := (k, x) } : State).cx = s.ctx k x := rfl
  have same : ({ s.ctx k x with pc := ({ s with cur := (k, x) } : State).me.stopPc (s.ctx k x) } : Ctx) = s.ctx k x := by
    rw [Core.stopPc_loc mode]
  rw [State.asCtx, here, same, trap_of_canTrap (by rw [State.canTrap, State.cx_setCx]; exact ⟨enabled, outside, noLoad⟩), State.cx_setCx,
    State.setCx_setCx]
  rfl

/-! ### Helper slots (R94) -/

/-- The helper's image read back in its slot. -/
def Core.takeSlot (c : Core) (now x : Nat) : Core := c.setCtx x ((c.getImage now x).setRun now .running)

/-- The core of a helper in HJOIN that has given up its slot, its image written. -/
def Core.giveSlot (c : Core) (now y : Nat) (stopping : Bool) : Core :=
  ((c.leave y).setCtx y { ((c.leave y).ctx y).setRun now (.stopped .slot) with stopping := stopping, slotAt := now }).putImage now y

/-- A helper parked in HJOIN, whose slot another one may take. -/
def Ctx.inJoin (h : Ctx) : Bool := match h.run with | .parked (.child _) => true | _ => false
def State.yieldsSlot (s : State) (k : Nat) (e : Nat × Ctx) : Bool :=
  1 ≤ e.1 && e.1 ≤ 10 && (e.2.inJoin && ((s.core k).joins e.1).isSome && s.atBoundary k e.1 && s.stopReady k e.1)

section
variable {s : State} {k x : Nat} {h : Ctx} (waits : (s.core k).slotWaiters = [(x, h)])
include waits

theorem exec_helperSlotRestore_free (free : (s.core k).slotsUsed + s.reservedOn k < (s.core k).slots) :
    exec (.helperSlotRestore k) s = .next (s.setCore k ((s.core k).takeSlot s.now x)) := by
  show execHelperSlotRestore k s = _
  simp only [execHelperSlotRestore, waits, List.foldl_cons, List.foldl_nil, free, if_true]
  rfl

variable (full : (s.core k).slots ≤ (s.core k).slotsUsed + s.reservedOn k)
include full

theorem exec_helperSlotRestore_full :
    exec (.helperSlotRestore k) s = .next (match (s.core k).ctxs.find? (s.yieldsSlot k) with
      | none => s
      | some (y, g) => (s.leaveWait k y).setCore k (((s.core k).giveSlot s.now y g.stopping).takeSlot s.now x)) := by
  show execHelperSlotRestore k s = _
  simp only [execHelperSlotRestore, waits, List.foldl_cons, List.foldl_nil, Nat.not_lt.mpr full, if_false, State.leaveWait_core]
  rfl

end

/-- Where one entry alone has a property, the search for a stronger one that it has finds it. -/
theorem find?_of_filter_singleton {α : Type} {l : List α} {p q : α → Bool} {e : α} (only : l.filter q = [e]) (stronger : ∀ a, p a = true → q a = true)
    (he : p e = true) : l.find? p = some e := by
  induction l with
  | nil => simp at only
  | cons a l ih =>
    by_cases hq : q a = true
    · rw [List.filter_cons_of_pos hq, List.cons.injEq] at only
      rw [only.1, List.find?_cons_of_pos he]
    · rw [List.filter_cons_of_neg hq] at only
      rw [List.find?_cons_of_neg (fun hp => hq (stronger a hp)), ih only]

theorem find?_of_filter_nil {α : Type} {l : List α} {p q : α → Bool} (no : l.filter q = []) (stronger : ∀ a, p a = true → q a = true) :
    l.find? p = none := by
  rw [List.find?_eq_none]
  exact fun a ha hp => List.filter_eq_nil_iff.mp no a ha (stronger a hp)

theorem State.inJoin_of_yieldsSlot {s : State} {k : Nat} (e : Nat × Ctx) (h : s.yieldsSlot k e = true) : e.2.inJoin = true := by
  simp only [State.yieldsSlot, Bool.and_eq_true] at h
  obtain ⟨-, ⟨⟨join, -⟩, -⟩, -⟩ := h
  exact join

theorem Core.ctx_takeSlot (c : Core) (now x : Nat) : (c.takeSlot now x).ctx x = (c.getImage now x).setRun now .running := Core.ctx_setCtx ..
theorem Core.ctx_takeSlot_ne (c : Core) (now : Nat) {x y : Nat} (h : y ≠ x) : (c.takeSlot now x).ctx y = c.ctx y := Core.ctx_setCtx_ne _ _ h
@[simp] theorem Core.takeSlot_lmem (c : Core) (now x : Nat) : (c.takeSlot now x).lmem = c.lmem := rfl
theorem Core.ctx_giveSlot (c : Core) (now y : Nat) (b : Bool) :
    (c.giveSlot now y b).ctx y = { (c.ctx y).setRun now (.stopped .slot) with acc := none, rep := none, stopping := b, slotAt := now } := by
  rw [Core.giveSlot, Core.ctx_putImage, Core.ctx_setCtx, Core.ctx_leave]
  rfl

/-- Another helper's image reads back as it stood. -/
theorem Core.getImage_giveSlot (c : Core) (now : Nat) {x y : Nat} (b : Bool) (h : x ≠ y) : (c.giveSlot now y b).getImage now x = c.getImage now x := by
  rw [Core.getImage, Core.lread, Core.giveSlot, Core.ctx_putImage, Core.ctx_setCtx_ne _ _ h, Core.ctx_leave_ne _ h, Core.putImage_reads_ne _ _ h]
  rfl

/-- The image names where a stop would have it go on (R118, R236). -/
theorem Core.giveSlot_image (c : Core) (now : Nat) {y : Nat} (b : Bool) (h : y ≠ 0) :
    mread (c.giveSlot now y b).lmem (imageAt y) 512 = ((c.giveSlot now y b).ctx y).image now (c.stopPc (c.ctx y)) False := by
  have here := c.ctx_giveSlot now y b
  rw [Core.giveSlot, Core.ctx_putImage] at here
  rw [Core.giveSlot, Core.putImage_reads, Core.ctx_putImage, here]
  simp only [h, false_and]
  rfl

/-! ### The end of a wait for an event (R100) -/

theorem exec_wfeTimeout {s : State} {k x : Nat} {d a : Reg} {idle b : Bool} {at_ : Nat} (live : (s.core k).live x = true) (works : s.works k = true)
    (goes : (s.ctx k x).stopping = false) (waits : (s.ctx k x).run = .parked (.event b (some at_))) (next : s.nextWord k x = some (.wfe d a idle))
    (past : at_ ≤ s.now) (noEvent : (s.ctx k x).event = false) (mode : (s.ctx k x).mode = .loc) (once : (s.ctx k x).rep = none) :
    exec (.wfeTimeout k x) s = .next (s.setCtx k x (((s.ctx k x).setReg d 1).complete s.now ((s.ctx k x).pc + 4))) := by
  have order : ({ s with cur := (k, x) } : State).inOrder := ⟨once, mode⟩
  show execWfeTimeout k x s = _
  simp only [execWfeTimeout, live, works, goes, waits, next, past, noEvent, State.asCtx, done_of_inOrder order, Bool.not_true, Bool.not_false, Bool.or_self,
    Bool.false_eq_true, if_false, decide_true, Bool.and_self, if_true]
  rfl

/-! ### The burner (R104, R323) -/

/-- What an upcall leaves alone: the states of the cores, global memory, and every context. -/
def UpcallFrame (s t : State) : Prop := t.stats = s.stats ∧ t.gmem = s.gmem ∧ ∀ j, (t.core j).ctxs = (s.core j).ctxs

theorem UpcallFrame.trans {s t u : State} (h : UpcallFrame s t) (h' : UpcallFrame t u) : UpcallFrame s u :=
  ⟨h'.1.trans h.1, h'.2.1.trans h.2.1, fun j => (h'.2.2 j).trans (h.2.2 j)⟩

theorem UpcallFrame.stat {s t : State} (h : UpcallFrame s t) (j : Nat) : t.stat j = s.stat j := by rw [State.stat, h.1]; rfl

theorem State.upcall_frame (s : State) (k : Nat) (c : BitVec 8) (v : Word) : UpcallFrame s (s.upcall k c v) := by
  unfold State.upcall
  split
  · split <;> exact ⟨rfl, rfl, fun _ => rfl⟩
  · dsimp only
    split
    · refine ⟨rfl, rfl, fun j => ?_⟩
      by_cases same : j = k
      · rw [same, State.core_setCore]
      · rw [State.core_setCore_ne _ _ same]
    · exact ⟨rfl, rfl, fun _ => rfl⟩

/-- The neighbours of a fenced core hear of it. -/
def State.tellNeighbours (s : State) (k : Nat) : State :=
  (neighbours k).foldl (fun s n =>
    if (s.tagOf k).isSome && s.tagOf n.2 == s.tagOf k && (s.core n.2).live 0 && !s.disabled.contains n.2 then
      s.upcall n.2 neighbourFenced (word ((n.1 + 2) % 4 * 2 ^ 12 + k))
    else s) s

theorem State.tellNeighbours_frame (s : State) (k : Nat) : UpcallFrame s (s.tellNeighbours k) := by
  unfold State.tellNeighbours
  induction neighbours k generalizing s with
  | nil => exact ⟨rfl, rfl, fun _ => rfl⟩
  | cons n ns ih =>
    rw [List.foldl_cons]
    split
    · exact (s.upcall_frame ..).trans (ih _)
    · exact ih s

theorem exec_burnerExpiry {s : State} {k x : Nat} (live : (s.core k).live x = true) (works : s.works k = true) (armed : (s.ctx k x).spr.hbtiv ≠ 0)
    (ages : (s.ctx k x).run.ages = true) (empty : (s.ctx k x).burnLeft s.now = 0) :
    exec (.burnerExpiry k x) s = .next (((s.setStat k { s.stat k with fenced := true }).tellNeighbours k).report k 0 0 0 5 x 0 0) := by
  show execBurnerExpiry k x s = _
  simp only [execBurnerExpiry, live, works, armed, ages, empty, Bool.not_true, Bool.or_self, Bool.false_eq_true, if_false, decide_false, ne_eq,
    not_true]
  rfl

theorem State.stat_report (s : State) (k flags fid reason kind ctx j : Nat) (pa va : Word) :
    (s.report k flags fid reason kind ctx pa va).stat j = s.stat j := rfl

/-- Byte 19 of a fault message is its kind (Table 17.6). -/
theorem faultBytes_kind (time : Word) (flags terr fid reason kind ctx core : Nat) (pa va : Word) :
    (faultBytes time flags terr fid reason kind ctx core pa va).getD 19 0 = BitVec.ofNat 8 kind := by
  rfl

/-! ### The clauses of O48 -/

section
variable {s : State} {k x : Nat}

/-- A stop at a boundary takes effect once the wide side is ready: the request itself makes neither untrue (R92). -/
theorem contextStop_stops (works : s.works k = true) (boundary : s.atBoundary k x = true) (ready : s.stopReady k x = true)
    (mode : (s.ctx k x).mode = .loc) : Answers (.contextStop k x) s fun t =>
      (t.ctx k x).run = .stopped .saved ∧ (t.ctx k x).pc = (s.ctx k x).pc ∧ RegsSame (s.ctx k x) (t.ctx k x)
        ∧ mread (t.core k).lmem (imageAt x) 512 = (t.ctx k x).image s.now (s.ctx k x).pc (x = 0 ∧ (s.core k).upq ≠ []) ∧ t.gmem = s.gmem := by
  have live := State.live_of_atBoundary boundary
  have asked : (s.askStop k x).ctx k x = { s.ctx k x with stopping := true } := State.ctx_setCtx ..
  have mode' : ((s.askStop k x).ctx k x).mode = .loc := by rw [asked]; exact mode
  have run := exec_contextStop works live (State.running_of_atBoundary boundary)
  rw [if_pos (by rw [boundary, State.stopReady_askStop live ready]; rfl)] at run
  have image := State.stopCtx_image mode'
  have upq : ((s.askStop k x).core k).upq = (s.core k).upq := by simp [State.askStop]
  rw [upq] at image
  simp only [asked] at image
  have ctx := State.stopCtx_ctx mode'
  rw [asked] at ctx
  exact ⟨_, run, by rw [ctx]; rfl, by rw [ctx]; rfl, by rw [ctx]; exact .of_fields rfl rfl rfl, image, by simp [State.askStop]⟩

/-- A helper in HJOIN gives up its slot to the one that waits (R94). -/
theorem helperSlotRestore_swaps {y : Nat} {h h' : Ctx} {d a : Reg} (waits : (s.core k).slotWaiters = [(x, h)])
    (full : (s.core k).slots ≤ (s.core k).slotsUsed + s.reservedOn k) (joins : (s.core k).ctxs.filter (fun e => e.2.inJoin) = [(y, h')])
    (low : 1 ≤ y) (high : y ≤ 10) (other : y ≠ x) (next : s.nextWord k y = some (.hjoin d a)) (boundary : s.atBoundary k y = true)
    (ready : s.stopReady k y = true) : Answers (.helperSlotRestore k) s fun t =>
      (t.ctx k x).run = .running ∧ RegsSame ((s.core k).getImage s.now x) (t.ctx k x) ∧ (t.ctx k y).run = .stopped .slot
        ∧ RegsSame (s.ctx k y) (t.ctx k y)
        ∧ mread (t.core k).lmem (imageAt y) 512 = (t.ctx k y).image s.now ((s.core k).stopPc (s.ctx k y)) False
        ∧ ∀ j, j ≠ k → t.core j = s.core j := by
  have joined : ((s.core k).joins y).isSome = true := by
    have here : (s.core k).nextWord y = some (.hjoin d a) := next
    rw [Core.joins, here]
    rfl
  have entry : (y, h') ∈ (s.core k).ctxs.filter (fun e => e.2.inJoin) := by rw [joins]; exact List.mem_singleton_self _
  have parked : h'.inJoin = true := (List.mem_filter.mp entry).2
  have yields : s.yieldsSlot k (y, h') = true := by simp [State.yieldsSlot, low, high, parked, joined, boundary, ready]
  have run := exec_helperSlotRestore_full waits full
  rw [find?_of_filter_singleton joins State.inJoin_of_yieldsSlot yields] at run
  refine ⟨_, run, ?_⟩
  simp only [State.core_setCore, State.ctx_setCore, Core.ctx_takeSlot, Core.ctx_takeSlot_ne _ _ other, Core.takeSlot_lmem,
    Core.getImage_giveSlot _ _ _ (Ne.symm other)]
  refine ⟨Ctx.setRun_run .., .setRun .., ?_, ?_, ?_, fun j away => ?_⟩
  · rw [Core.ctx_giveSlot, Ctx.setRun_run]
  · rw [Core.ctx_giveSlot]
    exact .of_fields rfl rfl rfl
  · exact Core.giveSlot_image (s.core k) s.now _ (by omega)
  · rw [State.core_setCore_ne _ _ away, State.leaveWait_core_ne _ _ away]

/-- The packet goes, and its context traps where it stands, out of the word that it waits in (R194). -/
theorem packetAbort_traps {p : Pkt} (opened : (s.ctx k x).pkt = some p) (live : (s.core k).live x = true) (works : s.works k = true)
    (old : p.openedAt + 1024 ≤ s.now) (pending : (s.ctx k x).committed = false) (noLoad : (s.ctx k x).load = none)
    (runs : ∀ y, (s.ctx k x).run ≠ .stopped y) (mode : (s.ctx k x).mode = .loc) (enabled : (s.ctx k x).spr.tvec.getLsbD 0 = true)
    (outside : (s.ctx k x).spr.inh = false) : Answers (.packetAbort k x) s fun t =>
      let h' := t.ctx k x
      { t with cores := s.cores, net := s.net, clusters := s.clusters, terrs := s.terrs } = s ∧ (∀ j, j ≠ k → t.core j = s.core j)
        ∧ t.net = s.net.filter (fun m => m.body ≠ .opening p.uid) ∧ h'.pkt = none ∧ h'.run = .running ∧ h'.acc = none
        ∧ h'.tok p.tok = ((s.ctx k x).tok p.tok).settle (.faulted 0x0E) ∧ h'.spr.ecause = 0x0E
        ∧ h'.spr.eval = word p.pc ∧ h'.spr.epc = word (s.ctx k x).pc ∧ h'.pc = 4 * ((s.ctx k x).spr.tvec.toNat / 4) ∧ RegsSame (s.ctx k x) h' := by
  obtain ⟨⟨frame, cores⟩, net, e, aborted⟩ := s.abortPkt_frame k x p
  have here : ((s.abortPkt k x p).leaveWait k x).ctx k x
      = { (s.ctx k x).setTok p.tok (((s.ctx k x).tok p.tok).settle (.faulted packetAbort)) with pkt := none, event := e, acc := none, rep := none } := by
    rw [State.ctx_leaveWait, aborted]
  have run := exec_packetAbort opened live works old pending noLoad runs
  rw [State.asCtx_trap (by rw [here]; exact mode) (by rw [here]; exact enabled) (by rw [here]; exact outside) (by rw [here]; exact noLoad), here] at run
  refine ⟨_, run, ?_, fun j other => ?_, ?_, ?_⟩
  · obtain ⟨cs, ts, left⟩ := (s.abortPkt k x p).leaveWait_frame k x
    rw [left]
    exact congrArg (fun v : State => { v with clusters := s.clusters, terrs := s.terrs }) frame
  · rw [State.core_setCtx_ne _ _ _ other, State.leaveWait_core_ne _ _ other, cores j other]
  · rw [State.setCtx_net, State.leaveWait_net, net]
  · simp only [State.ctx_setCtx]
    exact ⟨rfl, rfl, rfl, Ctx.tok_setTok .., rfl, rfl, rfl, rfl, .of_fields rfl rfl rfl⟩

end

/-- Settles O48: each step's successor state is the lemma `exec_…` about it. -/
theorem contextSteps : Obligations.ContextSteps := by
  refine ⟨⟨?upcall, ?retry⟩, fun s k x => ⟨contextStop_stops, ?ask, ?restore, ?saved, ?packet, ?slot, ?wfe, ?burner⟩⟩
  case upcall =>
    intro s k c v rest works queued boundary outside goes
    refine ⟨fun pc entry mode => ?_, fun pc entry mode => ?_, fun entry => ?_⟩
    · have pcSaved := Core.stopPc_loc (c := s.core k) mode
      refine ⟨_, exec_upcallDelivery_entry works queued boundary outside goes entry, ?_⟩
      simp only [State.ctx_upcallTaken]
      exact ⟨by simp, by simp [State.upcallCtx, pcSaved], rfl, fun other => State.upcallEval_of_ne s k v other, rfl, rfl, rfl, rfl,
        by simp [State.upcallCtx, mode], rfl, rfl, rfl, rfl, s.upcallCtx_regs .., by simp, by simp⟩
    · refine ⟨_, exec_upcallDelivery_entry works queued boundary outside goes entry, ?_⟩
      simp only [State.ctx_upcallTaken]
      exact ⟨by simp, rfl, rfl, rfl, rfl, by simp [State.upcallCtx, mode], rfl, rfl, rfl, rfl, s.upcallCtx_regs .., by simp⟩
    · exact ⟨_, exec_upcallDelivery_none works queued boundary outside goes entry, .setCore .., by simp, by rw [State.ctx_setCore]; rfl⟩
  case retry =>
    exact fun s i h held room oldest => ⟨_, exec_upcallRetry held room oldest, congrArg Core.upq (State.core_setCore s h.core _), rfl,
      fun j other => State.core_setCore_ne s _ other⟩
  case ask =>
    intro works live runs inside
    have run := exec_contextStop works live runs
    rw [if_neg (by simp [inside])] at run
    exact ⟨_, run, .setCtx .., State.ctx_setCtx ..⟩
  case restore =>
    exact fun live works stays stopped mode => ⟨_, exec_contextRestore_live live works stays stopped mode, .setCtx .., State.ctx_setCtx ..⟩
  case saved =>
    exact fun i v gone works stays entry held mode => ⟨_, exec_contextRestore_saved gone works stays entry, State.restoreSaved_spec held mode⟩
  case packet =>
    exact fun p => packetAbort_traps
  case slot =>
    intro low high waits
    refine ⟨fun free => ?_, fun y h d a full joins yLow yHigh other next boundary ready => ?_, fun full joins => ?_⟩
    · exact ⟨_, exec_helperSlotRestore_free waits free, .setCore .., by rw [State.ctx_setCore, Core.ctx_takeSlot]; rfl⟩
    · exact helperSlotRestore_swaps waits full joins yLow yHigh other next boundary ready
    · have run := exec_helperSlotRestore_full waits full
      rw [find?_of_filter_nil joins State.inJoin_of_yieldsSlot] at run
      exact ⟨_, run, rfl⟩
  case wfe =>
    intro d a idle b at_ live works goes waits next past noEvent mode once
    refine ⟨_, exec_wfeTimeout live works goes waits next past noEvent mode once, .setCtx .., ?_⟩
    simp only [State.ctx_setCtx]
    exact ⟨(RegFile.setReg ..).complete .., rfl, rfl⟩
  case burner =>
    intro live works armed ages empty
    have told := (s.setStat k { s.stat k with fenced := true }).tellNeighbours_frame k
    have ⟨_, gmem, ctxs⟩ := told
    refine ⟨_, exec_burnerExpiry live works armed ages empty, ?_, fun j other => ?_, gmem, ctxs, ?_⟩
    · rw [State.stat_report, told.stat, State.stat_setStat]
    · rw [State.stat_report, told.stat, State.stat_setStat_ne _ _ other]
    · exact ⟨_, _, List.getLast?_concat .., rfl, rfl, rfl, faultBytes_kind ..⟩

end Sys2Proof.Machine
end

section
/-! What the scalar words of chapter 6 share: the state in which their bodies run, how they read their sources, complete, wait and trap. -/

namespace Sys2Proof.Machine

theorem State.ready.order {s : State} {lv : Level} (h : s.ready lv) : s.inOrder := h.2.2
theorem State.inOrder.once {s : State} (h : s.inOrder) : s.cx.rep = none := h.1
theorem State.inOrder.mode {s : State} (h : s.inOrder) : s.cx.mode = .loc := h.2
theorem State.readable.of_pair {s : State} {d a : Reg} (h : s.readable [d, a]) : s.readable [a] := fun r hr => h r (List.mem_cons_of_mem _ hr)
theorem State.readable.good {s : State} {rs : List Reg} (h : s.readable rs) : rs.any s.cx.isBad = false := by
  refine List.any_eq_false.mpr fun r hr => ?_
  obtain ⟨-, good, -⟩ := h r hr
  simp [good]

/-! ### The state in which a word's body runs (R47) -/

section
variable (s : State)

@[simp] theorem State.past_isFull (r : Reg) : s.past.cx.isFull r = s.cx.isFull r := by obtain ⟨w, h⟩ := s.past_cx; rw [h]; rfl
@[simp] theorem State.past_isBad (r : Reg) : s.past.cx.isBad r = s.cx.isBad r := by obtain ⟨w, h⟩ := s.past_cx; rw [h]; rfl
@[simp] theorem State.past_loading (r : Reg) : s.past.cx.loading r = s.cx.loading r := by obtain ⟨w, h⟩ := s.past_cx; rw [h]; rfl
@[simp] theorem State.past_pc : s.past.cx.pc = s.cx.pc := by obtain ⟨w, h⟩ := s.past_cx; rw [h]
@[simp] theorem State.past_mode : s.past.cx.mode = s.cx.mode := by obtain ⟨w, h⟩ := s.past_cx; rw [h]
@[simp] theorem State.past_rep : s.past.cx.rep = s.cx.rep := by obtain ⟨w, h⟩ := s.past_cx; rw [h]
@[simp] theorem State.past_latch : s.past.cx.latch = s.cx.latch := by obtain ⟨w, h⟩ := s.past_cx; rw [h]
@[simp] theorem State.past_imm (m : BitVec 12) : s.past.cx.imm m = s.cx.imm m := by obtain ⟨w, h⟩ := s.past_cx; rw [h]; rfl
@[simp] theorem State.past_complete (n pc : Nat) : s.past.cx.complete n pc = s.cx.complete n pc := by
  obtain ⟨w, h⟩ := s.past_cx; rw [h]; rfl
@[simp] theorem State.past_trapped (n : Nat) (c : BitVec 8) (v : Word) : s.past.cx.trapped n c v = s.cx.trapped n c v := by
  obtain ⟨w, h⟩ := s.past_cx; rw [h]; rfl
@[simp] theorem State.past_clusters : s.past.clusters = s.clusters := by unfold State.past; split <;> rfl
@[simp] theorem State.past_gmem : s.past.gmem = s.gmem := by unfold State.past; split <;> rfl
@[simp] theorem State.past_me_lmem : s.past.me.lmem = s.me.lmem := by unfold State.past; split <;> simp
@[simp] theorem State.past_me_stream : s.past.me.stream = s.me.stream := by unfold State.past; split <;> simp
@[simp] theorem State.past_me_outs : s.past.me.outs = s.me.outs := by unfold State.past; split <;> simp
@[simp] theorem State.past_load : s.past.cx.load = s.cx.load := by obtain ⟨w, h⟩ := s.past_cx; rw [h]
@[simp] theorem State.past_clus (c : Nat) : s.past.clus c = s.clus c := by simp [State.clus]
@[simp] theorem State.past_inTerr (k c : Nat) : s.past.inTerr k c = s.inTerr k c := by simp [State.inTerr, State.tagOf]
@[simp] theorem State.past_scalarBusy : s.past.scalarBusy = s.scalarBusy := by simp [State.scalarBusy]

theorem State.past_regs : RegsSame s.cx s.past.cx := by
  obtain ⟨w, h⟩ := s.past_cx; rw [h]; exact .of_fields rfl rfl rfl

end

theorem State.canTrap.past {s : State} (h : s.canTrap) : s.past.canTrap := by
  obtain ⟨w, e⟩ := s.past_cx; unfold State.canTrap at *; rw [e]; exact h
theorem State.inOrder.past {s : State} (h : s.inOrder) : s.past.inOrder := by simpa [State.inOrder] using h
theorem past_trap {s : State} (h : s.canTrap) (c : BitVec 8) (v : Word) : s.past.trap c v = s.trap c v := by
  simp [trap_of_canTrap h.past, trap_of_canTrap h]
theorem past_finish {s : State} (h : s.inOrder) : s.past.finish = s.finish := by
  simp [finish_of_inOrder h.past, finish_of_inOrder h]
theorem past_done {s : State} (h : s.inOrder) (d : Reg) (v : Word) : s.past.done d v = s.done d v := done_past h false d d v

theorem past_jump (s : State) (pc : Nat) : s.past.jump pc = s.setCx (s.cx.complete s.now pc) := by simp [State.jump]

/-! ### Sources (R87, R105) -/

theorem issue_withRegs {s : State} {i : Instr} {rs : List Reg} (can : s.canIssue i .u) (read : s.readable rs) (k : State → State) :
    s.issue i .u (fun s => s.withRegs i rs k) = k s.past := by
  rw [issue_of_canIssue can, withRegs_of_readable read.past]

/-- In local mode the words that are no part of a stream read their sources as every word does. -/
theorem withLocalRegs_of_readable {s : State} {rs : List Reg} (mode : s.cx.mode = .loc) (read : s.readable rs) (i : Instr) (k : State → State) :
    s.withLocalRegs i rs k = k s := by
  simp [State.withLocalRegs, State.notStreamed, Ctx.streamed, read.good, mode, withRegs_of_readable read]

theorem withLocalRegs_of_empty {s : State} {a : Reg} (mode : s.cx.mode = .loc) (empty : s.cx.isFull a = false) (good : s.cx.isBad a = false)
    (idle : s.cx.loading a = false) (i : Instr) (k : State → State) : s.withLocalRegs i [a] k = s.park (.reg a) := by
  simp [State.withLocalRegs, State.notStreamed, State.withRegs, Ctx.streamed, mode, empty, good, idle]

/-! ### Completing, waiting and trapping (R45, R89, R127) -/

theorem RegsOnly.complete (c : Ctx) (n pc : Nat) : RegsOnly c (c.complete n pc) :=
  ⟨by simp [Ctx.complete, Ctx.setRun], .inl rfl⟩

theorem RegsSame.complete (c : Ctx) (n pc : Nat) : RegsSame c (c.complete n pc) :=
  .of_fields (Ctx.complete_g ..) (Ctx.complete_full ..) (Ctx.complete_bad ..)

section
variable {s : State} {i : Instr}

theorem Goes.of_complete {pc : Nat} (run : exec i s = .next (s.setCx (s.cx.complete s.now pc))) : Goes i s pc := by
  refine ⟨_, run, .setCx .., ?_, ?_, .setCx rfl rfl rfl⟩
  · rw [State.cx_setCx]; exact .complete ..
  · rw [State.cx_setCx]; exact .complete ..

theorem Parks.of_park {w : Wait} (run : exec i s = .next (s.past.park w)) : Parks i s w := by
  have same : RegsSame s.cx (s.past.cx.setRun s.now (.parked w)) := by
    obtain ⟨b, e⟩ := s.past_cx; rw [e]; exact .setRun ..
  refine ⟨_, run, ?_, ?_⟩
  · rw [State.park, State.past_setCx]; exact .setCx ..
  · rw [State.park, State.cx_setCx, State.past_now, Ctx.setRun_pc, Ctx.setRun_latch]
    exact ⟨same, Ctx.setRun_run .., s.past_pc, s.past_latch⟩

theorem Traps.of_trap {c : BitVec 8} {v : Word} (can : s.canTrap) (run : exec i s = .next (s.past.trap c v)) : Traps i s c v :=
  ⟨_, by rw [run, past_trap can], trapped_of_canTrap can ..⟩

end

/-! ### Completing in a state changed outside the context -/

/-- Writing a register and completing, in a state that differs from the one before outside the context alone. -/
theorem done_elsewhere {s u : State} (order : s.inOrder) (cx : u.cx = s.past.cx) (now : u.now = s.now) (d : Reg) (v : Word) :
    u.done d v = u.setCx ((s.cx.setReg d v).complete s.now (s.cx.pc + 4)) := by
  obtain ⟨b, e⟩ := s.past_cx
  have order' : u.inOrder := by rw [State.inOrder, cx]; exact order.past
  rw [done_of_inOrder order', cx, now, State.past_pc, e, complete_unmarked]

theorem Retired.of_cx {s t t' : State} {pc : Nat} (h : Retired s t pc) (cx : t'.cx = t.cx) (now : t'.now = t.now) : Retired s t' pc := by
  rw [Retired, cx, now]; exact h

/-- Such a word writes its register and retires. -/
theorem done_elsewhere_spec {s u : State} (order : s.inOrder) (cx : u.cx = s.past.cx) (now : u.now = s.now) (d : Reg) (v : Word) :
    RegFile s.cx (u.done d v).cx none d v ∧ Retired s (u.done d v) (s.cx.pc + 4) := by
  rw [done_elsewhere order cx now]
  have here : Retired s (s.setCx ((s.cx.setReg d v).complete s.now (s.cx.pc + 4))) (s.cx.pc + 4) := by
    apply Retired.setCx <;> simp [Ctx.burnLeft]
  refine ⟨?_, here.of_cx (by simp) now⟩
  rw [State.cx_setCx]
  exact (RegFile.setReg ..).complete ..

section
variable {s : State} (order : s.inOrder) (d : Reg) (v : Word)
include order

theorem done_clusters : (s.done d v).clusters = s.clusters := by rw [done_of_inOrder order]; rfl
theorem done_gmem : (s.done d v).gmem = s.gmem := by rw [done_of_inOrder order]; rfl
theorem done_me_lmem : (s.done d v).me.lmem = s.me.lmem := by rw [done_of_inOrder order]; simp

end

end Sys2Proof.Machine
end

section
/-! Proofs of the statements about ALU and ALUI (O1, O2). -/

namespace Sys2Proof.Machine

/-! ### ALU (R107, Table 6.2) -/

section
variable {s : State} {i : Instr} {d a b c : Reg} {w : Bool}

theorem gives_of_aluWord (f : AluFn) (ready : s.ready .u) (read : s.readable [a, b]) (wf : i.wf = true)
    (run : exec i s = .next (aluWord i f d a b w s)) :
    Gives i s (if w then some a else none) d (alu f (s.cx.reg a) (s.cx.reg b)) :=
  .of_take ready.order (by rw [run, aluWord_eq ready read wf])

theorem gives_of_aluWord1 (f : Word → Word) (ready : s.ready .u) (read : s.readable [a]) (wf : i.wf = true)
    (run : exec i s = .next (aluWord1 i f d a w s)) : Gives i s (if w then some a else none) d (f (s.cx.reg a)) :=
  .of_take ready.order (by rw [run, aluWord1_eq ready read wf])

theorem gives_of_aluWord3 (f : Word → Word → Word → Word) (ready : s.ready .u) (read : s.readable [a, b, c]) (wf : i.wf = true)
    (run : exec i s = .next (aluWord3 i f d a b c w s)) :
    Gives i s (if w then some a else none) d (f (s.cx.reg a) (s.cx.reg b) (s.cx.reg c)) :=
  .of_take ready.order (by rw [run, aluWord3_eq ready read wf])

end

theorem alu_rotl (x y : Word) : alu .rotl x y = x.rotateLeft (y.toNat % 64) := by
  simp [alu, BitVec.rotateLeft, BitVec.rotateLeftAux]

theorem alu_mul (x y : Word) : alu .mul x y = BitVec.ofInt 64 (x.toInt * y.toInt) := by
  simp [alu, BitVec.ofInt_mul]

theorem alu_maxs (x y : Word) : alu .maxs x y = if y.toInt ≤ x.toInt then x else y := by
  show (if x.toInt ≤ y.toInt then y else x) = _
  obtain less | same | more := Int.lt_trichotomy x.toInt y.toInt
  · rw [if_pos (by omega), if_neg (by omega)]
  · simp [BitVec.eq_of_toInt_eq same]
  · rw [if_neg (by omega), if_pos (by omega)]

theorem alu_maxn (x y : Word) : alu .maxn x y = if y.toNat ≤ x.toNat then x else y := by
  show (if x.toNat ≤ y.toNat then y else x) = _
  obtain less | same | more := Nat.lt_trichotomy x.toNat y.toNat
  · rw [if_pos (by omega), if_neg (by omega)]
  · simp [BitVec.eq_of_toNat_eq same]
  · rw [if_neg (by omega), if_pos (by omega)]

/-- The most negative dividend over −1 wraps to itself (Table 6.2). -/
theorem divS_eq (x y : Word) : divS x y = if y = 0 then BitVec.allOnes 64
    else if x = BitVec.intMin 64 ∧ y = BitVec.allOnes 64 then BitVec.intMin 64 else BitVec.ofInt 64 (x.toInt.tdiv y.toInt) := by
  unfold divS
  split
  · rfl
  · split
    next h => rw [h.1, h.2]; decide
    · rfl

theorem remS_eq (x y : Word) : remS x y = if y = 0 then x
    else if x = BitVec.intMin 64 ∧ y = BitVec.allOnes 64 then 0 else BitVec.ofInt 64 (x.toInt.tmod y.toInt) := by
  unfold remS
  split
  · rfl
  · split
    next h => rw [h.1, h.2]; decide
    · rfl

theorem divN_eq (x y : Word) : divN x y = if y = 0 then BitVec.allOnes 64 else x / y := by
  rw [divN, show word (x.toNat / y.toNat) = x / y from BitVec.eq_of_toNat_eq (by
    simp [word, Nat.mod_eq_of_lt (Nat.lt_of_le_of_lt (Nat.div_le_self ..) x.isLt)])]

theorem remN_eq (x y : Word) : remN x y = if y = 0 then x else x % y := by
  unfold remN
  split
  · rfl
  · apply BitVec.eq_of_toNat_eq; simp [word, Nat.mod_eq_of_lt (Nat.lt_of_le_of_lt (Nat.mod_le ..) x.isLt)]

theorem divS_mul_add_remS (x y : Word) : divS x y * y + remS x y = x := by
  unfold divS remS
  split
  next h => simp [h]
  · rw [wrapI, wrapI]
    calc BitVec.ofInt 64 ((sx x).tdiv (sx y)) * y + BitVec.ofInt 64 ((sx x).tmod (sx y))
        = BitVec.ofInt 64 ((sx x).tdiv (sx y) * sx y + (sx x).tmod (sx y)) := by simp [BitVec.ofInt_add, BitVec.ofInt_mul, sx]
      _ = x := by rw [Int.tdiv_mul_add_tmod]; simp [sx]

theorem divN_mul_add_remN (x y : Word) : divN x y * y + remN x y = x := by
  rw [divN_eq, remN_eq]
  split
  next h => simp [h]
  · apply BitVec.eq_of_toNat_eq
    simp [Nat.div_add_mod', Nat.mod_eq_of_lt x.isLt]

/-! ### Counts of bits (Table 6.2) -/

theorem popNat_eq_countP (n v : Nat) : popNat n v = (List.range n).countP v.testBit := by
  induction n generalizing v with
  | zero => rfl
  | succ n ih =>
    have low : v % 2 = if v.testBit 0 then 1 else 0 := by
      obtain even | odd := Nat.mod_two_eq_zero_or_one v <;> simp [*]
    have high : v.testBit ∘ Nat.succ = (v / 2).testBit := funext fun k => Nat.testBit_succ ..
    rw [popNat, ih, List.range_succ_eq_map, List.countP_cons, List.countP_map, high, low, Nat.add_comm]

theorem popcount_eq_countP (x : Word) : popcount x = BitVec.ofNat 64 ((List.range 64).countP fun k => x.getLsbD k) := by
  rw [popcount, popNat_eq_countP]; rfl

theorem ctzNat_spec (n v : Nat) :
    ctzNat n v ≤ n ∧ (∀ k, k < ctzNat n v → v.testBit k = false) ∧ (ctzNat n v < n → v.testBit (ctzNat n v) = true) := by
  induction n generalizing v with
  | zero => simp [ctzNat]
  | succ n ih =>
    rw [ctzNat]
    split
    next odd => simp [Nat.testBit_zero, odd]
    next even =>
      obtain ⟨le, below, here⟩ := ih (v / 2)
      refine ⟨by omega, fun k hk => ?_, fun lt => ?_⟩
      · cases k with
        | zero => simpa [Nat.testBit_zero] using even
        | succ k => rw [Nat.testBit_succ]; exact below k (by omega)
      · rw [Nat.add_comm, Nat.testBit_succ]; exact here (by omega)

theorem clzNat_spec (n v : Nat) :
    clzNat n v ≤ n ∧ (∀ k, k < n → n - clzNat n v ≤ k → v.testBit k = false)
      ∧ (clzNat n v < n → v.testBit (n - 1 - clzNat n v) = true) := by
  induction n with
  | zero => simp [clzNat]
  | succ n ih =>
    have top : v.testBit n = decide (v / 2 ^ n % 2 = 1) := Nat.testBit_eq_decide_div_mod_eq
    rw [clzNat]
    split
    next one => exact ⟨Nat.zero_le _, fun k _ _ => by omega, fun _ => by simp [top, one]⟩
    next zero =>
      obtain ⟨le, above, here⟩ := ih
      refine ⟨by omega, fun k hk low => ?_, fun lt => ?_⟩
      · obtain rfl | less := Nat.eq_or_lt_of_le (Nat.le_of_lt_succ hk)
        · simp [top, zero]
        · exact above k less (by omega)
      · rw [show n + 1 - 1 - (1 + clzNat n v) = n - 1 - clzNat n v by omega]; exact here (by omega)

/-- Settles O1: each word writes its function of Table 6.2; the divisions and the counts have their own lemmas. -/
theorem aluFunctions : Obligations.AluFunctions := by
  refine ⟨fun s d a b w ready read take => ?simple, fun s d a b w ready read take => ?divisions,
    fun s d a b c w ready take => ⟨fun read => ?three, fun read => ?counts⟩⟩
  case simple =>
    have gives {i} (f : AluFn) := gives_of_aluWord (i := i) (d := d) (w := w) f ready read
    have rotl := gives (i := .rotl d a b w) .rotl take rfl
    have mul := gives (i := .mul d a b w) .mul take rfl
    have maxs := gives (i := .maxs d a b w) .maxs take rfl
    have maxn := gives (i := .maxn d a b w) .maxn take rfl
    rw [alu_rotl] at rotl
    rw [alu_mul] at mul
    rw [alu_maxs] at maxs
    rw [alu_maxn] at maxn
    exact ⟨gives .add take rfl, gives .sub take rfl, gives .and take rfl, gives .or take rfl, gives .xor take rfl, gives .andn take rfl,
      gives .shl take rfl, gives .shr take rfl, gives .sra take rfl, rotl, mul, gives .mulhs take rfl, gives .mulhn take rfl,
      gives .mins take rfl, gives .minn take rfl, maxs, maxn, gives .slts take rfl, gives .sltn take rfl, gives .seq take rfl⟩
  case divisions =>
    dsimp only
    rw [← divS_eq, ← remS_eq, ← divN_eq, ← remN_eq]
    have gives {i} (f : AluFn) := gives_of_aluWord (i := i) (d := d) (w := w) f ready read
    exact ⟨gives .divs take rfl, gives .divn take rfl, gives .rems take rfl, gives .remn take rfl, divS_mul_add_remS .., divN_mul_add_remN ..⟩
  case three =>
    exact ⟨gives_of_aluWord3 (fun x y z => if z ≠ 0 then x else y) ready read take rfl,
      gives_of_aluWord3 (fun x y z => x * y + z) ready read take rfl⟩
  case counts =>
    obtain ⟨clzLe, clzAbove, clzHere⟩ := clzNat_spec 64 (s.cx.reg a).toNat
    obtain ⟨ctzLe, ctzBelow, ctzHere⟩ := ctzNat_spec 64 (s.cx.reg a).toNat
    refine ⟨?_, ⟨_, clzLe, fun k low => ?_, clzHere, gives_of_aluWord1 clz64 ready read take rfl⟩,
      ⟨_, ctzLe, ctzBelow, ctzHere, gives_of_aluWord1 ctz64 ready read take rfl⟩⟩
    · rw [← popcount_eq_countP]; exact gives_of_aluWord1 popcount ready read take rfl
    · obtain inside | outside := Nat.lt_or_ge k 64
      · exact clzAbove k inside low
      · exact BitVec.getLsbD_of_ge _ _ outside

/-! ### ALUI (R109, Table 6.5) -/

/-- Outside a repetition nothing steps the immediate (R39). -/
theorem Ctx.imm_of_once {c : Ctx} (once : c.rep = none) (m : BitVec 12) : c.imm m =
    if c.latch.imx = 0 then m.signExtend 64
    else if c.latch.imx = 1 then (c.latch.mid ++ m : BitVec 38).signExtend 64
    else (c.latch.hi ++ c.latch.mid ++ m : BitVec 64) := by
  simp [Ctx.imm, Ctx.repDelta, once, word]

section
variable {s : State} {i : Instr} {f : AluiFn} {d a : Reg} {m : BitVec 12}

/-- An ALUI word, in order or in a repetition, with an immediate that its function accepts. -/
theorem aluiWord_eq (wf : i.wf = true) (form : formI i = true) (cleared : s.cleared .u) (read : s.readable [a])
    (fits : (f.isShift && 63 < (s.cx.imm m).toNat) = false) :
    aluiWord i f d a m s = s.past.done d (alui f (s.cx.reg a) (s.cx.imm m)) := by
  rw [aluiWord, fits, if_neg Bool.false_ne_true, issue_of_canIssue ⟨wf, .inr form, cleared⟩, withRegs_of_readable read.past, State.past_reg,
    State.past_imm]

theorem gives_of_aluiWord (f : AluiFn) (cleared : s.cleared .u) (order : s.inOrder) (read : s.readable [a]) (wf : i.wf = true)
    (form : formI i = true) (run : exec i s = .next (aluiWord i f d a m s)) (fits : (f.isShift && 63 < (s.cx.imm m).toNat) = false) :
    Gives i s none d (alui f (s.cx.reg a) (s.cx.imm m)) :=
  .of_done order (by rw [run, aluiWord_eq wf form cleared read fits, past_done order])

/-- A shift by more than 63 is refused at decode (R109). -/
theorem traps_of_aluiWord (shift : f.isShift = true) (order : s.inOrder) (can : s.canTrap) (far : 63 < (s.cx.imm m).toNat)
    (run : exec i s = .next (aluiWord i f d a m s)) : Traps i s illegalOp (wordOf i) := by
  refine ⟨_, ?_, trapped_of_canTrap can ..⟩
  have here : s.cx.wordImm i m = wordOf i := by simp [Ctx.wordImm, order.once]
  simp [run, aluiWord, shift, far, here]

end

/-- Settles O2: each word writes its function of Table 6.5, of the immediate that `Ctx.imm_of_once` spells out. -/
theorem aluImmediates : Obligations.AluImmediates := by
  intro s d a m cleared order read
  dsimp only
  rw [← Ctx.imm_of_once order.once]
  have gives {i} (f : AluiFn) := gives_of_aluiWord (i := i) (d := d) (m := m) f cleared order read
  refine ⟨gives .add rfl rfl rfl rfl, gives .and rfl rfl rfl rfl, gives .or rfl rfl rfl rfl, gives .xor rfl rfl rfl rfl,
    gives .slts rfl rfl rfl rfl, gives .sltn rfl rfl rfl rfl, gives .seq rfl rfl rfl rfl, gives .mul rfl rfl rfl rfl, ?ldi, fun near => ?shifts,
    fun far can => ?traps⟩
  case ldi =>
    refine .of_done order ?_
    show Host.Outcome.next (s.issue (.ldi d m) .u _) = _
    rw [issue_of_canIssue ⟨rfl, .inr rfl, cleared⟩, State.past_imm]
    exact congrArg _ (past_done order ..)
  case shifts =>
    have fits : (true && decide (63 < (s.cx.imm m).toNat)) = false := by simpa using near
    exact ⟨gives .shl rfl rfl rfl fits, gives .shr rfl rfl rfl fits, gives .sra rfl rfl rfl fits⟩
  case traps =>
    exact ⟨traps_of_aluiWord (f := .shl) rfl order can far rfl, traps_of_aluiWord (f := .shr) rfl order can far rfl,
      traps_of_aluiWord (f := .sra) rfl order can far rfl⟩

end Sys2Proof.Machine
end

section
/-! Proofs of the statements about branches, jumps, calls and returns (O3, O4). -/

namespace Sys2Proof.Machine

/-! ### The check of a target (R34) -/

section
variable {s : State} {i : Instr} {t : Word}

theorem transfer_of_targetOk (ok : Obligations.targetOk t) (s : State) (k : State → State) : s.transfer t k = k s := by
  simp [State.transfer, targetCheck, ok.1, Nat.not_le.mpr ok.2]

theorem checked_of_transfer {k : State → State} (run : exec i s = .next (s.past.transfer t k)) : Obligations.Checked i s t := by
  refine fun can => ⟨fun odd => .of_trap can ?_, fun even outside => .of_trap can ?_⟩
  · rw [run, State.transfer, targetCheck, if_pos odd]; rfl
  · rw [run, State.transfer, targetCheck, if_neg (by simpa using even), if_pos outside]; rfl

/-- A transfer that changes nothing but the PC (R34). -/
def State.goTo (s : State) (t : Word) : State := s.transfer t fun s => s.jump t.toNat

theorem goes_of_transfer (run : exec i s = .next (s.past.goTo t)) (ok : Obligations.targetOk t) : Goes i s t.toNat :=
  .of_complete (by rw [run, State.goTo, transfer_of_targetOk ok, past_jump])

end

theorem relTarget_eq (s : State) (off : Int) : relTarget s.cx.pc off = Obligations.targetOf s off := by
  unfold relTarget Obligations.targetOf wrapI; rfl

/-! ### Branches (R110, R111, Table 6.6) -/

section
variable {s : State} {i : Instr} {a : Reg} {o : BitVec 18}

/-- A branch goes to its target where its condition holds, and to the next word where it does not. -/
theorem branch_goes {b : Bool} {c : Prop} {t : Word} (holds : b = true ↔ c) (order : s.inOrder)
    (run : exec i s = .next (if b then s.past.goTo t else s.past.finish)) :
    (c → (Obligations.targetOk t → Goes i s t.toNat) ∧ Obligations.Checked i s t) ∧ (¬c → Goes i s (s.cx.pc + 4)) := by
  refine ⟨fun yes => ?_, fun no => .of_complete ?_⟩
  · rw [if_pos (holds.mpr yes)] at run
    exact ⟨goes_of_transfer run, checked_of_transfer run⟩
  · rw [run, if_neg (mt holds.mp no), past_finish order, finish_of_inOrder order]

theorem brWord_eq {f : Cond} (ready : s.ready .u) (read : s.readable [a]) (wf : i.wf = true) :
    brWord i f a o s = if f.holds (s.cx.reg a) then
      s.past.goTo (Obligations.targetOf s o.toInt) else s.past.finish := by
  have mode := ready.order.mode
  rw [brWord, issue_of_canIssue (canIssue_of_ready ready wf), withLocalRegs_of_readable (by simpa using mode) read.past]
  simp [Ctx.streamed, mode, relTarget_eq, State.goTo]

theorem brFullWord_eq {want : Bool} (ready : s.ready .u) (wf : i.wf = true) :
    brFullWord i want a o s = if s.cx.isFull a == want then
      s.past.goTo (Obligations.targetOf s o.toInt) else s.past.finish := by
  have mode := ready.order.mode
  rw [brFullWord, issue_of_canIssue (canIssue_of_ready ready wf)]
  simp [Ctx.streamed, mode, relTarget_eq, State.goTo]

/-- A branch on a value parks while its register is empty (R105). -/
theorem parksOn_of_brWord {f : Cond} (ready : s.ready .u) (wf : i.wf = true) (run : exec i s = .next (brWord i f a o s))
    (empty : s.cx.isFull a = false) (good : s.cx.isBad a = false) (idle : s.cx.loading a = false) : Obligations.ParksOn i s a := by
  have mode := ready.order.mode
  refine Parks.of_park ?_
  rw [run, brWord, issue_of_canIssue (canIssue_of_ready ready wf),
    withLocalRegs_of_empty (by simpa using mode) (by simpa using empty) (by simpa using good) (by simpa using idle)]
  simp [Ctx.streamed, mode]

end

theorem Cond.holds_eqz (x : Word) : Cond.eqz.holds x = true ↔ x = 0 := beq_iff_eq.trans (BitVec.toInt_inj (y := 0#64))
theorem Cond.holds_nez (x : Word) : Cond.nez.holds x = true ↔ x ≠ 0 := bne_iff_ne.trans (not_congr (BitVec.toInt_inj (y := 0#64)))
theorem Cond.holds_ltz (x : Word) : Cond.ltz.holds x = true ↔ x.toInt < 0 := decide_eq_true_iff
theorem Cond.holds_gez (x : Word) : Cond.gez.holds x = true ↔ 0 ≤ x.toInt := decide_eq_true_iff
theorem Cond.holds_gtz (x : Word) : Cond.gtz.holds x = true ↔ 0 < x.toInt := decide_eq_true_iff
theorem Cond.holds_lez (x : Word) : Cond.lez.holds x = true ↔ x.toInt ≤ 0 := decide_eq_true_iff

/-- Settles O3: where each branch goes is `branch_goes`, with its condition from Table 6.6. -/
theorem branches : Obligations.Branches := by
  refine ⟨fun s a o ready => ?_, by decide, by decide⟩
  dsimp only
  have order := ready.order
  have br {i} {f : Cond} {c : Prop} (holds : f.holds (s.cx.reg a) = true ↔ c) (run : exec i s = .next (brWord i f a o s)) (wf : i.wf = true)
      (read : s.readable [a]) := branch_goes holds order (run.trans (congrArg _ (brWord_eq ready read wf)))
  have brFull {i} (want : Bool) (run : exec i s = .next (brFullWord i want a o s)) (wf : i.wf = true) :=
    branch_goes beq_iff_eq order (run.trans (congrArg _ (brFullWord_eq (want := want) ready wf)))
  have parks {i} (f : Cond) := parksOn_of_brWord (i := i) (a := a) (o := o) (f := f) ready
  refine ⟨fun read => ⟨br (Cond.holds_eqz _) rfl rfl read, br (Cond.holds_nez _) rfl rfl read, br (Cond.holds_ltz _) rfl rfl read,
      br (Cond.holds_gez _) rfl rfl read, br (Cond.holds_gtz _) rfl rfl read, br (Cond.holds_lez _) rfl rfl read⟩,
    parks .eqz rfl rfl, parks .nez rfl rfl, parks .ltz rfl rfl, parks .gez rfl rfl, parks .gtz rfl rfl, parks .lez rfl rfl,
    brFull true rfl rfl, brFull false rfl rfl, rfl⟩

/-! ### Jumps, calls and returns (R112, R113) -/

/-- A context in which a consuming read has emptied `a`, if it consumes (R38). -/
def Ctx.taken (c : Ctx) (w : Bool) (a : Reg) : Ctx := if w then c.empty a else c

section
variable {s : State} {i : Instr} {a : Reg} {w : Bool} {t : Word} {pc : Nat}

theorem past_take_jump (s : State) (w : Bool) (a : Reg) (pc : Nat) :
    (s.past.take w a).jump pc = s.setCx ((s.cx.taken w a).complete s.now pc) := by
  obtain ⟨b, e⟩ := s.past_cx
  cases w
  · exact past_jump s pc
  · rw [State.take, if_pos rfl, State.past_setCx, e, State.jump, State.cx_setCx, State.setCx_setCx, State.setCx_now]
    rfl

theorem linked_past_take_jump (s : State) (w : Bool) (a : Reg) (pc : Nat) :
    (linked (s.past.take w a)).jump pc = s.setCx (((s.cx.taken w a).setReg 31 (word (s.cx.pc + 4))).complete s.now pc) := by
  obtain ⟨b, e⟩ := s.past_cx
  cases w
  · simp [State.take, State.jump, Ctx.taken, linked, e, complete_unmarked]
  · simp only [State.take, if_true, State.past_setCx, e, State.jump, linked, State.cx_setCx, State.setCx_setCx, State.setCx_now, Ctx.empty_pc]
    exact congrArg s.setCx (complete_unmarked (s.cx.empty a) ..)

theorem RegFile.taken (c : Ctx) (w : Bool) (a d : Reg) (v : Word) :
    RegFile c ((c.taken w a).setReg d v) (if w then some a else none) d v := by
  cases w
  · exact .setReg ..
  · exact .take ..

theorem RegsOnly.taken (c : Ctx) (w : Bool) (a : Reg) (n pc : Nat) : RegsOnly c ((c.taken w a).complete n pc) := by
  cases w
  · exact .complete ..
  · exact ⟨by simp [Ctx.taken, Ctx.complete, Ctx.setRun], .inl rfl⟩

theorem RegsOnly.linked (c : Ctx) (w : Bool) (a d : Reg) (v : Word) (n pc : Nat) :
    RegsOnly c (((c.taken w a).setReg d v).complete n pc) := by
  refine ⟨?_, ?_⟩
  · cases w <;> simp [Ctx.taken, Ctx.complete, Ctx.setRun]
  · rw [Ctx.complete_load]
    cases w
    · exact load_setReg c d v
    · exact load_setReg (c.empty a) d v

theorem Retired.taken (s : State) (w : Bool) (a : Reg) (pc : Nat) : Retired s (s.setCx ((s.cx.taken w a).complete s.now pc)) pc := by
  cases w
  · exact .setCx rfl rfl rfl
  · exact .setCx (by simp [Ctx.taken, Ctx.burnLeft]) (by simp [Ctx.taken]) (by simp [Ctx.taken])

theorem goesWith_of_link (run : exec i s = .next ((linked (s.past.take w a)).jump pc)) :
    GoesWith i s pc (if w then some a else none) 31 (word (s.cx.pc + 4)) := by
  rw [linked_past_take_jump] at run
  refine ⟨_, run, .setCx .., ?_, ?_, ?_⟩
  · rw [State.cx_setCx]; exact .linked ..
  · rw [State.cx_setCx]; exact (RegFile.taken ..).complete ..
  · apply Retired.setCx <;> cases w <;> simp [Ctx.taken, Ctx.burnLeft]

theorem isFull_taken (c : Ctx) (w : Bool) (a r : Reg) :
    (c.taken w a).isFull r = (c.isFull r && !((if w then some a else none) == some r && r != 0)) := by
  cases w
  · simp [Ctx.taken]
  · rw [if_pos rfl, show (some a == some r) = (r == a) from Bool.beq_comm]; exact isFull_empty ..

theorem reg_taken (c : Ctx) (w : Bool) (a r : Reg) : (c.taken w a).reg r = c.reg r := by cases w <;> rfl

/-- A jump to a register's value gives up the register that it consumes. -/
theorem goes_of_take (run : exec i s = .next ((s.past.take w a).jump pc)) :
    ∃ u, exec i s = .next u ∧ OnlyCtx s u ∧ RegsOnly s.cx u.cx ∧ Retired s u pc ∧ (∀ r, u.cx.reg r = s.cx.reg r)
      ∧ ∀ r, u.cx.isFull r = (s.cx.isFull r && !((if w then some a else none) == some r && r != 0)) := by
  rw [past_take_jump] at run
  refine ⟨_, run, .setCx .., ?_, .taken .., ?_⟩
  · rw [State.cx_setCx]; exact .taken ..
  · rw [State.cx_setCx]; exact ⟨reg_taken s.cx w a, isFull_taken s.cx w a⟩

/-- A word that goes to a register's value waits for it (R87). -/
theorem parksOn_of_issue (ready : s.ready .u) (wf : i.wf = true) {k : State → State}
    (run : exec i s = .next (s.issue i .u fun s => s.withLocalRegs i [a] k))
    (empty : s.cx.isFull a = false) (good : s.cx.isBad a = false) (idle : s.cx.loading a = false) : Obligations.ParksOn i s a :=
  Parks.of_park (by
    rw [run, issue_of_canIssue (canIssue_of_ready ready wf),
      withLocalRegs_of_empty (by simpa using ready.order.mode) (by simpa using empty) (by simpa using good) (by simpa using idle)])

theorem exec_jr (ready : s.ready .u) (read : s.readable [a]) (wf : (Instr.jr a w).wf = true) :
    exec (.jr a w) s = .next (s.past.transfer (s.cx.reg a) fun u => (u.take w a).jump (s.cx.reg a).toNat) := by
  show Host.Outcome.next (s.issue (.jr a w) .u _) = _
  rw [issue_of_canIssue (canIssue_of_ready ready wf), withLocalRegs_of_readable (by simpa using ready.order.mode) read.past, State.past_reg]

theorem exec_callr (ready : s.ready .u) (read : s.readable [a]) (wf : (Instr.callr a w).wf = true) :
    exec (.callr a w) s = .next (s.past.transfer (s.cx.reg a) fun u => (linked (u.take w a)).jump (s.cx.reg a).toNat) := by
  show Host.Outcome.next (s.issue (.callr a w) .u _) = _
  rw [issue_of_canIssue (canIssue_of_ready ready wf), withLocalRegs_of_readable (by simpa using ready.order.mode) read.past, State.past_reg]

theorem exec_ret (ready : s.ready .u) (read : s.readable [31]) : exec .ret s = .next (s.past.goTo (s.cx.reg 31)) := by
  show Host.Outcome.next (s.issue .ret .u _) = _
  rw [issue_of_canIssue (canIssue_of_ready ready rfl), withLocalRegs_of_readable (by simpa using ready.order.mode) read.past, State.past_reg]
  rfl

theorem exec_jmp (ready : s.ready .u) (o : BitVec 26) : exec (.jmp o) s = .next (s.past.goTo (Obligations.targetOf s o.toInt)) := by
  show Host.Outcome.next (s.issue (.jmp o) .u _) = _
  rw [issue_of_canIssue (canIssue_of_ready ready rfl)]
  simp [Ctx.streamed, ready.order.mode, relTarget_eq, State.goTo]

theorem exec_call (ready : s.ready .u) (o : BitVec 26) :
    let t := Obligations.targetOf s o.toInt
    exec (.call o) s = .next (s.past.transfer t fun u => (linked u).jump t.toNat) := by
  show Host.Outcome.next (s.issue (.call o) .u _) = _
  rw [issue_of_canIssue (canIssue_of_ready ready rfl)]
  simp [State.notStreamed, Ctx.streamed, ready.order.mode, relTarget_eq]

end

/-- Settles O4: each word is a checked transfer, the lemma `exec_…` about it; CALL and CALLR link (`goesWith_of_link`). -/
theorem jumps : Obligations.Jumps := by
  refine ⟨fun s a o w ready => ?_, by decide, by decide, by decide, by decide, by decide⟩
  refine ⟨fun ok => ⟨goes_of_transfer (exec_jmp ready o) ok, ?call⟩, checked_of_transfer (exec_jmp ready o),
    checked_of_transfer (exec_call ready o),
    fun read take => ⟨fun ok => ⟨?callr, ?jr⟩, checked_of_transfer (exec_jr ready read take),
      checked_of_transfer (exec_callr ready read take)⟩,
    fun read => ⟨goes_of_transfer (exec_ret ready read), checked_of_transfer (exec_ret ready read)⟩, fun empty good idle => ?parks,
    parksOn_of_issue ready rfl rfl⟩
  case call =>
    exact goesWith_of_link (a := 0) (w := false) (by rw [exec_call ready o, transfer_of_targetOk ok]; rfl)
  case callr =>
    exact goesWith_of_link (by rw [exec_callr ready read take, transfer_of_targetOk ok])
  case jr =>
    exact goes_of_take (by rw [exec_jr ready read take, transfer_of_targetOk ok])
  case parks =>
    have take : takeOk a w = true := by
      have other : (a == 0#5) = false := beq_false_of_ne fun zero => by simp [zero, Ctx.isFull] at empty
      simp [takeOk, other]
    exact ⟨parksOn_of_issue ready take rfl empty good idle, parksOn_of_issue ready take rfl empty good idle⟩

end Sys2Proof.Machine
end

section
/-! Proofs of the statement about REP and the repetition it starts (O23). -/

namespace Sys2Proof.Machine

/-- The index register takes the next repetition's number (R117). -/
def Ctx.indexed (c : Ctx) (now : Nat) (r : RepSt) : Ctx :=
  { c.setRun now .running with acc := none, waited := false, yld := c.gives }.setReg r.rd (word (r.i + 1))

/-- What remains of the context when its instruction completes within a repetition (R117): after the last one it goes on past the target. -/
def Ctx.repeated (c : Ctx) (now : Nat) (r : RepSt) : Ctx :=
  if r.i + 1 < r.n then { c.indexed now r with rep := some { r with i := r.i + 1 } }
  else { c.indexed now r with rep := none }.complete now (c.pc + 8)

theorem finish_of_rep {s : State} {r : RepSt} (rep : s.cx.rep = some r) : s.finish = s.setCx (s.cx.repeated s.now r) := by
  simp only [State.finish, rep, Ctx.repeated, Ctx.indexed]
  split <;> rfl

section
variable (c : Ctx) (now : Nat) (r : RepSt)

theorem Ctx.repeated_g : (c.repeated now r).g = (c.indexed now r).g := by
  unfold Ctx.repeated
  split
  · rfl
  · exact Ctx.complete_g ..

theorem Ctx.reg_indexed (x : Reg) : (c.indexed now r).reg x = if x = r.rd ∧ x ≠ 0 then word (r.i + 1) else c.reg x := by
  rw [Ctx.indexed, reg_setReg]
  simp only [Ctx.reg, Ctx.setRun_g]

theorem Ctx.reg_repeated (x : Reg) : (c.repeated now r).reg x = if x = r.rd ∧ x ≠ 0 then word (r.i + 1) else c.reg x := by
  rw [← Ctx.reg_indexed c now]
  simp only [Ctx.reg, Ctx.repeated_g]

theorem Ctx.repeated_more (more : r.i + 1 < r.n) :
    (c.repeated now r).rep = some { r with i := r.i + 1 } ∧ (c.repeated now r).pc = c.pc ∧ (c.repeated now r).latch = c.latch := by
  simp [Ctx.repeated, Ctx.indexed, more]

theorem Ctx.repeated_last (last : r.n ≤ r.i + 1) :
    (c.repeated now r).rep = none ∧ (c.repeated now r).pc = c.pc + 8 ∧ (c.repeated now r).latch = Latch.empty := by
  simp [Ctx.repeated, Nat.not_lt.mpr last]

end

/-- A word with one destination in a repetition, after its latched wait. -/
theorem past_done_of_rep {s : State} {r : RepSt} (rep : s.cx.rep = some r) (d : Reg) (v : Word) :
    s.past.done d v = s.setCx ((s.past.cx.setReg d v).repeated s.now r) := by
  rw [State.done, finish_of_rep (r := r) (by simpa using rep)]
  simp

/-- The immediate of a word in a repetition, stepped (R116). -/
theorem Ctx.imm_of_rep {c : Ctx} {r : RepSt} (rep : c.rep = some r) (plain : c.latch.imx = 0) (m : BitVec 12) :
    c.imm m = m.signExtend 64 + BitVec.ofNat 64 (if r.smask.getLsbD 0 then r.step * r.i else 0) := by
  simp [Ctx.imm, Ctx.repDelta, rep, plain, word]

section
variable {s : State} {d a m : BitVec 5} {st : BitVec 4} (mode : s.cx.mode = .loc) (wf : (Instr.rep d a m st).wf = true)
  (read : s.readable [a, d]) (inside : s.cx.pc + 4 < 0x8000) (good : (s.wordAt (s.cx.pc + 4)).2 = false)
include mode wf read inside good

/-- REP whose count is already reached skips its target (R117). -/
theorem exec_rep_skips (reached : (s.cx.reg a).toNat ≤ (s.cx.reg d).toNat) :
    exec (.rep d a m st) s = .next (s.setCx ({ s.cx with latch := Latch.empty }.complete s.now (s.cx.pc + 8))) := by
  show execRep d a m st s = _
  simp only [execRep, wf, withLocalRegs_of_readable mode read, State.fetchAt, Nat.not_le.mpr inside, good, reached, Bool.not_true,
    Bool.false_eq_true, if_false, if_true]

/-- REP leaves the repetition of a target that it accepts in the context (R117). -/
theorem exec_rep_starts (short : (s.cx.reg d).toNat < (s.cx.reg a).toNat)
    (allowed : repRefuses ((s.wordAt (s.cx.pc + 4)).1.toNat / 67108864) = false)
    (slots : m &&& ~~~(targetSlots (s.wordAt (s.cx.pc + 4)).1) = 0) :
    exec (.rep d a m st) s = .next (s.setCx { s.cx.setRun s.now .running with
      rep := some { word := (s.wordAt (s.cx.pc + 4)).1, smask := m, step := st.toNat, rd := d, n := (s.cx.reg a).toNat
                    i := (s.cx.reg d).toNat } }) := by
  show execRep d a m st s = _
  simp only [execRep, wf, withLocalRegs_of_readable mode read, State.fetchAt, Nat.not_le.mpr inside, good, Nat.not_le.mpr short, allowed, slots,
    bne_self_eq_false, Bool.or_self, Bool.not_true, Bool.false_eq_true, if_false]

end

/-- Settles O23: REP by `exec_rep_skips` and `exec_rep_starts`, a repetition by `finish_of_rep`. -/
theorem repWords : Obligations.RepWords := by
  refine ⟨fun s d a m st order wf read inside good => ⟨fun reached => ?skips, fun short x dec allowed slots => ?starts⟩,
    fun s d a m r rep mode plain cleared read other index => ?repeats⟩
  case skips =>
    refine ⟨_, exec_rep_skips order.mode wf read inside good reached, .setCx .., ?_⟩
    rw [State.cx_setCx]
    exact ⟨⟨by simp [Ctx.complete, Ctx.setRun], .inl rfl⟩, .complete .., rfl, rfl⟩
  case starts =>
    have uses : targetSlots (s.wordAt (s.cx.pc + 4)).1 = repSlots x := by simp only [targetSlots, dec]
    refine ⟨_, exec_rep_starts order.mode wf read inside good short allowed (by rw [uses, slots]), .setCx .., ?_⟩
    rw [State.cx_setCx]
    exact ⟨.of_fields rfl rfl rfl, rfl, rfl, rfl⟩
  case repeats =>
    have run : exec (.addi d a m) s = .next (s.setCx ((s.past.cx.setReg d (s.cx.reg a + s.cx.imm m)).repeated s.now r)) := by
      rw [← past_done_of_rep rep]
      exact congrArg _ (aluiWord_eq (f := .add) rfl rfl cleared read rfl)
    refine ⟨_, run, .setCx .., ?_⟩
    rw [State.cx_setCx]
    refine ⟨fun real => ?_, ?_, fun more => ?_, fun last => ?_⟩
    · rw [Ctx.reg_repeated, if_neg (by simp [other]), reg_setReg, if_pos ⟨rfl, real⟩, Ctx.imm_of_rep rep plain]
    · rw [Ctx.reg_repeated, if_pos ⟨rfl, index⟩]; rfl
    · obtain ⟨next, here, latch⟩ := Ctx.repeated_more _ s.now r more
      exact ⟨next, here.trans (by simp), latch.trans (by simp)⟩
    · obtain ⟨next, here, latch⟩ := Ctx.repeated_last _ s.now r last
      exact ⟨next, here.trans (by simp), latch⟩

end Sys2Proof.Machine
end

section
/-! Proofs of the statement about streamed transfers and the stream's words (O34). -/

namespace Sys2Proof.Machine

/-! ### Streamed transfers (R114) -/

/-- The core once its first buffered word has left (R228). -/
def Core.popWord (c : Core) : Core := { c with stream := { c.stream with buf := c.stream.buf.drop 1 } }

theorem finish_of_streamed {s : State} (once : s.cx.rep = none) (mode : s.cx.mode = .streamed) :
    s.finish = (s.setMe s.me.popWord).setCx (s.cx.complete s.now s.me.popWord.nextIdx) := by
  simp [State.finish, once, Ctx.streamed, mode, Core.popWord]

/-- The word leaves the buffer of a core that goes on in the stream; registers and memories are as before. -/
def StreamNoOp (i : Instr) (s : State) : Prop :=
  ∃ t, exec i s = .next t ∧ t.me.stream.buf = s.me.stream.buf.drop 1 ∧ RegsSame s.cx t.cx ∧ t.cx.mode = .streamed ∧ t.gmem = s.gmem
    ∧ t.me.lmem = s.me.lmem ∧ t.cx.latch = Latch.empty

section
variable {s : State} {i : Instr} (once : s.cx.rep = none) (mode : s.cx.mode = .streamed)
include once mode

theorem streamNoOp_of_finish (run : exec i s = .next s.past.finish) : StreamNoOp i s := by
  rw [finish_of_streamed (by simpa using once) (by simpa using mode)] at run
  refine ⟨_, run, ?_⟩
  simp only [State.me_setCx, State.me_setMe, State.cx_setCx, State.past_complete, Core.setCtx_stream, Core.setCtx_lmem, State.setCx_gmem,
    State.setMe_gmem, State.past_gmem, Ctx.complete_mode, Ctx.complete_latch]
  exact ⟨congrArg (fun b : StreamBuf => b.buf.drop 1) s.past_me_stream, .complete .., mode, trivial, s.past_me_lmem, trivial⟩

/-- A target within the stream's indices, or a branch that is not taken: the core takes the word as a no-op. -/
theorem streamNoOp_of_hop {taken : Bool} {off : Int} (inside : (BitVec.ofInt 64 (s.cx.pc + off)).toNat ≤ 16383)
    (run : exec i s = .next (streamedHop taken off s.past)) : StreamNoOp i s := by
  have stays : (taken && decide (16383 < (wrapI (s.past.cx.pc + off)).toNat)) = false := by
    rw [State.past_pc, wrapI, decide_eq_false (Nat.not_lt.mpr inside), Bool.and_false]
  refine streamNoOp_of_finish once mode (run.trans ?_)
  rw [streamedHop, stays, if_neg Bool.false_ne_true]

end

section
variable {s : State} {i : Instr} (mode : s.cx.mode = .streamed)
include mode

theorem withLocalRegs_of_streamed {rs : List Reg} (good : rs.any s.cx.isBad = false) (i : Instr) (k : State → State) :
    s.withLocalRegs i rs k = s.trap illegalOp (wordOf i) := by
  simp [State.withLocalRegs, State.notStreamed, Ctx.streamed, good, mode]

/-- A word that reads its sources only outside the stream traps in it, whether they are full or not. -/
theorem traps_of_streamed_regs {rs : List Reg} {k : State → State} (can : s.canTrap) (issues : s.canIssue i .u) (good : rs.any s.cx.isBad = false)
    (run : exec i s = .next (s.issue i .u fun s => s.withLocalRegs i rs k)) : Traps i s illegalOp (wordOf i) := by
  refine .of_trap can ?_
  have good' : rs.any s.past.cx.isBad = false := by
    rwa [show s.past.cx.isBad = s.cx.isBad from funext s.past_isBad]
  rw [run, issue_of_canIssue issues, withLocalRegs_of_streamed (by simpa using mode) good']

theorem brWord_streamed_zero {f : Cond} {b : BitVec 18} (issues : s.canIssue i .u) : brWord i f 0 b s = streamedHop (f.holds 0) b.toInt s.past := by
  rw [brWord, issue_of_canIssue issues]
  simp [Ctx.streamed, mode]

theorem traps_of_streamed_brWord {f : Cond} {a : Reg} {b : BitVec 18} (can : s.canTrap) (issues : s.canIssue i .u) (other : a ≠ 0)
    (good : s.cx.isBad a = false) (run : exec i s = .next (brWord i f a b s)) : Traps i s illegalOp (wordOf i) := by
  refine .of_trap can ?_
  rw [run, brWord, issue_of_canIssue issues]
  simp only [beq_false_of_ne other, Bool.and_false, Bool.false_eq_true, if_false]
  exact congrArg _ (withLocalRegs_of_streamed (s := s.past) (by simpa using mode) (by simpa using good) ..)

theorem traps_of_streamed_brFull {want : Bool} {a : Reg} {b : BitVec 18} (can : s.canTrap) (issues : s.canIssue i .u) (other : a ≠ 0)
    (run : exec i s = .next (brFullWord i want a b s)) : Traps i s illegalOp (wordOf i) := by
  refine .of_trap can ?_
  rw [run, brFullWord, issue_of_canIssue issues]
  simp only [Ctx.streamed, State.past_mode, mode, beq_self_eq_true, if_true, if_neg other]

end

/-! ### The head of a cluster (R240) -/

/-- The clusters and the cores' records at most have changed. -/
def ClusterFrame (s t : State) : Prop := ∃ cs st, t = { s with clusters := cs, stats := st }

theorem ClusterFrame.trans {s t u : State} (h : ClusterFrame s t) (h' : ClusterFrame t u) : ClusterFrame s u := by
  obtain ⟨cs, st, rfl⟩ := h
  obtain ⟨cs', st', rfl⟩ := h'
  exact ⟨cs', st', rfl⟩

theorem ClusterFrame.setClus (s : State) (c : Nat) (v : Cluster) : ClusterFrame s (s.setClus c v) := ⟨_, s.stats, rfl⟩

/-- Marking cores as begun leaves the clusters alone. -/
theorem foldl_setStat_frame (l : List Nat) (f : State → Nat → CoreStat) (s : State) :
    ∃ st, l.foldl (fun s q => s.setStat q (f s q)) s = { s with stats := st } := by
  induction l generalizing s with
  | nil => exact ⟨s.stats, rfl⟩
  | cons q l ih =>
    obtain ⟨st, h⟩ := ih (s.setStat q (f s q))
    exact ⟨st, h⟩

theorem State.settleTether_frame (s : State) (c j : Nat) :
    ClusterFrame s (s.settleTether c) ∧ ((s.settleTether c).clus j).head = (s.clus j).head := by
  unfold State.settleTether
  split
  · refine ⟨.setClus .., ?_⟩
    by_cases same : j = c
    · rw [same, State.clus_setClus]
    · rw [State.clus_setClus_ne _ _ same]
  · exact ⟨⟨s.clusters, s.stats, rfl⟩, rfl⟩

theorem State.headBegins_frame (s : State) (c j : Nat) :
    ClusterFrame s (s.headBegins c) ∧ ((s.headBegins c).clus j).head = (s.clus j).head := by
  unfold State.headBegins
  split
  · obtain ⟨st, begun⟩ := foldl_setStat_frame ((coresOf c).filter s.plain) (fun s q => { s.stat q with begun := s.begins q }) s
    rw [begun]
    obtain ⟨frame, head⟩ := State.settleTether_frame { s with stats := st } c j
    exact ⟨.trans ⟨s.clusters, st, rfl⟩ frame, head⟩
  · exact ⟨⟨s.clusters, s.stats, rfl⟩, rfl⟩

/-- A head that is to start, and nothing else of it. -/
theorem State.startHead_spec (s : State) (c idx skew at_ : Nat) :
    ClusterFrame s (s.startHead c idx skew at_)
      ∧ ((s.startHead c idx skew at_).clus c).head
        = { (s.clus c).head with running := true, idx := idx, startAt := some at_, bubble := false, skew := skew } := by
  unfold State.startHead
  dsimp only
  obtain ⟨frame, head⟩ := State.headBegins_frame (s.setClus c { s.clus c with
    head := { (s.clus c).head with running := true, idx := idx, startAt := some at_, bubble := false, skew := skew } }) c c
  exact ⟨.trans (.setClus ..) frame, by rw [head, State.clus_setClus]⟩

/-- A word that has changed clusters writes its register and retires; the clusters are as changed. -/
theorem done_of_clusterFrame {s u : State} (order : s.inOrder) (frame : ClusterFrame s.past u) (d : Reg) (v : Word) :
    RegFile s.cx (u.done d v).cx none d v ∧ Retired s (u.done d v) (s.cx.pc + 4) ∧ (u.done d v).gmem = s.gmem
      ∧ (u.done d v).me.lmem = s.me.lmem ∧ (u.done d v).clusters = u.clusters := by
  obtain ⟨cs, st, rfl⟩ := frame
  obtain ⟨file, retired⟩ := done_elsewhere_spec (u := { s.past with clusters := cs, stats := st }) order rfl s.past_now d v
  have order' : State.inOrder { s.past with clusters := cs, stats := st } := order.past
  exact ⟨file, retired, (done_gmem order' ..).trans s.past_gmem, (done_me_lmem order' ..).trans s.past_me_lmem,
    done_clusters order' ..⟩

theorem State.clus_congr {s t : State} (same : t.clusters = s.clusters) (c : Nat) : t.clus c = s.clus c := by rw [State.clus, same]; rfl

/-! ### SSTART and SSTOP (R240) -/

section
variable {s : State} {d a : Reg} {skew : BitVec 4} (ready : s.ready .u) (first : s.cur.2 = 0) (read : s.readable [a])
include ready first read

/-- SSTART of one cluster, from local mode. -/
theorem exec_sstart (beats : skew ≠ 0) (fits : (s.cx.reg a).toNat < 2 ^ 24) (reserved : (s.cx.reg a).toNat / 2 ^ 14 % 4 = 0)
    {c : Nat} (names : (s.cx.reg a).toNat / 2 ^ 16 % 256 = c) :
    exec (.sstart d a false skew) s = .next (
      if s.inTerr s.cur.1 c = false then s.past.done d 2
      else if (s.clus c).head.running then s.past.done d 1
      else (s.past.startHead c ((s.cx.reg a).toNat % 2 ^ 14) skew.toNat (s.now + 8)).done d 0) := by
  show Host.Outcome.next (s.issue (.sstart d a false skew) .u _) = _
  have wf : (Instr.sstart d a false skew).wf = true := bne_iff_ne.mpr beats
  have above : bits (s.cx.reg a) 24 40 = 0 := by rw [bits, Nat.div_eq_of_lt fits, Nat.zero_mod]
  have middle : bits (s.cx.reg a) 14 2 = 0 := reserved
  have cluster : bits (s.cx.reg a) 16 8 = c := names
  have index : bits (s.cx.reg a) 0 14 = (s.cx.reg a).toNat % 2 ^ 14 := by rw [bits, Nat.pow_zero, Nat.div_one]
  rw [issue_withRegs (canIssue_of_ready ready wf) read]
  simp [first, Ctx.streamed, ready.order.mode, show ¬skew = 0#4 from beats, above, middle, cluster, index, State.named]

/-- SSTOP of one cluster, from local mode. -/
theorem exec_sstop (fits : (s.cx.reg a).toNat < 2 ^ 8) :
    exec (.sstop d a false) s = .next (
      if s.inTerr s.cur.1 (s.cx.reg a).toNat = false then s.past.done d 2 else (s.past.stopHead (s.cx.reg a).toNat).done d 0) := by
  show Host.Outcome.next (s.issue (.sstop d a false) .u _) = _
  have above : bits (s.cx.reg a) 8 56 = 0 := by rw [bits, Nat.div_eq_of_lt fits, Nat.zero_mod]
  have all : bits (s.cx.reg a) 0 8 = (s.cx.reg a).toNat := by rw [bits, Nat.pow_zero, Nat.div_one, Nat.mod_eq_of_lt fits]
  rw [issue_withRegs (canIssue_of_ready ready rfl) read]
  simp [first, Ctx.streamed, ready.order.mode, above, all, State.named]

end

/-! ### DETACH (R234, R240) -/

/-- The core whose context 0 has left the stream: what it had buffered counts as received (R235). -/
def Core.leftStream (c : Core) : Core :=
  { c with stream := { c.stream with buf := [], got := (c.stream.buf.map (·.idx)).foldl nput [], lost := [] } }

theorem leave_eq (s : State) (pc : Nat) :
    s.leave pc = (s.setMe s.me.leftStream).setCx { s.cx.complete s.now pc with mode := .loc } := by
  simp only [State.leave, State.cx_setMe]
  rfl

section
variable {s : State} {d a : Reg} (can : s.canIssue (.detach d a) .u) (first : s.cur.2 = 0) (read : s.readable [d, a])
  (mode : s.cx.mode = .streamed)
include can first read mode

theorem exec_detach : exec (.detach d a) s = .next (
    if s.cx.reg d = 0 then s.past.finish else s.past.transfer (s.cx.reg a) fun u => u.leave (u.cx.reg a).toNat) := by
  show Host.Outcome.next (s.issue (.detach d a) .u _) = _
  rw [issue_withRegs can read]
  simp [first, Ctx.streamed, mode]

/-- DETACH with a target leaves the stream for it. -/
theorem detach_leaves (leaves : s.cx.reg d ≠ 0) (ok : Obligations.targetOk (s.cx.reg a)) :
    ∃ t, exec (.detach d a) s = .next t ∧ RegsSame s.cx t.cx ∧ t.cx.mode = .loc ∧ t.cx.pc = (s.cx.reg a).toNat ∧ t.me.stream.buf = []
      ∧ Retired s t (s.cx.reg a).toNat := by
  have run := exec_detach can first read mode
  rw [if_neg leaves, transfer_of_targetOk ok, leave_eq, State.past_reg] at run
  have retired : Retired s (s.setCx (s.cx.complete s.now (s.cx.reg a).toNat)) (s.cx.reg a).toNat := .setCx rfl rfl rfl
  rw [Retired, State.cx_setCx] at retired
  refine ⟨_, run, ?_⟩
  simp only [Retired, State.me_setCx, State.me_setMe, State.cx_setCx, State.past_complete, State.past_now, State.setCx_now, State.setMe_now,
    Core.setCtx_stream]
  have regs : RegsSame s.cx (s.cx.complete s.now (s.cx.reg a).toNat) := .complete ..
  exact ⟨regs, trivial, retired.1, rfl, retired⟩

end

/-! ### JOIN (R235, R240) -/

section
variable {s : State} {a : Reg} {idle : Bool} (can : s.canIssue (.join a idle) .u) (read : s.readable [a])
include can read

theorem exec_join : exec (.join a idle) s = .next (
    if 16383 < (s.cx.reg a).toNat then s.past.trap localBounds (s.cx.reg a)
    else if s.cur.2 ≠ 0 ∨ s.cx.mode = .streamed then s.past.trap illegalOp (wordOf (.join a idle))
    else if s.me.stream.got.contains (s.cx.reg a).toNat then s.past.trap streamLate (s.cx.reg a)
    else s.past.park (.stream idle)) := by
  show Host.Outcome.next (s.issue (.join a idle) .u _) = _
  rw [issue_withRegs can read]
  simp [Ctx.streamed, word]

theorem join_traps_beyond (trappable : s.canTrap) (beyond : 16383 < (s.cx.reg a).toNat) : Traps (.join a idle) s 0x04 (s.cx.reg a) :=
  .of_trap trappable (by rw [exec_join can read, if_pos beyond]; rfl)

theorem join_traps_helper (trappable : s.canTrap) (helper : s.cur.2 ≠ 0) (inside : (s.cx.reg a).toNat ≤ 16383) :
    Traps (.join a idle) s 0x01 (wordOf (.join a idle)) :=
  .of_trap trappable (by rw [exec_join can read, if_neg (Nat.not_lt.mpr inside), if_pos (.inl helper)]; rfl)

variable (first : s.cur.2 = 0) (mode : s.cx.mode = .loc) (inside : (s.cx.reg a).toNat ≤ 16383)
include first mode inside

theorem join_waits (ahead : s.me.stream.got.contains (s.cx.reg a).toNat = false) : Parks (.join a idle) s (.stream idle) :=
  .of_park (by
    rw [exec_join can read, if_neg (Nat.not_lt.mpr inside), if_neg (by simp [first, mode]), if_neg (ne_true_of_eq_false ahead)])

theorem join_traps_late (trappable : s.canTrap) (late : s.me.stream.got.contains (s.cx.reg a).toNat = true) :
    Traps (.join a idle) s 0x09 (s.cx.reg a) :=
  .of_trap trappable (by rw [exec_join can read, if_neg (Nat.not_lt.mpr inside), if_neg (by simp [first, mode]), if_pos late]; rfl)

end

/-! ### GANG and the bridle (R238, R241) -/

theorem rowOf_lt (k : Nat) : rowOf k < 4 := Nat.mod_lt _ (by decide)

theorem State.bridle_setBridle (s : State) (cl : Nat) {row : Nat} (b : Bridle) (inside : row < 4) : (s.setBridle cl row b).bridle cl row = b := by
  simp [State.bridle, State.setBridle, List.getD, inside]

theorem State.bridle_congr {s t : State} (same : t.clusters = s.clusters) (cl row : Nat) : t.bridle cl row = s.bridle cl row := by
  rw [State.bridle, State.clus_congr same]; rfl

@[simp] theorem State.past_bridle (s : State) (cl row : Nat) : s.past.bridle cl row = s.bridle cl row := State.bridle_congr s.past_clusters ..
@[simp] theorem State.past_arrived (s : State) (k : Nat) : s.past.arrived k = s.arrived k := by simp [State.arrived]

/-- A core has taken the result that its row's firing left for it. -/
def State.tookResult (s : State) (k : Nat) : State :=
  let b := s.bridle (clusOf k) (rowOf k)
  s.setBridle (clusOf k) (rowOf k) { b with results := kdel b.results (lxOf k) }

theorem State.results_tookResult (s : State) (k : Nat) :
    kget ((s.tookResult k).bridle (clusOf k) (rowOf k)).results (lxOf k) = none := by
  rw [State.tookResult, State.bridle_setBridle _ _ _ (rowOf_lt k), kget_kdel, if_pos rfl]

section
variable {s : State} {d : Reg} {idle : Bool} {g : BitVec 8} (can : s.canIssue (.gang d idle g) .u) (first : s.cur.2 = 0)
  (plain : isSup s.cur.1 = false)
include can first plain

/-- The row's firing has left a result: GANG takes it. -/
theorem exec_gang_fired {w : Word} (fired : kget (s.bridle (clusOf s.cur.1) (rowOf s.cur.1)).results (lxOf s.cur.1) = some w) :
    exec (.gang d idle g) s = .next ((s.past.tookResult s.cur.1).done d w) := by
  show Host.Outcome.next (s.issue (.gang d idle g) .u _) = _
  have tag : ¬g = 255#8 := bne_iff_ne.mp can.1
  rw [issue_of_canIssue can]
  simp [first, plain, tag, fired, State.tookResult]

/-- Without a result the core arrives, once its scalar accesses have taken effect, and waits. -/
theorem exec_gang_waits (unfired : kget (s.bridle (clusOf s.cur.1) (rowOf s.cur.1)).results (lxOf s.cur.1) = none) :
    exec (.gang d idle g) s = .next (
      if s.arrived s.cur.1 then s.past.park (.bridle idle)
      else if s.scalarBusy then s.past.park .memory
      else (s.past.bridleArrive s.cur.1 ⟨g.toNat, none, 0⟩).park (.bridle idle)) := by
  show Host.Outcome.next (s.issue (.gang d idle g) .u _) = _
  have tag : ¬g = 255#8 := bne_iff_ne.mp can.1
  rw [issue_of_canIssue can]
  simp [first, plain, tag, unfired, State.settled]

end

theorem State.arrived_bridleArrive (s : State) (k : Nat) (a : Arrival) : (s.bridleArrive k a).arrived k = true := by
  simp [State.arrived, State.bridleArrive, State.bridle_setBridle _ _ _ (rowOf_lt k)]

theorem State.cx_park (s : State) (w : Wait) : (s.park w).cx = s.cx.setRun s.now (.parked w) := State.cx_setCx ..
theorem State.bridleArrive_cx (s : State) (k : Nat) (a : Arrival) : (s.bridleArrive k a).cx = s.cx := rfl

/-! ### The clauses of O34 -/

section
variable {s : State} {a : Reg} (issues : ∀ {i : Instr}, i.wf = true → s.canIssue i .u) (mode : s.cx.mode = .streamed)
include issues mode

/-- JMP and a branch over g0 whose target stays in the stream. -/
theorem streamed_noOps (once : s.cx.rep = none) (b : BitVec 18) (o : BitVec 26) :
    ((BitVec.ofInt 64 (s.cx.pc + o.toInt)).toNat ≤ 16383 → StreamNoOp (.jmp o) s)
    ∧ ((BitVec.ofInt 64 (s.cx.pc + b.toInt)).toNat ≤ 16383 →
        StreamNoOp (.beqz 0 b) s ∧ StreamNoOp (.bnez 0 b) s ∧ StreamNoOp (.bfull 0 b) s) := by
  have br {i} {f : Cond} (wf : i.wf = true) (run : exec i s = .next (brWord i f 0 b s))
      (inside : (BitVec.ofInt 64 (s.cx.pc + b.toInt)).toNat ≤ 16383) : StreamNoOp i s :=
    streamNoOp_of_hop once mode inside (run.trans (congrArg _ (brWord_streamed_zero mode (issues wf))))
  refine ⟨fun inside => streamNoOp_of_hop (taken := true) once mode inside ?jmp,
    fun inside => ⟨br (f := .eqz) rfl rfl inside, br (f := .nez) rfl rfl inside, streamNoOp_of_hop (taken := true) once mode inside ?bfull⟩⟩
  case jmp =>
    show Host.Outcome.next (s.issue (.jmp o) .u _) = _
    rw [issue_of_canIssue (issues rfl)]
    simp [Ctx.streamed, mode]
  case bfull =>
    show Host.Outcome.next (s.issue (.bfull 0 b) .u _) = _
    rw [issue_of_canIssue (issues rfl)]
    simp [Ctx.streamed, mode]

theorem streamed_call_traps (can : s.canTrap) (o : BitVec 26) : Traps (.call o) s 0x01 (wordOf (.call o)) := by
  refine .of_trap can ?_
  show Host.Outcome.next (s.issue (.call o) .u _) = _
  rw [issue_of_canIssue (issues rfl)]
  simp [State.notStreamed, Ctx.streamed, mode, illegalOp]

end

/-- Settles O34: each word's next state is the lemma about it; those of the head change a cluster alone (`ClusterFrame`). -/
theorem streamWords : Obligations.StreamWords := by
  refine ⟨fun s a b o w plain cleared once mode => ?transfers, fun s a d e skew ready can helper read beats => ?helpers,
    fun s a d skew ready first read beats => ?heads, fun s a d idle first plain cleared once read => ?detaches,
    fun s d idle g ready first tag plain => ?gangs⟩
  case transfers =>
    have issues {i : Instr} (wf : i.wf = true) : s.canIssue i .u := ⟨wf, .inl plain, cleared⟩
    obtain ⟨jmp, branches⟩ := streamed_noOps issues mode once b o
    refine ⟨jmp, branches, fun can other take => ⟨streamed_call_traps issues mode can o, ?_, ?_, fun good => ?_, fun good => ?_⟩⟩
    · exact traps_of_streamed_brFull (want := true) mode can (issues rfl) other rfl
    · exact traps_of_streamed_brFull (want := false) mode can (issues rfl) other rfl
    · have br {i} (f : Cond) (wf : i.wf = true) := traps_of_streamed_brWord (i := i) (f := f) (b := b) mode can (issues wf) other good
      have any : [a].any s.cx.isBad = false := by simpa using good
      exact ⟨br .eqz rfl rfl, br .nez rfl rfl, br .ltz rfl rfl, br .gez rfl rfl, br .gtz rfl rfl, br .lez rfl rfl,
        traps_of_streamed_regs mode can (issues take) any rfl, traps_of_streamed_regs mode can (issues take) any rfl⟩
    · exact traps_of_streamed_regs (rs := [31]) mode can (issues rfl) (by simpa using good) rfl
  case helpers =>
    have issues {i : Instr} (wf : i.wf = true) : s.canIssue i .u := canIssue_of_ready ready wf
    refine ⟨.of_trap can ?_, .of_trap can ?_, .of_trap can ?_, join_traps_helper (issues rfl) read.of_pair can helper⟩
    · show Host.Outcome.next (s.issue (.sstart d a e skew) .u _) = _
      rw [issue_withRegs (issues (i := .sstart d a e skew) (bne_iff_ne.mpr beats)) read.of_pair, State.past_cur, if_pos (.inl helper)]; rfl
    · show Host.Outcome.next (s.issue (.sstop d a e) .u _) = _
      rw [issue_withRegs (issues rfl) read.of_pair, State.past_cur, if_pos helper]; rfl
    · show Host.Outcome.next (s.issue (.detach d a) .u _) = _
      rw [issue_withRegs (issues rfl) read, State.past_cur, if_pos (.inl helper)]; rfl
  case heads =>
    have order := ready.order
    refine ⟨fun fits reserved => ?_, fun fits => ?_⟩
    · have run := exec_sstart ready first read (d := d) beats fits reserved rfl
      refine ⟨fun other => .of_done order ?_, fun own runs => .of_done order ?_, fun own stopped => ?_⟩
      · rw [run, if_pos other, past_done order]
      · rw [run, if_neg (ne_false_of_eq_true own), if_pos runs, past_done order]
      · rw [if_neg (ne_false_of_eq_true own), if_neg (ne_true_of_eq_false stopped)] at run
        obtain ⟨frame, head⟩ := s.past.startHead_spec ((s.cx.reg a).toNat / 2 ^ 16 % 256) ((s.cx.reg a).toNat % 2 ^ 14) skew.toNat (s.now + 8)
        obtain ⟨file, retired, gmem, lmem, clusters⟩ := done_of_clusterFrame order frame d 0
        refine ⟨_, run, file, retired, ?_⟩
        rw [State.clus_congr clusters, head]
        exact ⟨rfl, rfl, rfl, rfl, gmem, lmem⟩
    · have run := exec_sstop ready first read (d := d) fits
      refine ⟨fun other => .of_done order ?_, fun own => ?_⟩
      · rw [run, if_pos other, past_done order]
      · rw [if_neg (ne_false_of_eq_true own)] at run
        obtain ⟨file, retired, gmem, lmem, clusters⟩ := done_of_clusterFrame (u := s.past.stopHead (s.cx.reg a).toNat) order (.setClus ..) d 0
        refine ⟨_, run, file, retired, ?_⟩
        rw [State.clus_congr clusters, State.stopHead, State.clus_setClus]
        exact ⟨rfl, gmem, lmem⟩
  case detaches =>
    have issues {i : Instr} (wf : i.wf = true) : s.canIssue i .u := ⟨wf, .inl plain, cleared⟩
    refine ⟨fun mode => ⟨fun stays => ?_, detach_leaves (issues rfl) first read mode⟩, fun mode => ⟨fun inside ahead => ?_,
      join_traps_beyond (issues rfl) read.of_pair, fun can inside => join_traps_late (issues rfl) read.of_pair first mode inside can⟩⟩
    · have run := exec_detach (issues rfl) first read mode
      rw [if_pos stays] at run
      obtain ⟨t, run, buf, regs, streamed, -⟩ := streamNoOp_of_finish once mode run
      exact ⟨t, run, regs, streamed, buf⟩
    · obtain ⟨t, run, only, regs, parked, pc, -⟩ := join_waits (idle := idle) (issues rfl) read.of_pair first mode inside ahead
      exact ⟨t, run, only, regs, parked, pc⟩
  case gangs =>
    have can : s.canIssue (.gang d idle g) .u := canIssue_of_ready ready (bne_iff_ne.mpr tag)
    refine ⟨fun w fired => ?_, fun unfired => ?_⟩
    · obtain ⟨file, retired, gmem, lmem, clusters⟩ := done_of_clusterFrame (u := s.past.tookResult s.cur.1) ready.order (.setClus ..) d w
      refine ⟨_, exec_gang_fired can first plain fired, file, retired, ?_, gmem, lmem⟩
      rw [State.bridle_congr clusters, State.results_tookResult]
    · have run := exec_gang_waits can first plain unfired
      refine ⟨fun arrived => .of_park ?_, fun away busy => .of_park ?_, fun away settled => ?_⟩
      · rw [run, if_pos arrived]
      · rw [run, if_neg (by simp [away]), if_pos busy]
      · rw [if_neg (by simp [away]), if_neg (by simp [settled])] at run
        have arrives := s.past.arrived_bridleArrive s.cur.1 ⟨g.toNat, none, 0⟩
        refine ⟨_, run, ?_⟩
        rw [State.cx_park, State.bridleArrive_cx, Ctx.setRun_run, Ctx.setRun_pc]
        exact ⟨rfl, s.past_regs, s.past_pc, .inl arrives⟩

end Sys2Proof.Machine
end
